-- ==== Sys2Proof/Word.lean ====
section
/-! DEFINITION. The words the ZG48 computes with (R1, R2): bytes, 32-bit words, 64-bit pairs, and
their plainest arithmetic. Everything a test could show wrong stands in Decode.lean or Machine/. -/
namespace Sys2Proof

/-- A byte (R3). -/
abbrev Byte := BitVec 8
/-- A 32-bit register or instruction word. -/
abbrev Word := BitVec 32
/-- A 64-bit value: a register pair, a program address, a tick-sized register. -/
abbrev DWord := BitVec 64
/-- A 128-bit value: a register quad. -/
abbrev QWord := BitVec 128

/-- The field `[hi:lo]` of a number, `width = hi - lo + 1` (R2). -/
def natField (w lo width : Nat) : Nat := w / 2 ^ lo % 2 ^ width

end Sys2Proof
end

