-- ==== Sys2Proof/Syntax.lean ====
section
/-! DEFINITION. The syntax of the ZG48: one constructor of `Instr` for each row of the opcode table.
The rows with bits are the Jexzen instruction words (R314, R321); an operand structure stands for
one word format. The rows without bits are steps of the device; their operands are the facts of the
run that the device meets there (which core, which reading, which answer of the tenant's plug-in). -/
namespace Sys2Proof

/-- A register field of an instruction word: v0 to v127, or x0 to x63 on the movement sequencer (R314). -/
abbrev RegNo := BitVec 7

/-- Format R with two sources (R314): destination, sources, trap-on-empty bit, hold bits. -/
structure FmtR where
  d : RegNo
  a : RegNo
  b : RegNo
  e : Bool
  ha : Bool
  hb : Bool
  deriving DecidableEq, Repr

/-- Format R with the one source A; B and HB are zero (R321). -/
structure FmtR1 where
  d : RegNo
  a : RegNo
  e : Bool
  ha : Bool
  deriving DecidableEq, Repr

/-- Format R with a source and no destination (HSET, FCAN, PLD). -/
structure FmtSrc where
  a : RegNo
  e : Bool
  ha : Bool
  deriving DecidableEq, Repr

/-- Format R with a destination and no source but the E bit (HGET, PST, and QHLP in format Q). -/
structure FmtDst where
  d : RegNo
  e : Bool
  deriving DecidableEq, Repr

/-- Format RK (R314): K is a predicate (SEL) or a format slot (CVTW4, CVTN4). -/
structure FmtRK where
  d : RegNo
  a : RegNo
  b : RegNo
  k : BitVec 3
  deriving DecidableEq, Repr

/-- Rounding modes, with the codes of R291. -/
inductive Rm where
  | rne | rtz | rdn | rup
  deriving DecidableEq, Repr

/-- Format M of I2F and F2I (R371, R372): 64-bit and unsigned side, rounding. -/
structure FmtMI where
  d : RegNo
  a : RegNo
  w64 : Bool
  uns : Bool
  rm : Rm
  e : Bool
  ha : Bool
  deriving DecidableEq, Repr

/-- The formats F2F names, with the codes of R373. -/
inductive F2Fmt where
  | f32 | f16 | bf16 | f64
  deriving DecidableEq, Repr

/-- Format M of F2F (R373). -/
structure FmtMF where
  d : RegNo
  a : RegNo
  dst : F2Fmt
  src : F2Fmt
  rm : Rm
  e : Bool
  ha : Bool
  deriving DecidableEq, Repr

/-- Format M of FRND (R366). -/
structure FmtMR where
  d : RegNo
  a : RegNo
  rm : Rm
  e : Bool
  ha : Bool
  deriving DecidableEq, Repr

/-- Format M of SCL (R374): a slot number. -/
structure FmtMS where
  d : RegNo
  a : RegNo
  slot : BitVec 3
  e : Bool
  ha : Bool
  deriving DecidableEq, Repr

/-- Format I with destination, source and a 10-bit immediate (R356). -/
structure FmtI where
  d : RegNo
  a : RegNo
  imm : BitVec 10
  deriving DecidableEq, Repr

/-- The kinds of SHI (R357). -/
inductive ShKind where
  | shl | shr | sar | rotl
  deriving DecidableEq, Repr

/-- Format I of SHI (R357). -/
structure FmtSh where
  d : RegNo
  a : RegNo
  kind : ShKind
  amount : BitVec 5
  deriving DecidableEq, Repr

/-- The conditions of ISETP, in code order (R354). -/
inductive ICond where
  | eq | ne | lt | le | gt | ge | ltu | leu | gtu | geu
  deriving DecidableEq, Repr

/-- The conditions of FSETP and DSETP, in code order (R367). -/
inductive FCond where
  | eq | ne | lt | le | gt | ge | eqn | nen | ltn | len | gtn | gen | isnum | isnan
  deriving DecidableEq, Repr

/-- Format C of ISETP (R354). -/
structure FmtCI where
  pd : BitVec 3
  cond : ICond
  a : RegNo
  b : RegNo
  e : Bool
  ha : Bool
  hb : Bool
  deriving DecidableEq, Repr

/-- Format C of FSETP and DSETP (R367). -/
structure FmtCF where
  pd : BitVec 3
  cond : FCond
  a : RegNo
  b : RegNo
  e : Bool
  ha : Bool
  hb : Bool
  deriving DecidableEq, Repr

/-- Format C with a destination predicate and the one source A (SPRES, FTEST). -/
structure FmtCP where
  pd : BitVec 3
  a : RegNo
  e : Bool
  ha : Bool
  deriving DecidableEq, Repr

/-- Access sizes, in code order (R378); code 111 is illegal. -/
inductive Sz where
  | b8 | s8 | b16 | s16 | b32 | b64 | b128
  deriving DecidableEq, Repr

/-- Memory orders, in code order (R314). -/
inductive MemOrd where
  | rlx | acq | rel | acqrel
  deriving DecidableEq, Repr

/-- Scopes, in code order (R314). -/
inductive Scope where
  | core | cluster | device | system
  deriving DecidableEq, Repr

/-- Cache hints, in code order (R224). -/
inductive Ch where
  | def_ | stream | keep | bypass
  deriving DecidableEq, Repr

/-- Format MEM of LD and ST, whole (R383). -/
structure FmtMem where
  d : RegNo
  a : RegNo
  sz : Sz
  ord : MemOrd
  scp : Scope
  e : Bool
  ch : Ch
  deriving DecidableEq, Repr

/-- Format MEM with CH zero (LDS, STS, LDL, STL). -/
structure FmtMemL where
  d : RegNo
  a : RegNo
  sz : Sz
  ord : MemOrd
  scp : Scope
  e : Bool
  deriving DecidableEq, Repr

/-- Format MEM of LDP (R386). -/
structure FmtLdp where
  d : RegNo
  a : RegNo
  sz : Sz
  e : Bool
  deriving DecidableEq, Repr

/-- Format MEM of CCTL.CLEAN and CCTL.INVAL (R390): SCP and CH are ignored and kept. -/
structure FmtCctl where
  a : RegNo
  scp : Scope
  ch : Ch
  deriving DecidableEq, Repr

/-- Atomic operations, in code order (R321). -/
inductive Aop where
  | add | min | max | minu | maxu | and | or | xor | xchg | fadd | cas
  deriving DecidableEq, Repr

/-- Format AT (R314). -/
structure FmtAt where
  d : RegNo
  a : RegNo
  aop : Aop
  ord : MemOrd
  scp : Scope
  w64 : Bool
  e : Bool
  deriving DecidableEq, Repr

/-- Format Q that names a mask only (MJOIN, MLEAVE, MWAIT, MACT). -/
structure FmtQm where
  m : BitVec 4
  e : Bool
  deriving DecidableEq, Repr

/-- Format Q with a destination and a mask (MLD, ELECT). -/
structure FmtQd where
  d : RegNo
  m : BitVec 4
  e : Bool
  deriving DecidableEq, Repr

/-- Format Q with a source and a mask (MST). -/
structure FmtQa where
  a : RegNo
  m : BitVec 4
  e : Bool
  deriving DecidableEq, Repr

/-- Format Q with destination, source and mask (WSHFL). -/
structure FmtQ where
  d : RegNo
  a : RegNo
  m : BitVec 4
  e : Bool
  deriving DecidableEq, Repr

/-- The exchanges of QSWP, in code order (R408). -/
inductive QDir where
  | horizontal | vertical | diagonal
  deriving DecidableEq, Repr

/-- The votes of WVOTE, in code order (R411). -/
inductive VoteOp where
  | any | all | ballot | count
  deriving DecidableEq, Repr

/-- The operations of WRED and WSCAN, in code order (R412). -/
inductive RedOp where
  | iadd | imin | imax | and | or | xor | fadd | fmax
  deriving DecidableEq, Repr

/-- Overflow policies of CVTN4, in code order (R300). -/
inductive Ovf where
  | sat | inf | nan | trap
  deriving DecidableEq, Repr

/-- Format P of PSET (R415). -/
structure FmtP where
  pd : BitVec 3
  pa : BitVec 3
  pb : BitVec 3
  lut : BitVec 4
  deriving DecidableEq, Repr

/-- Format E of CPY, CPYT and LXF (R436): token, wait mask, x register. -/
structure FmtE where
  tok : BitVec 3
  wm : BitVec 8
  a : BitVec 7
  deriving DecidableEq, Repr

/-- Format E of TKW, TKT, SPCLR and SPSET: wait mask, x register (R446, R448). -/
structure FmtEw where
  wm : BitVec 8
  a : BitVec 7
  deriving DecidableEq, Repr

/-- Format PB: the predicate block (R317). -/
structure FmtPB where
  p : BitVec 3
  n : Bool
  len : BitVec 3
  pat : BitVec 8
  deriving DecidableEq, Repr

/-- Format X: the IMX extension bits (R316). -/
structure FmtX where
  imm : BitVec 22
  deriving DecidableEq, Repr

/-- Format B: predicate, negation, priority, signed word offset (R314). -/
structure FmtB where
  p : BitVec 3
  n : Bool
  prio : BitVec 4
  off : BitVec 16
  deriving DecidableEq, Repr

/-- Format J: signed word offset (R314). -/
structure FmtJ where
  off : BitVec 24
  deriving DecidableEq, Repr

/-- Format I of JMPI (R341). -/
structure FmtJmpi where
  a : RegNo
  prio : BitVec 4
  deriving DecidableEq, Repr

/-- Format I of CALLI (R341). -/
structure FmtCalli where
  d : RegNo
  a : RegNo
  prio : BitVec 4
  deriving DecidableEq, Repr

/-- Format I of SETPRIO (R342). -/
structure FmtPrio where
  prio : BitVec 4
  deriving DecidableEq, Repr

/-- Format I of WINB (R344). -/
structure FmtWinb where
  base : BitVec 5
  deriving DecidableEq, Repr

/-- Format S of BRK and TRAP (R452). -/
structure FmtCode where
  code : BitVec 10
  deriving DecidableEq, Repr

/-- Format I of MOVI (R356). -/
structure FmtMovi where
  d : RegNo
  imm : BitVec 10
  deriving DecidableEq, Repr

/-- Format RK of CVTW4 with its scale selector (R375). -/
structure FmtCvtw where
  s : BitVec 2
  d : RegNo
  a : RegNo
  b : RegNo
  k : BitVec 3
  deriving DecidableEq, Repr

/-- Format RK of CVTN4 with its policy and scale selector (R376). -/
structure FmtCvtn where
  ovf : Ovf
  s : BitVec 2
  d : RegNo
  a : RegNo
  b : RegNo
  k : BitVec 3
  deriving DecidableEq, Repr

/-- Format MEM of PRF (R387). -/
structure FmtPrf where
  a : RegNo
  ch : Ch
  deriving DecidableEq, Repr

/-- Format MEM of FENCE (R389). -/
structure FmtFence where
  ord : MemOrd
  scp : Scope
  deriving DecidableEq, Repr

/-- Format MEM of CCTL.CLEANALL (R390). -/
structure FmtCctlAll where
  scp : Scope
  ch : Ch
  deriving DecidableEq, Repr

/-- Format I of BAR, BARA and BARW (R416). -/
structure FmtBar where
  b : BitVec 4
  deriving DecidableEq, Repr

/-- Immediate form of STGW (R422). -/
structure FmtStgw where
  phase : Bool
  slot : BitVec 4
  ring : BitVec 2
  deriving DecidableEq, Repr

/-- Register form of STGW and STGA (R422). -/
structure FmtStgR where
  a : RegNo
  ring : BitVec 2
  deriving DecidableEq, Repr

/-- Immediate form of STGA (R422). -/
structure FmtStga where
  slot : BitVec 4
  ring : BitVec 2
  deriving DecidableEq, Repr

/-- A destination pair alone (TIME, CLK). -/
structure FmtD where
  d : RegNo
  deriving DecidableEq, Repr

/-- Format Q of QSWP (R408). -/
structure FmtQswp where
  dir : QDir
  d : RegNo
  a : RegNo
  m : BitVec 4
  e : Bool
  deriving DecidableEq, Repr

/-- Format Q of QBC (R408). -/
structure FmtQbc where
  n : BitVec 2
  d : RegNo
  a : RegNo
  m : BitVec 4
  e : Bool
  deriving DecidableEq, Repr

/-- Format Q of WVOTE (R411). -/
structure FmtVote where
  op : VoteOp
  d : RegNo
  a : RegNo
  m : BitVec 4
  e : Bool
  deriving DecidableEq, Repr

/-- Format Q of WRED and WSCAN (R412). -/
structure FmtRed where
  op : RedOp
  d : RegNo
  a : RegNo
  m : BitVec 4
  e : Bool
  deriving DecidableEq, Repr

/-- Format I of TZERO and TFREE (R435). -/
structure FmtTile where
  t : BitVec 2
  deriving DecidableEq, Repr

/-- Format E of CPYM with its core mask (R440). -/
structure FmtEm where
  tok : BitVec 3
  wm : BitVec 8
  a : RegNo
  mask : BitVec 4
  deriving DecidableEq, Repr

/-- Barrier forms of TKW and TKT (R447). -/
structure FmtEb where
  wm : BitVec 8
  b : BitVec 4
  deriving DecidableEq, Repr

/-- Format S of SRD (R449). -/
structure FmtSrd where
  d : RegNo
  sel : BitVec 10
  deriving DecidableEq, Repr

/-- Format S of SWR (R449). -/
structure FmtSwr where
  a : RegNo
  sel : BitVec 10
  deriving DecidableEq, Repr

/-! ## Facts that the steps of the device bring with them (log 2) -/

/-- The sensors of R66. -/
inductive Sensor where
  | die (d p : Nat)
  | hbm (stack : Nat)
  | converter (cluster : Nat)
  | meter (part : Nat)
  | volts
  | amps
  | checkerRail (n : Nat)
  deriving DecidableEq, Repr

/-- How a plug-in's code runs in the call that a hook makes, where a plug-in is loaded (R60 to R62): bytes it stores, by
address, and then an ECALL with its a7 and a0, or an exception; none is a call that ends without an answer. -/
inductive Plug where
  | none
  | ecall (a7 : Nat) (a0 : Int) (stores : List (Nat × BitVec 8))
  | exception (stores : List (Nat × BitVec 8))
  deriving DecidableEq, Repr

/-- Who made a call or a request: an application core, or a PLDM request over the management port (R54, R128, R130). -/
inductive Caller where
  | hart (n : Nat)
  | pldm
  deriving DecidableEq, Repr

/-- A call with its caller: the first number that the call names is its context, record address, function, partition or hart. -/
structure Call where
  by_ : Caller
  n : Nat
  deriving DecidableEq, Repr

/-- Who reaches device registers: the Garax monitor, the scheduler firmware, an application core, and the host through a
port in endpoint mode (R36, R56, R58). -/
inductive Layer where
  | garax
  | scheduler
  | hart (n : Nat)
  | host
  deriving DecidableEq, Repr

/-- What is attached to a PCIe port: a host, or a device that a root port accepts, or another one (R36, R37). -/
inductive Attached where
  | host | nvme | nic | expander | other
  deriving DecidableEq, Repr

/-- What a cold boot meets at step 6: PTP time when the servo locks, the links that train, the rate and
lanes at which each port trains and what is attached to it. -/
structure BootFacts where
  lock : Option Nat
  links : List Nat
  ports : List (Nat × Nat × Attached)
  deriving DecidableEq, Repr

/-- IEEE 1588 messages a slave-only ordinary clock uses, and any other (R40). -/
inductive PtpMsg where
  | announce
  | sync (twoStep : Bool)
  | followUp (origin : Nat)
  | delayResp (receive : Nat)
  | other
  deriving DecidableEq, Repr

/-- How a peer ended a request: performed, turned away (R30, R125), or read from a poisoned line (R117). -/
inductive PeerEnd where
  | ok | denied | poisoned
  deriving DecidableEq, Repr

/-- The payload of a flit (R27, R32, R33): a request of classes 1, 3, 4, 6 and 7 with the identity of the device
that sends it, its number there and local addresses; a response of classes 2 and 5, and a completion, of the
request with that number. The atomics of one line are one request, in lane order (R32, R267). -/
inductive PeerMsg where
  | none
  | read (src tag addr bytes : Nat)
  | write (src tag : Nat) (cells : List (Nat × BitVec 8))
  /-- address, operand and compare word of each part -/
  | atom (src tag bytes : Nat) (aop : Aop) (parts : List (Nat × Nat × Nat))
  | data (tag : Nat) (bytes : List (BitVec 8)) (end_ : PeerEnd)
  | done (tag : Nat) (end_ : PeerEnd)
  deriving DecidableEq, Repr

/-- A register of an application core (R45); x0 discards writes. -/
inductive HReg where
  | x (n : Nat)
  | f (n : Nat)
  | v (n : Nat)
  deriving DecidableEq, Repr

/-- What an access of an application core does at a virtual address (R49, R52): a load with or without sign extension, a
store, an atomic, a load-reserved and a store-conditional into an integer register, and a fence. -/
inductive AppAcc where
  | load (va bytes : Nat) (signed : Bool) (dst : HReg)
  | store (va : Nat) (data : List Byte)
  | atomic (aop : Aop) (va bytes x rd : Nat)
  | reserve (va bytes rd : Nat)
  | conditional (va : Nat) (data : List Byte) (rd : Nat)
  | fence
  deriving DecidableEq, Repr

/-- An access as an instruction makes it: whether the core caches the translation (R53), and where the next instruction
lies. -/
structure AppIns where
  acc : AppAcc
  keep : Bool := true
  next : Nat := 0
  deriving DecidableEq, Repr

/-- The registers that the Garax monitor, the scheduler firmware or the owner of a notify page reaches. -/
inductive MReg where
  /-- an offset of a notify page: function, offset, bytes -/
  | notify (vf offset bytes : Nat)
  | partAllot (p : Nat)
  | partBase (p : Nat)
  | partMeter (p : Nat)
  | partIdle (p : Nat)
  | partSched (p : Nat)
  | clBoost (c : Nat)
  | clDroop (c : Nat)
  | cslope (c : Nat)
  | ctxL2lim (k : Nat)
  | ctxMsclim (k : Nat)
  | ctxL2occ (k : Nat)
  | ctxMscocc (k : Nat)
  /-- CORE_INJ and CORE_INJK of a core (R237) -/
  | coreInj (c : Nat)
  | coreInjk (c : Nat)
  /-- an entry of the peer table; the value written is its egress mask (R24) -/
  | peer (n ident : Nat) (valid : Bool)
  /-- the partition boundary of a gallery in the device fabric: its partition, 255 for none (R18, R58) -/
  | fabric (gallery : Nat)
  /-- the partition of a virtual function, 255 for none (R78) -/
  | vfPart (vf : Nat)
  /-- the PTP domain in [6:0] and the transport in [7], 1 for Ethernet (R40) -/
  | ptp
  deriving DecidableEq, Repr

/-- The calls of the standard SBI extensions (R46). Hart masks are as SBI gives them: bits and base, all with base −1; remote
fences name a range by its start and size. -/
inductive Sbi where
  | base (fid arg : Nat)
  | setTimer (t : Nat)
  | sendIpi (mask : Nat) (from_ : Int)
  /-- remote fences: of instructions, of the host's and of a guest's first-stage, and of second-stage translation -/
  | fenceI (mask : Nat) (from_ : Int)
  | sfence (mask : Nat) (from_ : Int) (start size : Nat)
  | hfenceV (mask : Nat) (from_ : Int) (start size : Nat)
  | hfenceG (mask : Nat) (from_ : Int) (start size : Nat)
  | hartStop
  | hartStatus (hart : Nat)
  | hartSuspend (kind addr arg : Nat)
  | systemReset (kind : Nat)
  deriving DecidableEq, Repr

/-- What an application core does by itself (R45 to R53). -/
inductive HartOp where
  /-- the instruction at its pc; `keep` says whether the core caches the translations (R53) -/
  | run (keep : Bool)
  /-- an instruction of floating point or of vectors, which the spec only names: the register's value, and the next pc -/
  | result (dst : HReg) (v pc : Nat)
  /-- a read of a device register -/
  | read (r : MReg) (rd : Nat)
  /-- an exception that such an instruction raises, or an interrupt that is pending and enabled -/
  | trap (cause tval : Nat)
  deriving DecidableEq, Repr

/-- The units in which errors lie, with the galleries that own them (R19, R20, R115): a core, an L2 slice, an HBM channel
with its memory-side cache slice. -/
inductive ErrUnit where
  | core (n : Nat)
  | slice (n : Nat)
  | channel (n : Nat)
  deriving DecidableEq, Repr

/-- What an uncorrectable error in data hits (R117): a clean line, a dirty line or HBM, a team's core-internal state. -/
inductive UncorrAt where
  | clean | line | team
  deriving DecidableEq, Repr

/-- The access that found an error, where there was one: its address, the team that made it (R122). -/
structure Found where
  addr : Option Nat
  team : Option Nat
  deriving DecidableEq, Repr

/-- A droop seen by a detector (R93): its cluster, and how far below the target voltage, in millivolts. -/
structure Droop where
  cluster : Nat
  shortfall : Nat
  deriving DecidableEq, Repr

/-- What a partition is to hold (R77): galleries, and ranges of HBM as base and size. -/
structure Extent where
  galleries : BitVec 48
  ranges : List (Nat × Nat)
  deriving DecidableEq, Repr

/-- Where a PTP message comes from (R40): over Ethernet or not, and its domain. -/
structure PtpFrom where
  ethernet : Bool
  domain : Nat
  deriving DecidableEq, Repr

/-- A boot step that fails (R75), with the facts of the boot that follows. -/
structure FailedStep where
  step : Nat
  facts : BootFacts
  deriving DecidableEq, Repr

/-- A register and the layer that reaches for it. -/
structure RegAt where
  by_ : Layer
  reg : MReg
  deriving DecidableEq, Repr

/-- Where a tag or state error lies (R118): a clean L1 or checker-cache tag of a core, a dirty L1 tag, or an L2
tag, directory entry or controller store of a slice or channel. -/
inductive TagAt where
  | clean (core : Nat)
  | dirty (core : Nat)
  | shared (unit : ErrUnit)
  deriving DecidableEq, Repr

/-- The instructions and steps of the ZG48: one constructor per row of the opcode table. -/
inductive Instr where
  /-- NOP (R336). -/
  | nop
  /-- PBLK (R317). -/
  | pblk (f : FmtPB)
  /-- IMX (R316). -/
  | imx (f : FmtX)
  /-- BRA (R339). -/
  | bra (f : FmtB)
  /-- JMP (R340). -/
  | jmp (f : FmtJ)
  /-- CALL (R340). -/
  | call (f : FmtJ)
  /-- JMPI (R341). -/
  | jmpi (f : FmtJmpi)
  /-- CALLI (R341). -/
  | calli (f : FmtCalli)
  /-- SETPRIO (R342). -/
  | setprio (f : FmtPrio)
  /-- EXIT (R343). -/
  | exit
  /-- WINB (R344). -/
  | winb (f : FmtWinb)
  /-- YIELD (R345). -/
  | yield
  /-- BRK (R452). -/
  | brk (f : FmtCode)
  /-- TRAP (R452). -/
  | trap (f : FmtCode)
  /-- RFT (R453). -/
  | rft
  /-- IADD (R348). -/
  | iadd (f : FmtR)
  /-- ISUB (R348). -/
  | isub (f : FmtR)
  /-- IMUL (R348). -/
  | imul (f : FmtR)
  /-- IMULH (R348). -/
  | imulh (f : FmtR)
  /-- IMULHU (R348). -/
  | imulhu (f : FmtR)
  /-- IMAD (R348). -/
  | imad (f : FmtR)
  /-- IMAD64 (R351). -/
  | imad64 (f : FmtR)
  /-- IMAD64U (R351). -/
  | imad64u (f : FmtR)
  /-- IADD64 (R351). -/
  | iadd64 (f : FmtR)
  /-- ISUB64 (R351). -/
  | isub64 (f : FmtR)
  /-- IDIV (R349). -/
  | idiv (f : FmtR)
  /-- IDIVU (R349). -/
  | idivu (f : FmtR)
  /-- IREM (R349). -/
  | irem (f : FmtR)
  /-- IREMU (R349). -/
  | iremu (f : FmtR)
  /-- MIN (R348). -/
  | min (f : FmtR)
  /-- MAX (R348). -/
  | max (f : FmtR)
  /-- MINU (R348). -/
  | minu (f : FmtR)
  /-- MAXU (R348). -/
  | maxu (f : FmtR)
  /-- ABS (R350). -/
  | abs (f : FmtR1)
  /-- AND (R348). -/
  | and (f : FmtR)
  /-- OR (R348). -/
  | or (f : FmtR)
  /-- XOR (R348). -/
  | xor (f : FmtR)
  /-- ANDN (R348). -/
  | andn (f : FmtR)
  /-- SHL (R348). -/
  | shl (f : FmtR)
  /-- SHR (R348). -/
  | shr (f : FmtR)
  /-- SAR (R348). -/
  | sar (f : FmtR)
  /-- ROTL (R348). -/
  | rotl (f : FmtR)
  /-- POPC (R350). -/
  | popc (f : FmtR1)
  /-- CLZ (R350). -/
  | clz (f : FmtR1)
  /-- BREV (R350). -/
  | brev (f : FmtR1)
  /-- BFE (R352). -/
  | bfe (f : FmtR)
  /-- BFI (R352). -/
  | bfi (f : FmtR)
  /-- BPICK (R353). -/
  | bpick (f : FmtR)
  /-- LEA_X1 (R351). -/
  | leaX1 (f : FmtR)
  /-- LEA_X2 (R351). -/
  | leaX2 (f : FmtR)
  /-- LEA_X4 (R351). -/
  | leaX4 (f : FmtR)
  /-- LEA_X8 (R351). -/
  | leaX8 (f : FmtR)
  /-- IDOT4 (R348). -/
  | idot4 (f : FmtR)
  /-- IDOT4U (R348). -/
  | idot4u (f : FmtR)
  /-- ISETP (R354). -/
  | isetp (f : FmtCI)
  /-- SEL (R355). -/
  | sel (f : FmtRK)
  /-- MOV (R350). -/
  | mov (f : FmtR1)
  /-- MOVI (R356). -/
  | movi (f : FmtMovi)
  /-- IADDI (R356). -/
  | iaddi (f : FmtI)
  /-- ANDI (R356). -/
  | andi (f : FmtI)
  /-- ORI (R356). -/
  | ori (f : FmtI)
  /-- XORI (R356). -/
  | xori (f : FmtI)
  /-- SHI (R357). -/
  | shi (f : FmtSh)
  /-- FADD (R361). -/
  | fadd (f : FmtR)
  /-- FSUB (R361). -/
  | fsub (f : FmtR)
  /-- FMUL (R361). -/
  | fmul (f : FmtR)
  /-- FFMA (R361). -/
  | ffma (f : FmtR)
  /-- FFMS (R361). -/
  | ffms (f : FmtR)
  /-- FNMA (R361). -/
  | fnma (f : FmtR)
  /-- FMIN (R362). -/
  | fmin (f : FmtR)
  /-- FMAX (R362). -/
  | fmax (f : FmtR)
  /-- FABS (R363). -/
  | fabs (f : FmtR1)
  /-- FNEG (R363). -/
  | fneg (f : FmtR1)
  /-- FSETP (R367). -/
  | fsetp (f : FmtCF)
  /-- FCLASS (R364). -/
  | fclass (f : FmtR1)
  /-- FRND (R366). -/
  | frnd (f : FmtMR)
  /-- FDIV (R361). -/
  | fdiv (f : FmtR)
  /-- FSQRT (R365). -/
  | fsqrt (f : FmtR1)
  /-- FRCP (R365). -/
  | frcp (f : FmtR1)
  /-- FRSQ (R365). -/
  | frsq (f : FmtR1)
  /-- FEX2 (R365). -/
  | fex2 (f : FmtR1)
  /-- FLG2 (R365). -/
  | flg2 (f : FmtR1)
  /-- FSIN (R365). -/
  | fsin (f : FmtR1)
  /-- FCOS (R365). -/
  | fcos (f : FmtR1)
  /-- FTANH (R365). -/
  | ftanh (f : FmtR1)
  /-- DADD (R368). -/
  | dadd (f : FmtR)
  /-- DMUL (R368). -/
  | dmul (f : FmtR)
  /-- DFMA (R368). -/
  | dfma (f : FmtR)
  /-- DSETP (R367). -/
  | dsetp (f : FmtCF)
  /-- HADD2 (R369). -/
  | hadd2 (f : FmtR)
  /-- HMUL2 (R369). -/
  | hmul2 (f : FmtR)
  /-- HFMA2 (R369). -/
  | hfma2 (f : FmtR)
  /-- BADD2 (R369). -/
  | badd2 (f : FmtR)
  /-- BMUL2 (R369). -/
  | bmul2 (f : FmtR)
  /-- BFMA2 (R369). -/
  | bfma2 (f : FmtR)
  /-- FDOT2B (R370). -/
  | fdot2b (f : FmtR)
  /-- FDOT2H (R370). -/
  | fdot2h (f : FmtR)
  /-- I2F (R371). -/
  | i2f (f : FmtMI)
  /-- F2I (R372). -/
  | f2i (f : FmtMI)
  /-- F2F (R373). -/
  | f2f (f : FmtMF)
  /-- SCL (R374). -/
  | scl (f : FmtMS)
  /-- CVTW4 (R375). -/
  | cvtw4 (f : FmtCvtw)
  /-- CVTN4 (R376). -/
  | cvtn4 (f : FmtCvtn)
  /-- LD (R383). -/
  | ld (f : FmtMem)
  /-- ST (R383). -/
  | st (f : FmtMem)
  /-- LDS (R384). -/
  | lds (f : FmtMemL)
  /-- STS (R384). -/
  | sts (f : FmtMemL)
  /-- LDL (R385). -/
  | ldl (f : FmtMemL)
  /-- STL (R385). -/
  | stl (f : FmtMemL)
  /-- LDP (R386). -/
  | ldp (f : FmtLdp)
  /-- PRF (R387). -/
  | prf (f : FmtPrf)
  /-- SPRES (R388). -/
  | spres (f : FmtCP)
  /-- FENCE (R389). -/
  | fence (f : FmtFence)
  /-- CCTL_CLEAN (R390). -/
  | cctlClean (f : FmtCctl)
  /-- CCTL_INVAL (R390). -/
  | cctlInval (f : FmtCctl)
  /-- CCTL_CLEANALL (R390). -/
  | cctlCleanAll (f : FmtCctlAll)
  /-- GPRIV (R391). -/
  | gpriv (f : FmtR1)
  /-- ISPACE (R391). -/
  | ispace (f : FmtR1)
  /-- ATOM (R394). -/
  | atom (f : FmtAt)
  /-- RED (R394). -/
  | red (f : FmtAt)
  /-- ATOMS (R395). -/
  | atoms (f : FmtAt)
  /-- HOPEN (R398). -/
  | hopen (f : FmtR1)
  /-- HSET (R399). -/
  | hset (f : FmtSrc)
  /-- HGET (R399). -/
  | hget (f : FmtDst)
  /-- HCONF (R400). -/
  | hconf (f : FmtR1)
  /-- HREF (R400). -/
  | href (f : FmtR1)
  /-- HSTAT (R402). -/
  | hstat (f : FmtR1)
  /-- BAR (R417). -/
  | bar (f : FmtBar)
  /-- BARA (R417). -/
  | bara (f : FmtBar)
  /-- BARW (R417). -/
  | barw (f : FmtBar)
  /-- WAITC (R421). -/
  | waitc (f : FmtR)
  /-- STGW_IMM (R422). -/
  | stgwImm (f : FmtStgw)
  /-- STGW_REG (R422). -/
  | stgwReg (f : FmtStgR)
  /-- STGA_IMM (R422). -/
  | stgaImm (f : FmtStga)
  /-- STGA_REG (R422). -/
  | stgaReg (f : FmtStgR)
  /-- FTEST (R425). -/
  | ftest (f : FmtCP)
  /-- FCAN (R425). -/
  | fcan (f : FmtSrc)
  /-- FWAIT (R425). -/
  | fwait (f : FmtR1)
  /-- ELECT (R414). -/
  | elect (f : FmtQd)
  /-- TIME (R451). -/
  | time (f : FmtD)
  /-- CLK (R451). -/
  | clk (f : FmtD)
  /-- FID (R425). -/
  | fid (f : FmtR1)
  /-- MJOIN (R406). -/
  | mjoin (f : FmtQm)
  /-- MLEAVE (R406). -/
  | mleave (f : FmtQm)
  /-- MWAIT (R407). -/
  | mwait (f : FmtQm)
  /-- MLD (R406). -/
  | mld (f : FmtQd)
  /-- MST (R406). -/
  | mst (f : FmtQa)
  /-- MACT (R406). -/
  | mact (f : FmtQm)
  /-- QSWP (R408). -/
  | qswp (f : FmtQswp)
  /-- QBC (R408). -/
  | qbc (f : FmtQbc)
  /-- QHLP (R409). -/
  | qhlp (f : FmtDst)
  /-- WSHFL (R410). -/
  | wshfl (f : FmtQ)
  /-- WVOTE (R411). -/
  | wvote (f : FmtVote)
  /-- WRED (R413). -/
  | wred (f : FmtRed)
  /-- WSCAN (R413). -/
  | wscan (f : FmtRed)
  /-- PSET (R415). -/
  | pset (f : FmtP)
  /-- PLD (R415). -/
  | pld (f : FmtSrc)
  /-- PST (R415). -/
  | pst (f : FmtDst)
  /-- MMA (R426). -/
  | mma (f : FmtR1)
  /-- MMAP (R432). -/
  | mmap (f : FmtR1)
  /-- TLD (R434). -/
  | tld (f : FmtR1)
  /-- TST (R434). -/
  | tst (f : FmtR1)
  /-- TZERO (R435). -/
  | tzero (f : FmtTile)
  /-- TFREE (R435). -/
  | tfree (f : FmtTile)
  /-- CPY (R441). -/
  | cpy (f : FmtE)
  /-- CPYT (R442). -/
  | cpyt (f : FmtE)
  /-- CPYM (R441). -/
  | cpym (f : FmtEm)
  /-- LXF (R445). -/
  | lxf (f : FmtE)
  /-- TKW (R446). -/
  | tkw (f : FmtEw)
  /-- TKW_BAR (R447). -/
  | tkwBar (f : FmtEb)
  /-- TKW_BARW (R447). -/
  | tkwBarw (f : FmtEb)
  /-- TKT (R446). -/
  | tkt (f : FmtEw)
  /-- TKT_BAR (R447). -/
  | tktBar (f : FmtEb)
  /-- SPCLR (R448). -/
  | spclr (f : FmtEw)
  /-- SPSET (R448). -/
  | spset (f : FmtEw)
  /-- SRD (R449). -/
  | srd (f : FmtSrd)
  /-- SWR (R449). -/
  | swr (f : FmtSwr)
  /-- COLD_RESET (R75): A cold reset runs the cold boot sequence, steps 1 to 7, from controller ROM to starting hart 0. -/
  | coldReset (facts : BootFacts)
  /-- BOOT_STEP_FAILURE (R75): A boot step reports an error or exceeds its bound; the cause is logged and a cold reset starts, counting toward bank fallback. -/
  | bootStepFailure (f : FailedStep)
  /-- HART_START (R76): The operating system starts one of harts 1 to 31 through the SBI HSM extension. -/
  | hartStart (c : Call) (addr : Nat) (arg : Nat)
  /-- INPUT_VOLTAGE_FAULT (R68): A fault on the 48 V input freezes the black-box record. -/
  | inputVoltageFault
  /-- CONTROLLER_LOCKSTEP_MISMATCH (R65): A lockstep mismatch of the management controller freezes the black-box record and restarts both controller cores from the active bank. -/
  | controllerLockstepMismatch
  /-- SENSOR_POLL (R66): Every 1 ms the management controller reads the sensors and reports them through PLDM type 2. -/
  | sensorPoll (readings : List (Sensor × Nat))
  /-- PLDM_MONITORING_REQUEST (R66): A PLDM type 2 request over MCTP reads sensor values. -/
  | pldmMonitoringRequest (id : Sensor)
  /-- PLDM_FIRMWARE_UPDATE (R71): A PLDM type 5 update writes the inactive bank, checks every image and marks the bank pending. -/
  | pldmFirmwareUpdate (images : List (List Byte))
  /-- PLDM_FREEZE (R68): A PLDM freeze request freezes the black-box record. -/
  | pldmFreeze
  /-- PLDM_UNFREEZE (R68): A PLDM unfreeze command after a complete readout lets the black-box record accept events again. -/
  | pldmUnfreeze (readout : Bool)
  /-- PLDM_COLD_RESET_REQUEST (R75): A cold reset requested over PLDM releases a device held at a failed boot step. -/
  | pldmColdResetRequest
  /-- GET_VERSION (R72): The SPDM responder answers GET_VERSION. -/
  | getVersion
  /-- GET_CAPABILITIES (R72): The SPDM responder answers GET_CAPABILITIES. -/
  | getCapabilities
  /-- NEGOTIATE_ALGORITHMS (R72): The SPDM responder negotiates ECDSA P-256 and SHA-256. -/
  | negotiateAlgorithms (asym : Nat) (hash : Nat)
  /-- GET_DIGESTS (R72): The SPDM responder returns the certificate chain digests. -/
  | getDigests
  /-- GET_CERTIFICATE (R72): The SPDM responder returns its certificate chain. -/
  | getCertificate (off : Nat) (len : Nat)
  /-- CHALLENGE (R72): The SPDM responder signs a challenge with the device identity key. -/
  | challenge (nonce : List Byte)
  /-- GET_MEASUREMENTS (R73): The SPDM responder returns the current measurement indices 1 to 7. -/
  | getMeasurements (index : Nat)
  /-- PTP_MESSAGE (R40): A received IEEE 1588 message is timestamped at the MAC and disciplines the reference clock through the servo. -/
  | ptpMessage (c : PtpFrom) (seq : Nat) (m : PtpMsg)
  /-- FLIT_RECEIVE (R29): A Crezan link receives a 256 B flit, checks CRC and SEQ, delivers it in order or discards it and requests a retry. -/
  | flitReceive (link : Nat) (flit : List Byte) (msg : PeerMsg)
  /-- RETRY_REQUEST (R29): A retry request makes the sender retransmit from the flit after the last one accepted, retraining after 8 failed transmissions. -/
  | retryRequest (link : Nat) (seq : Nat)
  /-- LINK_RETRAIN_COMPLETE (R30): Retraining of a link completes and the link carries flits again. -/
  | linkRetrainComplete (link : Nat)
  /-- LINK_DOWN (R30): Retraining does not complete within 1 ms; the link is marked down, LINK_DOWN is logged and held flits move to another link. -/
  | linkDown (link : Nat)
  /-- PEER_UNREACH (R30): Held flits toward a peer with no link up for 10 ms are discarded, PEER_UNREACH is logged and their requests complete with error. -/
  | peerUnreach (peer : Nat)
  /-- TLBINV (R53): The Onaen SBI call invalidates SIMT translation for a context and range and returns when no access uses the old entries. -/
  | tlbinv (c : Call) (base : Nat) (len : Nat)
  /-- QREG (R135): The SBI call validates a registration record, consults the plug-in and registers the queue disabled with its shadow. -/
  | qreg (c : Call) (pl : Plug)
  /-- QUNREG (R54): The SBI call drains a queue and then removes it. -/
  | qunreg (c : Call) (q : Nat)
  /-- FAULTACK (R251): The SBI call resolves one fault-queue entry by retry or kill. -/
  | faultack (c : Call) (serial : Nat) (act : Nat)
  /-- PARTINFO (R54): The SBI call returns a partition's gallery mask and allotment. -/
  | partinfo (c : Call)
  /-- PLUGLOAD (R63): The SBI call validates and loads, replaces or unloads a tenant policy plug-in and recomputes measurement index 5. -/
  | plugload (c : Call) (addr : Nat) (len : Nat) (ctl : Nat)
  /-- CKPT (R128): A checkpoint request quiesces the partitions, saves scheduler state and streams memory to a safe-tier image slot. -/
  | ckpt (c : Call) (slot : Nat)
  /-- CHECKPOINT_COMPLETE (R129): Streaming of a checkpoint ends, or a sink error aborts it with CKPT_FAIL, and the partitions resume from saved state. -/
  | checkpointComplete (ok : Bool) (bytes : Nat) (status : Nat)
  /-- RESTORE (R130): A restore request checks the image header, ends all work, streams memory back and reloads scheduler state or zeroes on failure. -/
  | restore (c : Call) (slot : Nat) (ok : Bool) (bytes : Nat) (status : Nat)
  /-- PLUGIN_BUDGET_EXPIRY (R61): A plug-in call exceeds its 20 µs budget; its decision is discarded, the default applies and the fault is counted. -/
  | pluginBudgetExpiry (vf : Nat)
  /-- REPARTITION (R79): The Garax monitor changes the gallery set of a partition, updating measurement index 7 and the fabric boundaries. -/
  | repartition (part : Nat) (dest : Extent) (allot : Option Nat)
  /-- PART_ALLOT_WRITE (R80): A write of a partition allotment is accepted from the next meter update, or ignored with CONFIG_ERROR when it breaks a bound. -/
  | partAllotWrite (part : Nat) (v : Nat)
  /-- CORE_INJ_WRITE (R470): A write to CORE_INJ arms a test-path fault and logs INJ_ARM. -/
  | coreInjWrite (core : Nat) (v : Word)
  /-- REGISTER_WRITE (R8): A write to a register with no row of its own stores its fields under their access codes. -/
  | registerWrite (a : RegAt) (v : Nat)
  /-- METER_UPDATE (R82): Every 1,000 ticks the partition meter updates and the throttle revokes a grant, steps the ladder or sets or clears the floor. -/
  | meterUpdate (part : Nat) (power : Nat)
  /-- BOOST_BOUNDARY (R90): At each multiple of 4,000 ticks clusters release, claim and are granted boost, and grants advance through their states and charge permits. -/
  | boostBoundary (part : Nat)
  /-- PERMIT_REFILL (R89): An idle cluster adds one permit after each 16,000 ticks of continuous idleness. -/
  | permitRefill (cluster : Nat)
  /-- RATIO_SWITCH_COMPLETE (R85): A 1,000-tick converter ratio switch ends and the clock moves to its next frequency. -/
  | ratioSwitchComplete (cluster : Nat)
  /-- DROOP_ALARM (R94): The droop detector finds the output DROOPTH below target; 6 cycles run stretched, 64 halve issue and DROOPCNT increments. -/
  | droopAlarm (d : Droop)
  /-- DROOP_SPAN_END (R94): The halved-issue span after an alarm ends and full issue or the floor alternation resumes. -/
  | droopSpanEnd (cluster : Nat)
  /-- RELEASE_WAVE (R97): The release stepper lets go the next wave of up to WAVE_WARPS warps STEP_CYCLES after the previous one. -/
  | releaseWave (cluster : Nat)
  /-- IDLE_ENTRY (R99): A partition with no work enters the deepest idle state within its latency tolerance, or the device enters C4. -/
  | idleEntry (part : Nat)
  /-- IDLE_EXIT (R100): A notify write, an upcoming gate, a resolved fault or a monitor request takes a partition out of its idle state. -/
  | idleExit (part : Nat)
  /-- HBM_THERMAL_STAGE (R103): An HBM stack changes thermal stage, changing refresh and bandwidth guarantees and posting BWDEGRADE. -/
  | hbmThermalStage (stack : Nat) (temp : Nat)
  /-- NOTIFY (R133): A write to a queue's NOTIFY register checks the bounds, sets TAIL or RING_FAULT, and reads the QCB. -/
  | notify (vf : Nat) (q : Nat) (t : Nat)
  /-- LAUNCH (R145): A LAUNCH command takes a task record, reads and validates the launch record and copies the parameters. -/
  | launch (vf : Nat) (q : Nat) (pl : Plug)
  /-- LAUNCH_COMPLETE (R146): A grid has exited and its effects are visible; DONE_ADDR, STATUS and DTICK are written and COMPLETED advances. -/
  | launchComplete (grid : Nat)
  /-- SIGNAL (R148): A SIGNAL command stores or adds a value in the signal area as a release. -/
  | signalCmd (vf : Nat) (q : Nat)
  /-- WAIT (R149): A WAIT command evaluates a masked condition on a memory word and holds later commands until it completes. -/
  | waitCmd (vf : Nat) (q : Nat)
  /-- WAIT_REEVALUATE (R149): A write to the watched line, or 1,000 ticks, makes the device evaluate a WAIT's condition again and complete it when it holds. -/
  | waitReevaluate (vf : Nat) (q : Nat)
  /-- WAIT_TIMEOUT (R149): TIMEOUT µs pass before the condition holds and the WAIT completes with TIMEOUT. -/
  | waitTimeout (vf : Nat) (q : Nat)
  /-- SETGATE (R152): A TABLE SETGATE command writes a gate of the slalom table and makes the issuing queue its owner. -/
  | setGate (vf : Nat) (q : Nat)
  /-- CLEARGATE (R152): A TABLE CLEARGATE command clears a gate of the slalom table. -/
  | clearGate (vf : Nat) (q : Nat)
  /-- SETCYCLE (R153): A TABLE SETCYCLE command sets CYCLE_NS and EPOCH, replacing any pending SETCYCLE. -/
  | setCycle (vf : Nat) (q : Nat)
  /-- TABLE_BOUNDARY (R152): At a table boundary or EPOCH a pending gate change or SETCYCLE takes effect and its command completes. -/
  | tableBoundary (part : Nat)
  /-- UNKNOWN_OP_COMMAND (R141): A command with an unassigned OP completes with BADCMD. -/
  | unknownOpCommand (vf : Nat) (q : Nat)
  /-- QUEUE_FENCE (R150): A FENCE command performs a sequentially consistent fence at FSCOPE once every earlier command is complete. -/
  | queueFence (vf : Nat) (q : Nat)
  /-- EXPORT (R156): An EXPORT command writes the canonical queue state record of a queue, optionally stopping it and clearing dirty bits. -/
  | exportCmd (vf : Nat) (q : Nat)
  /-- IMPORT (R159): An IMPORT command validates a queue state record and registers the queue from it. -/
  | importCmd (vf : Nat) (q : Nat) (pl : Plug)
  /-- IRQ_TIME_EXPIRY (R160): IRQ_TIME µs pass since the oldest counted completion and the queue sends its MSI. -/
  | irqTimeExpiry (vf : Nat) (q : Nat)
  /-- GATE_INSTANCE_START (R155): At an instance's nominal start the overrun rule applies and the template is read, validated and launched in class 0. -/
  | gateInstanceStart (part : Nat) (gate : Nat)
  /-- GATE_INSTANCE_COMPLETE (R154): A gate instance completes, writes DONE_ADDR and launches a deferred instance if one waits. -/
  | gateInstanceComplete (part : Nat) (gate : Nat)
  /-- DEADLINE_MISS (R154): An instance is still incomplete at its nominal start plus DEADLINE and a DEADLINE_MISS event is posted. -/
  | deadlineMiss (part : Nat) (gate : Nat) (inst : Nat)
  /-- TEAM_PLACE (R178): The scheduler places a dispatchable or resumed team, hall or pair on cores of its partition. -/
  | teamPlace (part : Nat)
  /-- PLACEMENT_RESERVATION (R176): A head team has failed to fit for 100,000 ticks and the scheduler reserves a core or core set for it. -/
  | placementReservation (part : Nat)
  /-- TEAM_PARK (R192): A team parkable for PARK_TICKS is saved to the cloakroom and its core resources are freed. -/
  | teamPark (team : Nat)
  /-- TEAM_WAKE (R193): A wait condition of a parked team holds and the team becomes ready for placement. -/
  | teamWake (team : Nat)
  /-- PREEMPT_REQUEST (R195): A request for room picks victims and chooses drain, save or flush for each. -/
  | preemptRequest (part : Nat) (pl : Plug)
  /-- DRAIN_TIMEOUT (R195): A drained team has not exited after twice its L and is converted to save or flush. -/
  | drainTimeout (team : Nat)
  /-- SAVE_COMPLETE (R197): A team's save has recorded committed state and its held effects have left, and it leaves its cores. -/
  | saveComplete (team : Nat)
  /-- TEAM_LEAVE (R335): A finished team whose last commit is 200 ticks old leaves its core and frees its resources and private slot. -/
  | teamLeave (team : Nat)
  /-- CHECK (R207): The checker bank recomputes a retired lane-instruction from committed values and commits it. -/
  | check (team : Nat) (warp : Nat) (slow : Bool) (keep : Bool) (differs : Option (Nat × Bool)) (inval : Bool)
  /-- CORE_SELF_TEST (R109): The self-test of a degraded core ends; a pass clears the mark and a failure retires the core with CORE_RETIRED. -/
  | coreSelfTest (core : Nat) (pass : Bool)
  /-- STRIKE_REPORT (R112): A strike report reaches named cores, which roll back commits younger than tr minus 200 and discard their held effects. -/
  | strikeReport (cluster : Nat) (cores : BitVec 4)
  /-- HOLD_RELEASE (R112): An out-of-core effect whose commit is 200 ticks old leaves the outbound hold. -/
  | holdRelease (core : Nat)
  /-- UNDO_LOG_RETIRE (R213): An undo-log entry whose commit is 200 ticks old retires. -/
  | undoLogRetire (core : Nat)
  /-- DUALCORE_MISMATCH (R127): The commit streams of a DUALCORE pair differ and both cores roll back, taking CHKH on a repeat. -/
  | dualcoreMismatch (team : Nat) (warp : Nat) (lane : Nat) (back : Nat)
  /-- ECC_CORRECTED (R116): A corrected error is written back and counted, or logged through the row filter when in HBM. -/
  | eccCorrected (unit : ErrUnit) (row : Option Word) (by_ : Found)
  /-- CBF_CLEAR (R121): Every 24 h of tick time, or on request, every row filter is cleared. -/
  | cbfClear
  /-- ECC_UNCORRECTABLE (R117): An uncorrectable data error refetches, poisons the line or ends the team, and logs ECC_UNCORR. -/
  | eccUncorrectable (at_ : UncorrAt) (n : Nat) (unit : ErrUnit) (team : Option Nat)
  /-- TAG_ERROR (R118): A tag, directory or controller state error refetches, ends the core's teams or starts a partition teardown. -/
  | tagError (at_ : TagAt)
  /-- PARTITION_TEARDOWN (R124): A partition's work is discarded and terminated, its queues complete with PART_RESET and its memory is zeroed. -/
  | partitionTeardown (part : Nat) (unit : Nat)
  /-- K_BLOCK_COMPLETE (R110): The matrix engine finishes a K-block, which the row-check array passes into the tile or replays. -/
  | kBlockComplete (core : Nat) (differs : Bool)
  /-- MATRIX_OP_START (R428): An operation reaches the head of the matrix engine queue and starts or completes with BADFMT. -/
  | matrixOpStart (core : Nat)
  /-- PAIR_WATCHDOG (R433): An MMAP half waits PAIR_WATCHDOG_CYCLES for its partner and both halves complete with PAIRFAIL. -/
  | pairWatchdog (core : Nat)
  /-- LAYOUT_COMMAND_START (R235): The layout engine takes the next LXF command from its queue and produces its output chunks. -/
  | layoutCommandStart (cluster : Nat)
  /-- COPY_COMPLETE (R438): A copy or layout operation has written every destination byte and its token count decrements. -/
  | copyComplete (key : Nat)
  /-- LINE_LAND (R221): The last byte of a scratchpad line lands and its presence bit is set. -/
  | lineLand (key : Nat) (line : Nat)
  /-- LOAD_FILL (R311): The checker's read of a load returns and fills its destination registers. -/
  | loadFill (key : Nat)
  /-- ATOMIC_RETURN (R267): A combined atomic request returns from L2 and fills each lane's old value. -/
  | atomicReturn (key : Nat)
  /-- PUBLISH_TIMEOUT (R256): 4,096 ticks after core-dirty bytes left the hold the core publishes the line to L2. -/
  | publishTimeout (core : Nat)
  /-- FAULT_ENTRY (R250): A translation fault creates a fault-queue entry, calls the plug-in and posts PAGE_FAULT when deferred. -/
  | faultEntry (vf : Nat) (serial : Nat) (pl : Plug)
  /-- PAGE_FAULT_REPOST (R250): An unresolved entry whose event was dropped has its event posted again every 1,000,000 ticks. -/
  | pageFaultRepost (vf : Nat) (serial : Nat)
  /-- RESOLVE_POINT (R273): An HCONF or HREF reaches the directory and is applied, merging or discarding versions. -/
  | resolvePoint (key : Nat)
  /-- RESOLVE_COMPLETE (R400): Every cache and copy holds a resolve's new state and its handle fills. -/
  | resolveComplete (key : Nat)
  /-- ORPHAN_TRAP (R277): A thread under a refuted hypothesis takes HORPH within 2 µs of the refute's completion. -/
  | orphanTrap (team : Nat) (warp : Nat) (lane : Nat)
  /-- BARRIER_WATCHDOG (R418): A barrier wait reaches BAR_WATCHDOG_TICKS and the context is terminated with BARTMO. -/
  | barrierWatchdog (team : Nat) (bar : Nat)
  /-- WAITC_EVALUATE (R421): A WAITC's conditions are evaluated again after a watched change or 1,000 ticks and D fills when its mode holds. -/
  | waitcEvaluate (key : Nat)
  /-- WAITC_TIMEOUT (R421): A WAITC's timeout of v[B] ticks passes first and fills D with bit 7. -/
  | waitcTimeout (key : Nat)
  /-- FUNCTION_LEVEL_RESET (R132): A function-level reset of a virtual function resets its notify page and error counters and unregisters every queue of the function. -/
  | functionLevelReset (vf : Nat)
  /-- DESTINATION_LINE_WRITE (R269): A copy or layout engine writes one owned global destination line, releasing its ownership so that loads, stores and atomics waiting on it through the directory recall proceed. -/
  | destinationLineWrite (key : Nat) (line : Nat)
  /-- APPLICATION_CORE_ACCESS (R52): A load, store or FENCE RW,RW of an application core reaches L2 as an untagged, device-scope coherent access that orders as a sequentially consistent fence toward SIMT threads. -/
  | applicationCoreAccess (hart : Nat) (a : AppIns)
  deriving DecidableEq, Repr

end Sys2Proof
end

