-- ==== Sys2Proof/Config.lean ====
section
/-! DEFINITION. What an implementation fixes and the values the spec leaves open. A free value is an
opaque constant applied to the operands it depends on, or to the counter `nonce` of the state: nothing
can be proved about which value it is (log 7). -/
namespace Sys2Proof.Config

/-- A byte that only another device could supply: a read of a peer's memory (R22, R24). Log 7. -/
opaque peerByte : Nat → Nat → Byte
/-- A word the spec leaves open, fresh for each use of the counter. Log 7. -/
opaque freeWord : Nat → Word
/-- An open choice, fresh for each use of the counter: the old or the new of two values that race. Log 7. -/
opaque freeBool : Nat → Bool
/-- An open number of the device: a tick within a bound, a count the spec leaves open. Log 7. -/
opaque freeNat : Nat → Nat
/-- Which of the up links toward a peer carries a line: the hash of the line address (R31). Log 7. -/
opaque linkHash : Nat → Nat
/-- The identity of this device in its peers' tables (R24). Log 7. -/
opaque identity : Nat
/-- Addresses of firmware that the spec does not give: entries of the Garax monitor (0), of the scheduler firmware (1), of the
application-core resident's trap handler (2) and of the controller firmware (5); where a function's plug-in code (3) and data
(4) are copied (R63, R75); the IMSIC file of a hart for which the stored configuration names none (6; R48). Log 7. -/
opaque fwAddr : Nat → Nat → DWord
/-- The addresses that an area of the firmware cores covers, by its number: base and bytes (R58). Log 7. -/
opaque fwArea : Nat → Nat × Nat
/-- The device register at an address of the firmware cores, where there is one (R58). Log 7. -/
opaque fwRegister : Nat → Option MReg
/-- The bytes of the message that an answer over the management port is (R39), by what it says. Log 7. -/
opaque mgmtBytes : List Nat → List Byte
/-- The class-specific payload bytes of a flit (R27). Log 7. -/
opaque payload : PeerMsg → List Byte
/-- The ECDSA P-256 signature of a digest under the device identity key (R72), uninterpreted. Log 10. -/
opaque ecdsaSign : BitVec 256 → BitVec 512
/-- The digest that a CHALLENGE signs: the request's nonce, the certificate chain, and what the responder adds
(R72: the transcript of SPDM 1.3), uninterpreted. Log 10. -/
opaque spdmTranscript : List Byte → List Byte → Nat → BitVec 256
/-- A correctly rounded special function whose interval bounds do not separate: never reached by an
FP32 operand that we know of; no value is chosen for it. Log 11. -/
opaque hardToRound : Nat → Nat → Word

end Sys2Proof.Config
end

