-- ==== Sys2Proof/Machine/State.lean ====
section
/-! DEFINITION. The state of the ZG48 as plain data: threads, warps, teams, grids, contexts, cores,
clusters, partitions, virtual functions, queues, memory, and the machine right after reset. -/
namespace Sys2Proof.Machine

/-- How a step can stop without a next state. The steps of the ZG48 take exceptions; the one fault kept
is an internal impossibility that no meaning raises from a well-formed state. -/
inductive Fault where
  /-- Raised by no meaning: kept so that the outcome type is inhabited (safe). -/
  | unreachable
  deriving DecidableEq, Repr

/-- Why an instruction has no meaning in the model. -/
inductive Refusal where
  /-- Raised by a dispatch arm whose instruction has no meaning yet (safe: nothing is claimed of it). -/
  | notModelled (mnemonic : String)
  deriving DecidableEq, Repr

/-! ## Lanes -/

/-- What fills an empty register (R311). -/
inductive Producer where
  /-- a load, an atomic or a tile read: the pending access with this key -/
  | access (key : Nat)
  /-- a WAITC with this key -/
  | waitc (key : Nat)
  /-- an engine operation or a hypothesis resolve, by its 28-bit identity (R423) -/
  | engine (id : Nat)
  deriving DecidableEq, Repr

/-- The full/empty side of a register (R311). `failed info` is full and holds the handle of an operation
that ended FAULT or PAIRFAIL and that its issuing lane has not read yet; `info` is MMAF's TRAPINFO (R424). -/
inductive Fill where
  | full
  | failed (info : Word)
  | empty (p : Producer)
  deriving DecidableEq, Repr

/-- One register: its value and its full/empty side (R308, R311). -/
structure Cell where
  val : Word := 0
  fill : Fill := .full
  deriving DecidableEq, Repr

/-- Predicate-block state of a lane: instructions left, PAT with the next instruction's bit lowest, c (R317). -/
structure Blk where
  left : Nat := 0
  pat : BitVec 8 := 0
  c : Bool := false
  deriving DecidableEq, Repr

/-- The trap registers of a lane (R450). -/
structure TrapRegs where
  cause : BitVec 8 := 0
  pc : Word := 0
  addr : Word := 0
  addrh : Word := 0
  info : Word := 0
  deriving DecidableEq, Repr

/-- What a lane in its trap handler keeps for RFT (R453, R455). -/
structure SavedEntry where
  prio : BitVec 4
  blk : Blk
  deriving DecidableEq, Repr

/-- What a lane waits for, standing at its instruction. -/
inductive Wait where
  | none
  /-- the instruction had no effect and is tried again when something it could wait for changes (R312, R221, R226, R227, R235, R269) -/
  | retry
  /-- blocked on empty registers: the lanes and rows of its gang that were empty (R312) -/
  | empty (need : List (Nat × Nat))
  /-- MWAIT on a mask, arrived (R407) -/
  | mwait (m : Nat)
  /-- a collective, arrived (R405) -/
  | coll
  /-- a barrier: until the phase with this number has opened (R417) -/
  | bar (b phase : Nat)
  /-- a BARW whose warp has only a partial arrival (R417) -/
  | barPart (b : Nat)
  /-- a BAR or BARA that would be its warp's third arrival: until the current phase opens (R417) -/
  | barHeld (b : Nat)
  /-- released by an opened barrier, its wave not yet gone (R97) -/
  | wave
  /-- STGW on a ring's slot and phase (R422) -/
  | stgw (ring slot : Nat) (phase : Bool)
  /-- FWAIT on an identity (R425) -/
  | fwait (id : Nat)
  /-- the fault queue entry with this serial, none while the queue is full, and the faulting address (R249) -/
  | fault (serial : Option Nat) (addr : Nat)
  /-- a trap that waits for room in the undo log (R213): cause, TRAPINFO, address -/
  | due (cause : Nat) (info : Word) (addr : Nat)
  deriving DecidableEq, Repr

/-- Whether a lane is live, a helper or finished (R333). -/
inductive Life where
  | live | helper | finished
  deriving DecidableEq, Repr

/-- A thread of a warp, or the one context of a movement program (R308). -/
structure Lane where
  life : Life := .live
  pc : Word := 0
  prio : BitVec 4 := 8
  /-- fairness age of the frontier entry the lane belongs to (R188) -/
  age : Nat := 0
  /-- rows of the role's allotment, or x registers, that are not 0 and full, rows rising (R308) -/
  regs : List (Nat × Cell) := []
  /-- p0 to p6 (R308) -/
  preds : BitVec 7 := 0
  blk : Blk := {}
  hcur : BitVec 8 := 0
  /-- FMODE.RM (R291) -/
  rm : BitVec 2 := 0
  fstat : BitVec 5 := 0
  trap : TrapRegs := {}
  handler : Option SavedEntry := none
  /-- fences, acquiring atomics and loads from peers, by their keys, that its later loads wait for (R259, R260, R394) -/
  fence : List Nat := []
  /-- a release fence at core scope has run: later stores are covered by it (R260, R262) -/
  relF : Bool := false
  /-- within the instruction it waited at when its hypothesis became refuted: it completes that one first (R277) -/
  mid : Bool := false
  wait : Wait := .none
  deriving DecidableEq, Repr

/-! ## Warps -/

/-- The role of a warp or of the movement program, with the codes of sr.ROLE (R450). -/
inductive Role where
  | vector | matrix | movement
  deriving DecidableEq, Repr

/-- Lanes that have arrived at a collective's word, with what they read (R405). -/
structure Arrival where
  lane : Nat
  active : Bool
  a : Word
  d : Word
  /-- the destination row -/
  row : Nat
  deriving DecidableEq, Repr

/-- The arrivals of one group at one collective word: the word's index, the instruction, its mask, and
the quad for a quad collective. -/
structure Coll where
  pc : Word
  ins : Instr
  mask : Nat
  quad : Option Nat
  arr : List Arrival
  deriving DecidableEq, Repr

/-- A token of a movement context: the operations pending on it, and its sticky error flag (R437). -/
structure Token where
  ops : List Nat := []
  err : Bool := false
  deriving DecidableEq, Repr

/-- A promoted frontier entry: its pair at promotion, lowest quad, and instructions of its run (R188). -/
structure Promo where
  prio : BitVec 4
  pc : Word
  lanes : List Nat
  run : Nat
  deriving DecidableEq, Repr

/-- A warp, or a movement program as a warp of one lane (R180, R253, R308). -/
structure Warp where
  id : Nat
  role : Role
  /-- the pipe the dispatcher chose (R180); 0 for a movement program -/
  pipe : Nat := 0
  lanes : List Lane
  /-- m0 to m11 (R308) -/
  masks : List Word := []
  winBase : BitVec 5 := 0
  /-- the arrived sets of MWAIT, per mask (R407) -/
  mwait : List Word := []
  colls : List Coll := []
  promo : List Promo := []
  /-- promoted entries whose lanes block: they rejoin the queue at its tail (R188) -/
  away : List Promo := []
  /-- mismatches in a row of an instruction: core, word index, lanes, count (R108) -/
  streak : List (Nat × Word × List Nat × Nat) := []
  /-- instructions left of walk mode; 0 outside it (R108); the second is that of a DUALCORE pair's upper core (R126) -/
  walk : Nat := 0
  walk2 : Nat := 0
  /-- the second core's pipe under DUALCORE (R180) -/
  pipe2 : Nat := 0
  /-- rolled back for the comparison of a DUALCORE pair; its next commit is the second try (R127) -/
  dual : Bool := false
  /-- woken from parking, its wave not yet gone (R97, R193) -/
  held : Bool := false
  /-- tk0 to tk7 of a movement context (R437) -/
  tokens : List Token := []
  /-- the cycles of its last four checks, newest first: at most 4 instructions have issued and are not checked (R204) -/
  checks : List Nat := []
  deriving DecidableEq, Repr

/-! ## Teams -/

/-- A team barrier (R417, R418). Phases are numbered from 0; the phase bit is the number's parity. -/
structure Barrier where
  phase : Nat := 0
  /-- warps counted in the current phase (32 for the movement program) -/
  counted : List Nat := []
  /-- warps whose arrival is held for the next phase -/
  next : List Nat := []
  /-- lanes that arrived since their warp's previous arrival -/
  partials : List (Nat × Word) := []
  /-- the phase in which each warp's latest arrival was counted -/
  latest : List (Nat × Nat) := []
  /-- tick of the first wait of the current phase, and ticks not counted while saved -/
  firstWait : Option Nat := none
  paused : Nat := 0
  deriving DecidableEq, Repr

/-- An operation of a team's engines, for FWAIT, WAITC and FID (R423): its identity, its issuing
lane and register, and its handle value once it has completed. -/
structure EngOp where
  id : Nat
  warp : Nat
  lane : Nat
  row : Nat
  final : Option Word := none
  deriving DecidableEq, Repr

/-- Where a team is (R177, R192, R197). -/
inductive Place where
  /-- on a core, numbered 4 × cluster + core-in-cluster; under DUALCORE also on the upper core -/
  | on (core : Nat) (upper : Option Nat)
  | parked
  /-- woken, or saved by pre-emption, and ready to be placed again; the number orders them (R175) -/
  | ready (order : Nat)
  /-- ended; listed while copies or held effects of it stand (R456) -/
  | gone
  deriving DecidableEq, Repr

/-- A pre-emption under way (R195). -/
inductive Leaving where
  | none
  /-- draining, until a tick where it has a figure (R195) -/
  | drain (until_ : Option Nat)
  /-- a save, for parking or for pre-emption, that waits for fills, old commits and the hold (R197) -/
  | save (park : Bool)
  deriving DecidableEq, Repr

/-- An operation of the matrix engine (R227, R427). -/
structure MatOp where
  team : Nat
  warp : Nat
  lane : Nat
  row : Nat
  id : Nat
  tick : Nat
  hcur : Nat
  block : List Byte
  started : Bool := false
  /-- index of the next K-block, computations of it that differed (R110) -/
  nextK : Nat := 0
  fails : Nat := 0
  /-- an MMAP half's block has passed the row check; thousandths of its cluster's cycles since it waits for the other (R433) -/
  passed : Bool := false
  pairWait : Option Nat := none
  cancel : Bool := false
  /-- bytes of B read, by program address: each once (R232) -/
  got : List (Nat × Byte) := []
  /-- lines of B that peers have sent (R31, R32) -/
  lines : List (Nat × List Byte) := []
  /-- the unfolding descriptor as it was read at the operation's start (R231; log 69) -/
  desc : List Byte := []
  /-- cores whose armed fault of KIND 2 acts on it (R238) -/
  armed : List Nat := []
  /-- word index of the instruction -/
  pc : Word := 0
  deriving DecidableEq, Repr

/-- A team (R16, R177, R243). -/
structure Team where
  key : Nat
  grid : Nat
  ctx : Nat
  /-- linear team index t (R174) -/
  index : Nat
  place : Place
  leaving : Leaving := .none
  /-- private slot (R243) -/
  slot : Nat := 0
  warps : List Warp
  /-- scratchpad bytes that are not 0, offsets rising (R181) -/
  scratch : List (Nat × Byte) := []
  /-- lines whose presence bit is clear, with the operations whose landing is due (R221, R438) -/
  absent : List (Nat × List Nat) := []
  /-- scratchpad lines that a copy from a poisoned line has poisoned (R439) -/
  poison : List Nat := []
  /-- tile words that are not 0, keyed 32768 × tile + 256 × row + column (R226) -/
  tiles : List (Nat × Word) := []
  /-- tiles released by TFREE and not written since (R435) -/
  freed : List Nat := []
  /-- phase bits of each ring's slots (R422) -/
  rings : List (List Bool) := []
  barriers : List Barrier := []
  ops : List EngOp := []
  /-- operations of engine 1 and 2 issued (R423) -/
  mmaCount : Nat := 0
  mmapCount : Nat := 0
  /-- tick of the last commit (R335) -/
  lastCommit : Nat := 0
  /-- executed cycles, in thousandths, up to the last placement, and the cluster's count there (R195) -/
  execBase : Nat := 0
  execFrom : Nat := 0
  /-- since when every parkability condition has held (R191); of a parked team, since when a wait has ended (R193) -/
  parkSince : Option Nat := none
  /-- order of placement, for the choice of victims (R194) -/
  placeSeq : Nat := 0
  /-- first scratchpad line on its core, and on the second core under DUALCORE (R177, R180) -/
  line : Nat := 0
  line2 : Nat := 0
  /-- bytes it holds in the cloakroom, and whether it found no room there (R192) -/
  cloak : Nat := 0
  noPark : Bool := false
  /-- when pre-emption saved it (R200) -/
  savedAt : Option Nat := none
  /-- MMAPs whose partner half has ended before they were issued (R432) -/
  pairFails : Nat := 0
  /-- progress records of matrix operations while saved (R198) -/
  mats : List MatOp := []
  deriving DecidableEq, Repr

/-! ## Grids -/

/-- A declared region of a launch record (R167). -/
structure Region where
  base : Nat
  extent : Nat
  mode : Nat
  deriving DecidableEq, Repr

/-- The fields of a launch record (R163). -/
structure LRec where
  restartable : Bool := false
  dualcore : Bool := false
  fuseL1 : Bool := false
  paired : Bool := false
  hall : Bool := false
  hypo : Bool := false
  codeBase : Nat := 0
  entryVec : Option Nat := none
  entryMat : Option Nat := none
  entryMsq : Option Nat := none
  trapEntry : Nat := 0
  warpsVec : Nat := 0
  warpsMat : Nat := 0
  accTiles : Nat := 0
  ringCount : Nat := 0
  ringLog : Nat := 0
  regsVec : Nat := 0
  regsMat : Nat := 0
  scratchBytes : Nat := 0
  privateBytes : Nat := 0
  gridX : Nat := 1
  gridY : Nat := 1
  gridZ : Nat := 1
  hallTeams : Nat := 1
  prioClass : Nat := 0
  weight : Nat := 1
  fslot : List Word := []
  barrier : List Nat := []
  paramBase : Nat := 0
  paramBytes : Nat := 0
  parkTicks : Nat := 0
  dogTicks : Nat := 0
  preemptBound : Nat := 0
  estCycles : Nat := 0
  pairCycles : Nat := 0
  hoaBase : Nat := 0
  hoaBytes : Nat := 0
  regions : List Region := []
  doneAddr : Nat := 0
  doneValue : Nat := 0
  deriving DecidableEq, Repr

/-- Where a grid comes from (R145, R154, R457). -/
inductive Origin where
  | queue (q cmd : Nat)
  | gate (g inst nominal deadline : Nat)
  deriving DecidableEq, Repr

/-- A launched grid (R145, R154, R163, R168, R245). -/
structure Grid where
  key : Nat
  vf : Nat
  ctx : Nat
  origin : Origin
  /-- the queue that issued it, or owns its gate -/
  owner : Nat := 0
  record : LRec
  recAddr : Nat := 0
  params : List Byte := []
  /-- memory as it stood when the launch read its record: what instruction fetch reads (R245) -/
  code : List Host.Cell := []
  /-- lines of code that peers have sent (R31, R32) -/
  lines : List (Nat × List Byte) := []
  cls : Nat := 0
  weight : Nat := 1
  bound : Nat := 0
  /-- grids this one depends on (R171) -/
  deps : List Nat := []
  /-- index of the next team never placed (R174) -/
  nextTeam : Nat := 0
  /-- teams to be placed again after a flush (R195) -/
  requeued : List Nat := []
  /-- teams that have not left yet, of all (R146) -/
  remaining : Nat := 0
  /-- SCOPES.SYS of the issuing queue was 0 (R279) -/
  clamped : Bool := false
  /-- a DEADLINE_MISS was posted (R154) -/
  missed : Bool := false
  /-- its launch has completed; it is listed while teams of it are (R456) -/
  ended : Bool := false
  deriving DecidableEq, Repr

/-! ## Contexts and hypotheses -/

/-- States of a hypothesis id, with the codes of R396. -/
inductive NodeState where
  | free | open_ | resolving | merged | refuted
  deriving DecidableEq, Repr

/-- A node of a context's hypothesis tree that is not FREE (R396). -/
structure Node where
  id : Nat
  st : NodeState
  parent : Nat
  depth : Nat
  /-- the creation has reached the directory (R397) -/
  atDir : Bool
  /-- the core that created it -/
  core : Nat
  /-- what a resolve has applied at the directory: merged, or refuted (R275, R276) -/
  fate : Option Bool := none
  /-- once a fate is set: the id a thread under it reads and writes as (R275, R276) -/
  up : Nat := 0
  /-- resolved and held by no thread: it reads as FREE, while the undo log could still bring a holder back (R113, R277) -/
  loose : Bool := false
  deriving DecidableEq, Repr

/-- A context (R135, R178, R184, R279, R396, R400). -/
structure Ctx where
  num : Nat
  vf : Nat
  satp : Nat := 0
  hgatp : Nat := 0
  nodes : List Node := []
  /-- ids reserved by cores (R397) -/
  reserved : List (Nat × Nat) := []
  resolves : Nat := 0
  /-- the ticks at which refutes completed whose orphans may not all have taken HORPH yet (R277) -/
  refutes : List Nat := []
  clamp : Word := 0
  lastCluster : Option Nat := none
  deriving DecidableEq, Repr

/-- The bytes a hypothesis has written (R272, R274): one version store per context and id. -/
structure Version where
  ctx : Nat
  id : Nat
  cells : List (Nat × Byte)
  deriving DecidableEq, Repr

/-! ## Out-of-core effects and engines -/

/-- One lane's part of a combined atomic (R267, R392): its operand, its compare word, the tag it reads and
writes under, and whether its write is discarded because its hypothesis is refuted (R401). -/
structure AtomLane where
  lane : Nat
  loc : Nat
  x : Nat
  cmp : Nat
  tag : Nat
  drop : Bool
  /-- HTag(): the lane's HCUR at commit, by which lanes are grouped (R394) -/
  group : Nat := 0
  deriving DecidableEq, Repr

/-- An atomic request of one warp instruction (R267, R394). -/
structure AtomReq where
  key : Nat
  aop : Aop
  bytes : Nat
  ret : Bool
  row : Nat
  parts : List AtomLane
  deriving DecidableEq, Repr

/-- A resolve of an id (R400). -/
structure Resolve where
  key : Nat
  ctx : Nat
  id : Nat
  confirm : Bool
  team : Nat
  warp : Nat
  lane : Nat
  row : Nat
  serial : Nat
  /-- the directory has applied it, and with which handle status (R273, R278) -/
  applied : Bool := false
  status : Nat := 0
  deriving DecidableEq, Repr

/-- An out-of-core effect (R214). -/
inductive Eff where
  /-- bytes stored under a hypothesis tag; the scope of a release (R257) -/
  | store (ctx tag : Nat) (cells : List (Nat × Byte)) (rel : Option Scope)
  /-- bytes stored to the scratchpad of another core's team (R254) -/
  | hall (team : Nat) (cells : List (Nat × Byte)) (rel : Option Scope)
  /-- an atomic at L2, or at the scratchpad of another core's team -/
  | atom (ctx : Nat) (hall : Option Nat) (rel : Option Scope) (r : AtomReq)
  /-- a copy or layout operation, by its key -/
  | copy (key : Nat)
  | resolve (r : Resolve)
  | fence (key : Nat) (rel : Bool) (scp : Scope)
  /-- publication of lines, or of all lines (R390) -/
  | cctl (lines : Option (List Nat))
  /-- a node's creation, which takes a position but no entry (R397) -/
  | node (ctx id : Nat)
  deriving DecidableEq, Repr

/-- An outbound-hold entry (R214), oldest first in its core. -/
structure Held where
  tick : Nat
  team : Nat
  warp : Nat
  eff : Eff
  deriving DecidableEq, Repr

/-- A core-dirty byte: context and tag, location, value, tick at which the first store to it left the hold (R256). -/
structure Dirty where
  ctx : Nat
  tag : Nat
  loc : Nat
  val : Byte
  tick : Nat
  /-- its line was written before the core's most recent release (R258) -/
  before : Bool := false
  /-- team and warp of its youngest store (R30) -/
  team : Nat := 0
  warp : Nat := 0
  deriving DecidableEq, Repr

/-- An undo-log entry: the team as it was before a commit, apart from its big memories, whose old
bytes it lists (R113, R213). -/
structure Undo where
  tick : Nat
  team : Nat
  warps : List Warp
  rings : List (List Bool)
  barriers : List Barrier
  absent : List (Nat × List Nat)
  ops : List EngOp
  mmaCount : Nat
  mmapCount : Nat
  scratch : List (Nat × Byte)
  tiles : List (Nat × Word)
  freed : List Nat
  deriving DecidableEq, Repr

/-- The kinds of copy and layout operations. -/
inductive CopyKind where
  | cpy | cpyt | cpym | lxf
  deriving DecidableEq, Repr

/-- One dimension of an operation, outermost last: destination elements, destination and source byte
strides, source elements, and whether the source runs backward (R442, R444, R445). -/
structure Dim where
  ext : Nat
  dstr : Nat
  sstr : Nat
  lim : Nat
  rev : Bool
  deriving DecidableEq, Repr

/-- A destination line of an operation, as a program address divided by 128: whether its bytes have been
written, the fault-queue entry it waits for (none inside while the queue is full), and the physical line
taken with its ownership (R234, R248, R438). -/
structure Job where
  line : Nat
  phys : Option Nat := none
  done : Bool := false
  fault : Option (Option Nat) := none
  deriving DecidableEq, Repr

/-- A copy or layout operation (R438 to R445). -/
structure CopyOp where
  key : Nat
  kind : CopyKind
  team : Nat
  core : Nat
  tok : Nat
  hcur : Nat
  tick : Nat
  es : Nat
  src : Nat
  dst : Nat
  dims : List Dim
  /-- CPYM's core mask -/
  mask : Nat := 0
  /-- source and destination both in the own scratchpad (R441) -/
  internal : Bool
  clamped : Bool
  jobs : List Job
  /-- its writes are discarded: its hypothesis is refuted (R276) -/
  drop : Bool := false
  /-- source bytes read, by program address: each is read once (R270); lines that peers have sent -/
  got : List (Nat × Byte) := []
  lines : List (Nat × List Byte) := []
  /-- it has left its core (R269) -/
  left_ : Bool := false
  /-- the layout engine has taken it (R235) -/
  started : Bool := false
  deriving DecidableEq, Repr

/-- An engine-owned destination line of one version (R269, R271). -/
structure Owned where
  key : Nat
  ctx : Nat
  tag : Nat
  line : Nat
  deriving DecidableEq, Repr

/-- A load, tile read or atomic whose destinations are empty (R311). -/
structure PendLane where
  lane : Nat
  row : Nat
  /-- the value, once the access has been performed: the checker's read of a load (R208), the old value of an atomic -/
  val : Option Nat
  /-- a load from a peer: its location, and the bytes that stores of its core decide (R32, R255) -/
  loc : Nat := 0
  fixed : List (Option Byte) := []
  deriving DecidableEq, Repr

/-- A pending access of a warp (R311): the number of bytes, sign extension, its lanes, and the tick of its commit. -/
structure Pend where
  key : Nat
  team : Nat
  warp : Nat
  bytes : Nat
  signed : Bool
  atomic : Bool
  tick : Nat
  lanes : List PendLane
  deriving DecidableEq, Repr

/-- One condition of a WAITC (R420). -/
structure Cond where
  kind : Nat
  scope : Nat
  arg : Nat
  value : Nat
  addr : Nat
  deriving DecidableEq, Repr

/-- A WAITC in flight (R421). -/
structure WaitC where
  key : Nat
  team : Nat
  warp : Nat
  lane : Nat
  row : Nat
  all : Bool
  conds : List Cond
  hcur : Nat
  deadline : Option Nat
  lastEval : Nat
  /-- the lines of peers as they were last sent for it (R31, R32) -/
  lines : List (Nat × List Byte) := []
  deriving DecidableEq, Repr

/-- A core (R203, R214, R213, R109, R237). -/
structure Core where
  num : Nat
  hold : List Held := []
  undo : List Undo := []
  dirty : List Dirty := []
  matq : List MatOp := []
  /-- held entries older than the last release to the own scratchpad (R384) -/
  stsRel : Nat := 0
  /-- that release is at system scope, and peers have not acknowledged what it covers (R257, R384) -/
  stsSys : Bool := false
  /-- the cycle of the last issue slot that each pipe has used, by pipe (R204) -/
  slots : List (Nat × Nat) := []
  /-- core-dirty lines that an error has poisoned (R117) -/
  poison : List Nat := []
  degraded : Bool := false
  matDegraded : Bool := false
  retired : Bool := false
  mismatches : Nat := 0
  inj : Word := 0
  injK : Word := 0
  deriving DecidableEq, Repr

/-- A translation cached by the SIMT side: context, 4 KiB virtual page, physical page, and what it permits;
`writable` only once the leaf's D bit is set (R247, R53). -/
structure TlbEntry where
  ctx : Nat
  vpage : Nat
  ppage : Nat
  readable : Bool
  writable : Bool
  executable : Bool
  deriving DecidableEq, Repr

/-- An entry of a fault queue (R249): the page, stage and access kind of R250. -/
structure FaultEntry where
  serial : Nat
  ctx : Nat
  page : Nat
  stage : Nat
  kind : Nat
  /-- first faulting address -/
  va : Nat
  /-- the event was dropped, and the tick of the next posting (R250) -/
  repost : Option Nat := none
  posted : Bool := false
  deriving DecidableEq, Repr

/-! ## Clusters -/

/-- States of a boost grant (R91). -/
inductive Grant where
  | nom | rise | boost | fall | descend
  deriving DecidableEq, Repr

/-- A release handed to a cluster's stepper (R97): the team and the warps still to go, its core, and its arrival in
thousandths of the cluster's cycles. -/
structure Release where
  team : Nat
  warps : List Nat
  core : Nat := 0
  at_ : Nat := 0
  deriving DecidableEq, Repr

/-- A cluster (R84, R91, R97, R104, R105, R235, R451). -/
structure Cluster where
  num : Nat
  ben : Bool := false
  boostF : BitVec 2 := 2
  boostW : BitVec 8 := 76
  boostMin : BitVec 6 := 8
  droopTh : BitVec 7 := 45
  waveWarps : BitVec 6 := 0
  stepCycles : BitVec 8 := 0
  permits : Nat := 64
  fallen : Bool := false
  grant : Grant := .nom
  /-- CLKRATIO.RATIO, and the end of the switch in progress (R105, R85) -/
  ratio : Nat := 1
  switchEnd : Option Nat := none
  /-- ratio of the switch in progress and those still to do -/
  switchTo : List Nat := []
  mhz : Nat := 1700
  /-- clock to take when the last switch has ended -/
  targetMhz : Nat := 1700
  droopCnt : Word := 0
  /-- thousandths of stretched and halved cycles left after an alarm, and whether its span lasts (R94) -/
  stretch : Nat := 0
  halved : Nat := 0
  span : Bool := false
  /-- the cycle in which the detector alarmed last, and the first cycle after the update that set FLOOR: the alternations of
  issue are counted from them (R82, R94) -/
  alarm : Option Nat := none
  floorFrom : Option Nat := none
  /-- since when no core of the cluster is busy, and the permits added since (R89) -/
  idleSince : Option Nat := some 0
  idleAdds : Nat := 0
  releases : List Release := []
  /-- cycle, in thousandths, of the last wave (R97) -/
  lastWave : Option Nat := none
  layq : List Nat := []
  /-- CLK in thousandths of a cycle (R451) -/
  kcyc : Nat := 0
  /-- what of the current tick has passed for its clock, in thousandths of a full-rate cycle -/
  used : Nat := 0
  /-- its partition's idle state keeps it on the LOW ratio (R99) -/
  low : Bool := false
  /-- the context whose teams fused the L1s (R182) -/
  fused : Option Nat := none
  deriving DecidableEq, Repr

/-! ## Partitions, virtual functions and queues -/

/-- An instance deferred under DEFER (R155): number, nominal start, end of its deadline, whether it was missed. -/
structure Deferred where
  n : Nat
  nominal : Nat
  deadline : Nat
  missed : Bool := false
  deriving DecidableEq, Repr

/-- A gate of a slalom table (R151). -/
structure Gate where
  vf : Nat
  queue : Nat
  offset : Nat
  deadline : Nat
  template : Nat
  policy : Nat
  /-- number of the next instance to start -/
  next : Nat := 0
  deferred : Option Deferred := none
  deriving DecidableEq, Repr

/-- The started command a pending table change completes (R152). -/
structure TableCmd where
  vf : Nat
  queue : Nat
  cmd : Nat
  deriving DecidableEq, Repr

/-- A slalom table (R151 to R155). -/
structure Slalom where
  active : Bool := false
  cycleNs : Nat := 0
  epoch : Nat := 0
  gates : List (Nat × Gate) := []
  pendCycle : Option (Nat × Nat × TableCmd) := none
  /-- pending gate changes: gate, new contents, tick at which the command started, the command (R152) -/
  pendGates : List (Nat × Option Gate × Nat × TableCmd) := []
  deriving DecidableEq, Repr

/-- A partition: its power, its idle states, its SLALOM table and its scheduler (R82, R99, R152, R174). -/
structure Part where
  num : Nat
  galleries : BitVec 48 := 0
  allot : BitVec 22 := 0
  pendAllot : Option (BitVec 22) := none
  base : BitVec 22 := 0
  meter : Nat := 0
  /-- sum and number of the readings since the last sensor poll (R66) -/
  meterSum : Nat := 0
  meterCount : Nat := 0
  throt : Nat := 0
  floor : Bool := false
  /-- updates in a row at or below 0.9 ALLOT, and over ALLOT at 0.6 GHz (R82) -/
  lowRuns : Nat := 0
  overRuns : Nat := 0
  lattol : BitVec 20 := 0
  idle : BitVec 3 := 0
  fairn : BitVec 16 := 256
  slalom : Slalom := {}
  /-- the turn of the weighted round robin, per class (R174) -/
  turns : List (Nat × Nat × Nat) := []
  /-- the team for which cores are reserved, by grid and index, and the cores (R176) -/
  reserve : Option (Nat × Nat × List Nat) := none
  /-- the head team that has failed to fit, by grid and index, and since when (R176) -/
  headSince : Option (Nat × Nat × Nat) := none
  cloakSize : Nat := 0
  /-- bytes of the private pool (R177) and the ranges of memory of the partition's layout: base, bytes (R22, R77) -/
  pool : Nat := 0
  ranges : List (Nat × Nat) := []
  /-- bytes of the firmware save area (R128) -/
  saveArea : Nat := 0
  accepting : Bool := false
  /-- between the steps 1 and 5 of a teardown (R124, R125) -/
  down : Bool := false
  /-- meter updates, interval boundaries and table boundaries handled up to this tick (R82, R87, R152) -/
  meterAt : Nat := 0
  boundary : Nat := 0
  /-- end of the exit from an idle state (R100) -/
  wakeAt : Option Nat := none
  /-- quiesced for a checkpoint (R128) -/
  quiet : Bool := false
  /-- guarantee factor of its stacks in units of 1/256, per stack that is above stage 0 (R103) -/
  thermal : List (Nat × Nat) := []
  /-- counters of placements, ready teams (R175, R194) -/
  seq : Nat := 0
  deriving DecidableEq, Repr

/-- A tenant's plug-in as loaded (R61, R63): image bytes, the code copied from it, the bytes of its data region that are
not 0 and the region's size, control pages, faults counted. -/
structure Plugin where
  image : List Byte
  entry : Nat
  control : Nat
  code : List Byte := []
  data : List (Nat × Byte) := []
  dataBytes : Nat := 0
  faults : Nat := 0
  disabled : Bool := false
  /-- the call in progress ran out of its budget; its default is due (R61) -/
  expired : Bool := false
  deriving DecidableEq, Repr

/-- The counters of R123, each saturating. -/
structure Counters where
  ce : Word := 0
  ue : Word := 0
  mismatch : Word := 0
  walk : Word := 0
  chkh : Word := 0
  rowReplay : Word := 0
  strikes : Word := 0
  shared : Word := 0
  deriving DecidableEq, Repr

/-- A virtual function (R78, R123, R132, R249). -/
structure Vf where
  num : Nat
  part : Option Nat := none
  /-- memory assigned to it: base, bytes (R122) -/
  ranges : List (Nat × Nat) := []
  evtBase : DWord := 0
  evtHead : Word := 0
  evtTail : Word := 0
  evtLost : Word := 0
  cnt : Counters := {}
  faults : List FaultEntry := []
  serial : Nat := 0
  plugin : Option Plugin := none
  diagSerial : Word := 0
  deriving DecidableEq, Repr

/-- A command started and not complete (R144). -/
structure Started where
  idx : Nat
  op : Nat
  /-- WAIT: address, value, mask, condition; deadline; last evaluation tick; the line watched -/
  addr : Nat := 0
  value : Nat := 0
  mask : Nat := 0
  cond : Nat := 0
  deadline : Option Nat := none
  lastEval : Nat := 0
  /-- the word at the last evaluation of a WAIT -/
  word : Nat := 0
  /-- CFLAGS of the command (R141) -/
  flags : Nat := 0
  done : Bool := false
  deriving DecidableEq, Repr

/-- The privileged shadow of a queue (R134). -/
structure Shadow where
  prioClass : Nat := 0
  scopeSys : Bool := false
  qpriv : Word := 0
  irqVec : Word := 0
  irqAddr : DWord := 0
  qcbAddr : DWord := 0
  satp : DWord := 0
  hgatp : DWord := 0
  deriving DecidableEq, Repr

/-- A registered queue (R133 to R144, R157 to R160). -/
structure Queue where
  vf : Nat
  num : Nat
  ctx : Nat
  sh : Shadow := {}
  ringBase : Nat := 0
  ringLog : Nat := 0
  sigBase : Nat := 0
  sigPages : Nat := 0
  enable : Bool := false
  irqEn : Bool := false
  irqCount : Nat := 0
  irqTime : Nat := 0
  head : Nat := 0
  tail : Nat := 0
  completed : Nat := 0
  stopped : Bool := false
  tamper : Bool := false
  ringFault : Bool := false
  lastErr : Nat := 0
  started : List Started := []
  /-- completions counted since the last MSI and the tick of the oldest (R160) -/
  irqPend : Nat := 0
  irqSince : Int := 0
  dirtyBits : BitVec 144 := 0
  serial : Nat := 0
  /-- fetching is stopped until the queue has drained (R54, R156) -/
  draining : Bool := false
  /-- for commands not fetched yet: the address of their slot, and what it held at the NOTIFY that covers them, or once that
  slot was known (R140) -/
  seen : List (Nat × Nat × List Byte) := []
  deriving DecidableEq, Repr

/-! ## The device -/

/-- An event as logged (R67): TICK, SOURCE, KIND, PARTITION (255 for none), SEVERITY, SEQ, DETAIL. -/
structure Event where
  tick : Nat
  source : Nat
  kind : Nat
  part : Nat
  sev : Nat
  seq : Nat
  detail : List Byte
  deriving DecidableEq, Repr

/-- A filter of corrected HBM errors (R119): counters that are not 0, and its two counts. -/
structure Channel where
  num : Nat
  cbf : List (Nat × Nat) := []
  scattered : Nat := 0
  total : Nat := 0
  deriving DecidableEq, Repr

/-- A diagnostic record written at a termination (R457): function, QUEUE and GATE, cause, serial, and the 256 bytes. -/
structure DiagRec where
  vf : Nat
  queue : Nat
  gate : Nat
  cause : Nat
  serial : Word
  bytes : List Byte
  deriving DecidableEq, Repr

/-! ## Management, boot, links, checkpoints -/

/-- One firmware bank: the bytes of its images (R69). -/
structure Bank where
  images : List (List Byte) := []
  deriving DecidableEq, Repr

/-- One-time fuses (R70): key digests, revocation bits, rollback floors of KIND 1 to 4. -/
structure Fuses where
  digests : List (BitVec 256) := []
  revoked : BitVec 4 := 0
  floors : List Word := []
  deriving DecidableEq, Repr

/-- The cold boot (R71, R75). -/
structure Boot where
  /-- 0 before the first boot, the step a failure stands at, 8 once step 7 is complete -/
  at_ : Nat := 0
  /-- a failed step holds the device -/
  held : Bool := false
  /-- a cold reset is about to start -/
  restart : Bool := false
  /-- bank B is active -/
  bankB : Bool := false
  /-- the inactive bank becomes active at the next cold reset -/
  pending : Bool := false
  /-- the active bank has not completed step 7 yet, and its failures in a row -/
  proving : Bool := false
  fails : Nat := 0
  deriving DecidableEq, Repr

/-- A partition in the stored configuration (R79, R80, R104, R190, R192). -/
structure PartCfg where
  num : Nat
  galleries : BitVec 48
  allot : Option Nat := none
  base : Nat := 0
  lattol : Nat := 0
  fairn : Nat := 256
  cloak : Nat := 0
  pool : Nat := 0
  saveArea : Nat := 0
  ranges : List (Nat × Nat) := []
  deriving DecidableEq, Repr

/-- The registers of a cluster in the stored configuration (R104). -/
structure ClusterCfg where
  num : Nat
  boost : Word := 0x00084C04
  droop : Word := 45
  cslope : Word := 0
  deriving DecidableEq, Repr

/-- A valid entry of the peer table: PEER, the peer's device identity, the egress mask (R24). -/
structure Peer where
  num : Nat
  ident : Nat
  mask : BitVec 16
  deriving DecidableEq, Repr

/-- The stored configuration that boot step 5 loads (R75). -/
structure Stored where
  parts : List PartCfg := []
  /-- virtual functions: number, partition, memory assigned to it -/
  vfs : List (Nat × Nat × List (Nat × Nat)) := []
  peers : List Peer := []
  clusters : List ClusterCfg := []
  /-- PCIe port modes: 1 endpoint, 0 root port (R35) -/
  ports : List Nat := []
  /-- plug-ins loaded at boot: virtual function, image, control pages -/
  plugins : List (Nat × List Byte × Nat) := []
  /-- image slots of the safe tier: number, bytes (R128) -/
  slots : List (Nat × Nat) := []
  osEntry : Nat := 0
  deviceTree : Nat := 0
  /-- PTP domain and whether its transport is Ethernet (R40) -/
  ptpDomain : Nat := 0
  ptpEthernet : Bool := false
  /-- IMSIC files: address, hart, file (R48; log 60) -/
  imsic : List (Nat × Nat × Nat) := []
  deriving DecidableEq, Repr

/-- A PCIe port (R34 to R37): mode, what is attached, rate in units of 0.5 GT/s and lanes once trained. -/
structure Port where
  num : Nat
  endpoint : Bool
  trained : Bool
  attached : Option Attached := none
  rate : Nat := 0
  lanes : Nat := 0
  deriving DecidableEq, Repr

/-- The PTP servo (R40 to R42). `adj` is its frequency adjustment in parts per billion. -/
structure Ptp where
  domain : Nat := 0
  ethernet : Bool := false
  running : Bool := false
  locked : Bool := false
  adj : Int := 0
  /-- t1 to t4 of the exchange in progress -/
  t1 : Option Nat := none
  t2 : Option Nat := none
  t3 : Option Nat := none
  t4 : Option Nat := none
  seq : Nat := 0
  deriving DecidableEq, Repr

/-- The modes of a RISC-V core: M, S (HS where there are guests), U, VS and VU (R46, R56). -/
inductive Priv where
  | m | s | u | vs | vu
  deriving DecidableEq, Repr

/-- The states of a hart (R46, R76). -/
inductive HartStatus where
  | started | stopped | suspended
  deriving DecidableEq, Repr

/-- An IMSIC file of a hart (R48): its number, 0 for the supervisor's and others for guests, its address, pending and enabled
identities, eidelivery and eithreshold. -/
structure Imsic where
  num : Nat
  addr : Nat
  pending : List Nat := []
  enabled : List Nat := []
  delivery : Bool := false
  threshold : Nat := 0
  deriving DecidableEq, Repr

/-- A translation cached by an application core (R53): a guest's or the host's, virtual page, physical page, permissions, the
4 KiB pages of its leaf; of a guest its guest page, and the pages of the second stage's leaf. -/
structure HartTlb where
  virt : Bool
  vpage : Nat
  ppage : Nat
  span : Nat := 1
  gpage : Nat := 0
  gspan : Nat := 1
  r : Bool
  w : Bool
  x : Bool
  deriving DecidableEq, Repr

/-- An access of an application core that waits for a peer's answer: address, bytes, sign extension, destination, the next pc,
and whether it is an atomic, whose answer is the old value alone. -/
structure HartWait where
  addr : Nat
  bytes : Nat
  signed : Bool
  dst : HReg
  next : Nat
  atomic : Bool
  deriving DecidableEq, Repr

/-- An application core (R45, R46, R48, R53, R76): its status, pc and mode, the registers and CSRs that are not 0, by
number, its translation cache and IMSIC files, and the access that waits for a peer. -/
structure Hart where
  num : Nat
  status : HartStatus := .stopped
  pc : DWord := 0
  mode : Priv := .m
  x : List (Nat × DWord) := []
  f : List (Nat × DWord) := []
  v : List (Nat × BitVec 512) := []
  csr : List (Nat × DWord) := []
  tlb : List HartTlb := []
  files : List Imsic := []
  await : Option HartWait := none
  /-- requests toward peers that its latest fence waits for, by their numbers (R52) -/
  fence : List Nat := []
  /-- a call of it is in progress: it has not returned (R54) -/
  calling : Bool := false
  /-- where a suspension that keeps no registers ends: address and argument (R46) -/
  resume : Option (Nat × Nat) := none
  deriving DecidableEq, Repr

/-- What a PMP entry of a firmware core covers (R58): the monitor's code and data, device registers, the peer table with
the fabric boundary registers; the scheduler's code and data, the mailbox; a plug-in's code, data and control pages; the
register pages that the scheduler reaches. -/
inductive Pmp where
  | off | monitorCode | monitorData | registers | tables | schedCode | schedData | mailbox
  | plugCode (vf : Nat) | plugData (vf : Nat) | plugControl (vf : Nat) | schedRegs
  deriving DecidableEq, Repr

/-- What an access of a firmware core does: it reads, writes or fetches (R58, R63). -/
inductive PmpAcc where
  | r | w | x
  deriving DecidableEq, Repr

/-- A firmware core (R55, R56, R58): released or not, pc and mode, the integer registers and CSRs that are not 0, its PMP
entries and which are locked, and whether the scheduler firmware runs on it. -/
structure FwCore where
  num : Nat
  released : Bool := false
  pc : DWord := 0
  mode : Priv := .m
  x : List (Nat × DWord) := []
  csr : List (Nat × DWord) := []
  pmp : List Pmp := List.replicate 16 .off
  locked : BitVec 16 := 0
  sched : Bool := false
  /-- pc and registers at the last entry of a plug-in (R62) -/
  call : Option (DWord × List (Nat × DWord)) := none
  /-- bytes of its own memory that are not 0 (R63), and the address that a load-reserved has reserved -/
  mem : List (Nat × Byte) := []
  resv : Option Nat := none
  deriving DecidableEq, Repr

/-- A core of the management controller (R65): pc and the integer registers that are not 0. -/
structure CtrlCore where
  pc : Word := 0
  x : List (Nat × Word) := []
  deriving DecidableEq, Repr

/-- The management controller (R39, R65): two cores in lockstep, the bank they run from, their restarts since the boot, and
the transmission unit of MCTP over the management port, and the payload of the message whose packets arrive. -/
structure Ctrl where
  a : CtrlCore := {}
  b : CtrlCore := {}
  running : Bool := false
  bankB : Bool := false
  restarts : Nat := 0
  unit : Nat := 64
  rx : Option (List Byte) := none
  deriving DecidableEq, Repr

/-- A 128 B line held in L2 or in the memory-side cache, with the context it counts toward: of committed data, or a version of
a hypothesis of that context's tree (R183). -/
structure CacheLine where
  msc : Bool
  set_ : Nat
  line : Nat
  ctx : Nat
  tag : Nat := 0
  deriving DecidableEq, Repr

/-- Who waits for a peer's answer (R30, R33): a warp's access or store, by its key; a copy or layout operation; an
application core; the device itself. -/
inductive Asker where
  | thread (core team warp key : Nat)
  | copy (core key : Nat)
  /-- a WAITC, a matrix operation's global B, and the fetch of a grid's code -/
  | waitc (core key : Nat)
  | mat (core team id : Nat)
  | code (grid : Nat)
  | hart (n : Nat)
  | device
  deriving DecidableEq, Repr

/-- A request to a peer that is not answered yet: its number, class, peer and line, who waits, and the lanes of the
parts of an atomic. -/
structure Ask where
  tag : Nat
  cls : Nat
  peer : Nat
  line : Nat
  who : Asker
  lanes : List Nat := []
  deriving DecidableEq, Repr

/-- A flit held in a retry buffer (R29): sequence number, class, peer, the line that picks its link, payload. -/
structure Flit where
  seq : Nat
  cls : Nat
  peer : Nat
  line : Nat
  msg : PeerMsg
  deriving DecidableEq, Repr

/-- A Crezan link (R26 to R31). -/
structure Link where
  num : Nat
  up : Bool := false
  txSeq : Nat := 0
  rxSeq : Nat := 0
  /-- a flit has been accepted on it, so that ACK is valid (R27) -/
  heard : Bool := false
  /-- a retry request is out -/
  nack : Bool := false
  buf : List Flit := []
  /-- failed transmissions in a row of the oldest held flit -/
  fails : Nat := 0
  retrainAt : Option Nat := none
  protoErr : Nat := 0
  deriving DecidableEq, Repr

/-- Flits that wait for a link toward their peer, and since when none is up (R30). -/
structure Stranded where
  peer : Nat
  since : Option Nat := none
  flits : List Flit
  deriving DecidableEq, Repr

/-- What the scheduler firmware writes into a partition's save area (R128). -/
structure PartSave where
  part : Nat
  queues : List Queue
  ctxs : List Ctx
  grids : List Grid
  teams : List Team
  vers : List Version
  faults : List (Nat × Nat × List FaultEntry)
  slalom : Slalom
  copies : List CopyOp
  waitcs : List WaitC
  resolving : List Resolve
  deriving DecidableEq, Repr

/-- A checkpoint image (R129): header fields, memory, and the save areas within it. -/
structure CkptImage where
  slot : Nat
  magic : Word := 0x4F4E434B
  tick : Nat
  galleries : BitVec 48
  layout : BitVec 256
  digest : BitVec 256
  mem : List Host.Cell
  saves : List PartSave
  deriving DecidableEq, Repr

/-- A checkpoint under way (R128): its partitions and slot, and the image once streaming has begun. -/
structure CkptRun where
  parts : List Nat
  slot : Nat
  by_ : Caller
  image : Option CkptImage := none
  deriving DecidableEq, Repr

/-- An SPDM answer (R72, R73). -/
inductive Spdm where
  | version (v : Nat)
  | capabilities (cert chal meas : Bool)
  | algorithms (asym hash : Nat)
  | digests (slot0 : BitVec 256)
  | certificate (bytes : List Byte) (left : Nat)
  | challenge (sig : BitVec 512)
  | measurements (ms : List (Nat × BitVec 256))
  /-- the number of indices -/
  | measCount (n : Nat)
  | error
  deriving DecidableEq, Repr

/-- What leaves the device, newest first (log 2). -/
inductive Out where
  /-- a message-signalled interrupt: address and data -/
  | msi (addr data : Nat)
  /-- PLDM: a sensor reading in steps of its resolution (R66), the outcome of a request, and of one that asked for a
  checkpoint or a restore: the error code of the call (R128, R130) -/
  | sensor (id : Sensor) (value : Nat)
  | pldm (ok : Bool)
  | pldmCall (err : Int)
  /-- the value of a register read by the monitor, the scheduler firmware or the host (R8) -/
  | reg (r : MReg) (v : Nat)
  /-- a stage-2 fault for the hypervisor: function, serial, page, access kind (R251) -/
  | stage2 (vf serial page kind : Nat)
  | spdm (m : Spdm)
  /-- a PTP Delay_Req with its sequence number -/
  | delayReq (seq : Nat)
  /-- an MCTP packet in a datagram to a UDP port (R39) -/
  | mctp (udp : Nat) (packet : List Byte)
  /-- a flit on a link: its 256 bytes (R27) -/
  | flit (link : Nat) (bytes : List Byte)
  deriving DecidableEq, Repr

/-- What happens next (log 2): time passes, or a step of the table happens. -/
inductive Input where
  | ticks (n : Nat)
  | event (i : Instr)
  /-- a core's L1 evicts a line, which publishes it (R256) -/
  | evict (core line : Nat)
  /-- a register read by the monitor, the scheduler firmware or the host (R8) -/
  | read (by_ : Layer) (r : MReg)
  /-- a step of an application core by itself (R45 to R53) -/
  | hart (n : Nat) (op : HartOp)
  /-- a step of a firmware core by itself (R55) -/
  | fw (n : Nat)
  /-- a datagram to a UDP port with an MCTP packet, and what the message that it ends says (R39) -/
  | mctp (udp : Nat) (packet : List Byte) (i : Instr)
  /-- an access of a context reaches a line of L2 or of the memory-side cache; where its set must evict, the line that
  normal replacement would choose (R183) -/
  | cache (l : CacheLine) (victim : Option CacheLine)
  /-- the last step of a teardown (R124) -/
  | teardownEnd (part : Nat)
  /-- part of a tick passes for a cluster's clock: `n` five-hundredths of a full-rate cycle (R451, R467) -/
  | cycle (cluster n : Nat)
  /-- the oldest diagnostic record that is not posted yet is posted (R458, R481) -/
  | diag
  /-- the matrix engine reads operand bytes before the block that uses them, at program addresses (R232, R430) -/
  | operands (core : Nat) (addrs : List Nat)
  deriving DecidableEq, Repr

/-- The facts of one check (R208, R311, R247): whether a load completes later, whether a translation is kept. -/
structure CheckEnv where
  slow : Bool := false
  keep : Bool := true
  deriving DecidableEq, Repr

/-- The state of the device. -/
structure State where
  /-- the tick counter (R41, R42) -/
  tick : Nat := 0
  /-- bytes at system physical addresses of this device and of private pools that are not 0,
  addresses rising (R22, R75; log 3) -/
  mem : List Host.Cell := []
  /-- poisoned 128 B lines (R117) -/
  poison : List Nat := []
  vers : List Version := []
  owned : List Owned := []
  tlb : List TlbEntry := []
  teams : List Team := []
  grids : List Grid := []
  ctxs : List Ctx := []
  cores : List Core := []
  clusters : List Cluster := []
  parts : List Part := []
  vfs : List Vf := []
  queues : List Queue := []
  pend : List Pend := []
  waitcs : List WaitC := []
  copies : List CopyOp := []
  resolving : List Resolve := []
  chans : List Channel := []
  /-- valid entries of the peer table (R24) -/
  peers : List Peer := []
  links : List Link := []
  /-- requests to peers that are not answered (R30, R33) -/
  asks : List Ask := []
  /-- requests of peers that wait for engine-owned lines, oldest first, with their classes (R33, R269) -/
  reqs : List (Nat × PeerMsg) := []
  /-- lines that application cores have reserved: core, line (R45) -/
  resv : List (Nat × Nat) := []
  stranded : List Stranded := []
  boot : Boot := {}
  bankA : Bank := {}
  bankB : Bank := {}
  fuses : Fuses := {}
  stored : Stored := {}
  /-- measurement indices 1 to 7 (R73) -/
  meas : List (BitVec 256) := []
  /-- the certificate chain of slot 0 (R72) -/
  chain : List Byte := []
  ptp : Ptp := {}
  ports : List Port := []
  /-- the 32 application cores, the 8 firmware cores and the management controller (R45, R55, R65) -/
  harts : List Hart := (List.range 32).map fun n => { num := n }
  fwCores : List FwCore := (List.range 8).map fun n => { num := n }
  ctrl : Ctrl := {}
  /-- the partition boundaries of the device fabric: galleries of partitions, with their partitions (R18, R58) -/
  fabric : List (Nat × Nat) := []
  /-- lines of L2 and of the memory-side cache that count toward a context, the most recently used first (R183) -/
  lines : List CacheLine := []
  /-- CTX_L2LIM and CTX_MSCLIM of context numbers, where they are not both 0 (R184) -/
  limits : List (Nat × Nat × Nat) := []
  /-- the last sensor readings and the tick of the last poll (R66) -/
  sensors : List (Sensor × Nat) := []
  polledAt : Nat := 0
  /-- stages of the HBM stacks that are not 0 (R102) -/
  stages : List (Nat × Nat) := []
  /-- the device is in C4 (R99) -/
  c4 : Bool := false
  /-- tick of the last daily clear of the filters (R121) -/
  clearedAt : Nat := 0
  ckpt : Option CkptRun := none
  images : List CkptImage := []
  /-- diagnostic records of terminated contexts that are not posted yet, oldest first (R458, R481) -/
  diags : List DiagRec := []
  errLog : List Event := []
  blackBox : List Event := []
  evSeq : Nat := 0
  frozen : Bool := false
  /-- the model's own fields (logs 2, 4, 5, 6, 7, 8) -/
  inputs : List Input := []
  sel : Option (Nat × Nat) := none
  /-- the checker has passed the selected warp's next instruction, which the next step commits (log 2) -/
  go : Bool := false
  ext : Option (BitVec 22) := none
  env : CheckEnv := {}
  nonce : Nat := 0
  pace : Nat := 0
  nextKey : Nat := 0
  outbox : List Out := []
  deriving DecidableEq, Repr

/-- The machine right after reset (R10, R75; logs 1 and 9). -/
def State.reset : State := {}

end Sys2Proof.Machine
end

