-- ==== Sys2Proof/Machine/Memory.lean ====
section
/-! DEFINITION. Sparse maps in canonical form (keys strictly rising, no entry equal to what an unlisted
key reads as), memory as one of them, and little-endian numbers (R3). -/
namespace Sys2Proof.Machine

/-- The value at a key; `d` where nothing is listed. -/
def sget (d : α) : List (Nat × α) → Nat → α
  | [], _ => d
  | (k, v) :: t, a => if k = a then v else sget d t a

/-- The list without a key. -/
def serase : List (Nat × α) → Nat → List (Nat × α)
  | [], _ => []
  | (k, v) :: t, a => if k = a then serase t a else (k, v) :: serase t a

/-- Insertion before the first greater key. -/
def sinsert : List (Nat × α) → Nat → α → List (Nat × α)
  | [], a, x => [(a, x)]
  | (k, v) :: t, a, x => if a < k then (a, x) :: (k, v) :: t else (k, v) :: sinsert t a x

/-- The map with a value at a key; writing `d` removes the entry. -/
def sset [DecidableEq α] (d : α) (l : List (Nat × α)) (a : Nat) (x : α) : List (Nat × α) :=
  if x = d then serase l a else sinsert (serase l a) a x

/-- Several writes in order. -/
def ssetAll [DecidableEq α] (d : α) (l : List (Nat × α)) : List (Nat × α) → List (Nat × α)
  | [] => l
  | (a, x) :: ws => ssetAll d (sset d l a x) ws

/-- Keys strictly rising, each above a bound. -/
def srising : List (Nat × α) → Bool
  | [] => true
  | [_] => true
  | (k, _) :: (j, w) :: t => k < j && srising ((j, w) :: t)

/-- The canonical form. -/
def swf [DecidableEq α] (d : α) (l : List (Nat × α)) : Bool := srising l && l.all (fun c => c.2 ≠ d)

/-- The canonical form of memory. -/
def Memory.wf (m : List Host.Cell) : Bool := swf (0 : Byte) m

/-- One byte of memory; an unlisted byte reads 0 (R75, R181; log 3). -/
def memByte (m : List Host.Cell) (a : Nat) : Byte := sget (0 : Byte) m a

/-- `n` bytes from `a` on. -/
def memBytes (m : List Host.Cell) (a : Nat) : Nat → List Byte
  | 0 => []
  | n + 1 => memByte m a :: memBytes m (a + 1) n

/-- The number of a list of bytes, little-endian (R3). -/
def leNum : List Byte → Nat
  | [] => 0
  | b :: bs => b.toNat + 256 * leNum bs

/-- `n` little-endian bytes of a number (R3). -/
def leList : Nat → Nat → List Byte
  | 0, _ => []
  | n + 1, v => BitVec.ofNat 8 v :: leList n (v / 256)

/-- Bytes laid at consecutive addresses. -/
def layAt (a : Nat) : List Byte → List (Nat × Byte)
  | [] => []
  | b :: bs => (a, b) :: layAt (a + 1) bs

/-- A list of bytes padded with zeros to `n`, or cut. -/
def padTo (n : Nat) (bs : List Byte) : List Byte := (bs ++ List.replicate n (0 : Byte)).take n

/-- A number of `n` bytes in a byte list at an offset (R3). -/
def fieldAt (bs : List Byte) (off n : Nat) : Nat := leNum ((bs.drop off).take n)

/-- `List.set`-like update of one element by a function. -/
def updAt (l : List α) (i : Nat) (f : α → α) : List α :=
  match l, i with
  | [], _ => []
  | x :: xs, 0 => f x :: xs
  | x :: xs, n + 1 => x :: updAt xs n f

/-- Update of the elements whose key is `n`. -/
def updKey (key : α → Nat) (n : Nat) (f : α → α) (l : List α) : List α :=
  l.map fun x => if key x = n then f x else x

/-- Update of the element with key `n`, made from `d` when there is none. -/
def updOr (key : α → Nat) (n : Nat) (d : α) (f : α → α) (l : List α) : List α :=
  if l.any (fun x => key x == n) then updKey key n f l else l ++ [f d]

/-- The element with key `n`. -/
def findKey (key : α → Nat) (n : Nat) (l : List α) : Option α := l.find? fun x => key x == n

end Sys2Proof.Machine
end

