-- ==== Sys2Proof/Machine/Crypto.lean ====
section
/-! DEFINITION. SHA-256 (FIPS 180-4) and the verification of an ECDSA signature over P-256 (FIPS 186-5), which R69, R70, R72,
R73 and R129 name as the only algorithms of the device. The formulas come from those standards (log 10). -/
namespace Sys2Proof.Machine

/-! ## SHA-256 -/

/-- The largest number whose power `e` is at most `n`, below `r` plus 2 to the `k`, from `r` on. -/
def rootFrom (e n : Nat) : Nat → Nat → Nat
  | 0, r => r
  | k + 1, r => rootFrom e n k (if (r + 2 ^ k) ^ e ≤ n then r + 2 ^ k else r)

/-- The first 32 bits of the fraction of the root of order `e` of a number below 512. -/
def rootBits (e n : Nat) : Word := BitVec.ofNat 32 (rootFrom e (n * 2 ^ (32 * e)) 40 0)

/-- The first 64 primes, by the halves of their differences from 3 on. -/
def shaPrimes : List Nat :=
  2 :: ([1, 1, 2, 1, 2, 1, 2, 3, 1, 3, 2, 1, 2, 3, 3, 1, 3, 2, 1, 3, 2, 3, 4, 2, 1, 2, 1, 2, 7, 2, 3] ++
    [1, 5, 1, 3, 3, 2, 3, 3, 1, 5, 1, 2, 1, 6, 6, 2, 1, 2, 3, 1, 5, 3, 3, 3, 1, 3, 2, 1, 5, 7, 2]).foldl
      (fun l d => l ++ [l.getLast?.getD 3 + 2 * d]) [3]

/-- The round constants: the cube roots of the first 64 primes. -/
def shaK : List Word := shaPrimes.map (rootBits 3)

/-- The word `n` of a chaining value, the first at the top. -/
def shaWord (s : BitVec 256) (n : Nat) : Word := (s >>> (32 * (7 - n))).setWidth 32

/-- A word at place `n` of a chaining value. -/
def shaAt (n : Nat) (w : Word) : BitVec 256 := w.setWidth 256 <<< (32 * (7 - n))

/-- A word turned right by three distances, combined. -/
def turned (w : Word) (ns : List Nat) : Word := (ns.map w.rotateRight).foldl (· ^^^ ·) 0

/-- The initial chaining value: the square roots of the first 8 primes. -/
def shaStart : BitVec 256 := ((shaPrimes.take 8).zipIdx.map fun p => shaAt p.2 (rootBits 2 p.1)).foldl (· ||| ·) 0

/-- One round: every word moves one place on; the first becomes the sum of both halves of the round, and the first half is added
to the fifth. `x` is the round constant plus the word of the message schedule. -/
def shaRound (s : BitVec 256) (x : Word) : BitVec 256 :=
  let w := shaWord s
  let half := x + w 7 + turned (w 4) [6, 11, 25] + (w 6 ^^^ (w 4 &&& (w 5 ^^^ w 6)))
  let all := half + turned (w 0) [2, 13, 22] + ((w 0 &&& w 1) ||| (w 2 &&& (w 0 ||| w 1)))
  ((s >>> 32) - shaAt 4 (w 3)) + shaAt 4 (w 3 + half) + shaAt 0 all

/-- The rounds of a block: each takes the first of the next 16 schedule words, and brings in the word that follows them. -/
def shaRounds : List Word → BitVec 256 → List Word → BitVec 256
  | [], s, _ => s
  | k :: ks, s, ws =>
    let at_ (j : Nat) : Word := (ws[j]?).getD 0
    let new := turned (at_ 14) [17, 19] ^^^ at_ 14 >>> 10
    let old := turned (at_ 1) [7, 18] ^^^ at_ 1 >>> 3
    shaRounds ks (shaRound s (k + at_ 0)) (ws.drop 1 ++ [at_ 0 + at_ 9 + new + old])

/-- The chaining value after `n` blocks of 16 words each. -/
def shaBlocks : Nat → BitVec 256 → List Word → BitVec 256
  | 0, s, _ => s
  | n + 1, s, ws =>
    let r := shaRounds shaK s (ws.take 16)
    shaBlocks n (((List.range 8).map fun j => shaAt j (shaWord s j + shaWord r j)).foldl (· ||| ·) 0) (ws.drop 16)

/-- Bytes as big-endian words. -/
def beWords : List Byte → List Word
  | a :: b :: c :: d :: t => (a ++ b ++ c ++ d) :: beWords t
  | _ => []

/-- The padded message: a 1 bit, zeros, and the length in bits, big-endian. -/
def shaPad (m : List Byte) : List Byte :=
  m ++ 0x80 :: List.replicate ((119 - m.length % 64) % 64) 0 ++ (leList 8 (8 * m.length)).reverse

/-- SHA-256 of a list of bytes. -/
def sha256 (m : List Byte) : BitVec 256 :=
  let ws := beWords (shaPad m)
  shaBlocks (ws.length / 16) shaStart ws

/-! ## P-256 -/

/-- The field prime, the group order, the coefficient b and the base point of P-256. -/
def p256P : Nat := 0xffffffff00000001000000000000000000000000ffffffffffffffffffffffff
def p256N : Nat := 0xffffffff00000000ffffffffffffffffbce6faada7179e84f3b9cac2fc632551
def p256B : Nat := 0x5ac635d8aa3a93e7b3ebbd55769886bc651d06b0cc53b0f63bce3c3e27d2604b
def p256X : Nat := 0x6b17d1f2e12c4247f8bce6e563a440f277037d812deb33a0f4a13945d898c296
def p256Y : Nat := 0x4fe342e2fe1a7f9b8ee7eb4a7c0f9e162bce33576b315ececbb6406837bf51f5

/-- A power modulo `m` by its bits, the highest first: `n` bits of the exponent `e`. -/
def powMod (m b e : Nat) : Nat → Nat
  | 0 => 1
  | n + 1 =>
    let r := powMod m b (e / 2) n
    if e % 2 = 1 then r * r % m * b % m else r * r % m

/-- A point (x / z², y / z³) of the curve; z = 0 for the neutral element. -/
structure Point where
  x : Nat
  y : Nat
  z : Nat
  deriving DecidableEq, Repr

/-- Twice a point. -/
def Point.double (p : Point) : Point :=
  let m := p256P
  if p.z = 0 || p.y = 0 then ⟨1, 1, 0⟩
  else
    let yy := p.y * p.y % m
    let s := 4 * p.x * yy % m
    let zz := p.z * p.z % m
    let q := 3 * (p.x + m - zz) * (p.x + zz) % m
    let x := (q * q + 2 * (m - s)) % m
    ⟨x, (q * (s + m - x) + 8 * (m - yy * yy % m)) % m, 2 * p.y * p.z % m⟩

/-- The sum of two points. -/
def Point.add (p q : Point) : Point :=
  let m := p256P
  if p.z = 0 then q
  else if q.z = 0 then p
  else
    let pz := p.z * p.z % m
    let qz := q.z * q.z % m
    let u1 := p.x * qz % m
    let u2 := q.x * pz % m
    let s1 := p.y * qz * q.z % m
    let s2 := q.y * pz * p.z % m
    if u1 = u2 then (if s1 = s2 then p.double else ⟨1, 1, 0⟩)
    else
      let h := (u2 + m - u1) % m
      let r := (s2 + m - s1) % m
      let hh := h * h % m
      let hc := h * hh % m
      let v := u1 * hh % m
      let x := (r * r + (m - hc) + 2 * (m - v)) % m
      ⟨x, (r * (v + m - x) + (m - s1 * hc % m)) % m, h * p.z * q.z % m⟩

/-- u·G + v·Q by the `n` low bits of u and v, the highest first. -/
def Point.combine (q : Point) (u v : Nat) : Nat → Point
  | 0 => ⟨1, 1, 0⟩
  | n + 1 =>
    let r := (q.combine (u / 2) (v / 2) n).double
    let r1 := if u % 2 = 1 then r.add ⟨p256X, p256Y, 1⟩ else r
    if v % 2 = 1 then r1.add q else r1

/-- A big-endian number. -/
def beNum (b : List Byte) : Nat := leNum b.reverse

/-- Whether an ECDSA signature over P-256 verifies: the key as x then y, the digest, the signature as r then s, 32 B each,
big-endian (R69, R70). -/
def ecdsaVerify (key : List Byte) (digest : BitVec 256) (sig : List Byte) : Bool :=
  let x := beNum (key.take 32)
  let y := beNum ((key.drop 32).take 32)
  let r := beNum (sig.take 32)
  let s := beNum ((sig.drop 32).take 32)
  if x < p256P && y < p256P && y * y % p256P == (x * x * x + 3 * (p256P - x) + p256B) % p256P &&
      decide (1 ≤ r) && r < p256N && decide (1 ≤ s) && s < p256N then
    let w := powMod p256N s (p256N - 2) 256
    let t := (Point.mk x y 1).combine (digest.toNat * w % p256N) (r * w % p256N) 256
    t.z != 0 && (let i := powMod p256P t.z (p256P - 2) 256; t.x * (i * i % p256P) % p256P % p256N == r)
  else false

end Sys2Proof.Machine
end

