-- ==== Sys2Proof/WellFormed.lean ====
section
/-! DEFINITION. Which instruction terms are well formed: the field combinations the opcode map forbids
(R314, R317, R321). Legality that depends on the executing agent, the alignment of pairs and quads
and the launch is tested when the instruction is checked (R310, R318, R323), not here. -/
namespace Sys2Proof

/-- A mask number is 0 to 11 (R314). -/
def maskOk (m : BitVec 4) : Bool := m.toNat < 12

/-- A store of a sign-extended size is forbidden (R321). -/
def storeSz (z : Sz) : Bool := z != .s8 && z != .s16

/-- FADD has no 64-bit form (R392). -/
def atOk (f : FmtAt) : Bool := !(f.aop == .fadd && f.w64)

/-- RED returns nothing: XCHG and CAS are forbidden (R392). -/
def redOk (f : FmtAt) : Bool := atOk f && f.aop != .xchg && f.aop != .cas

/-- PAT bits from LEN to 7 are zero, where `len` holds LEN − 1 (R317). -/
def patOk (f : FmtPB) : Bool := f.pat.toNat < 2 ^ (f.len.toNat + 1)

/-- The field combinations the map allows (R317, R321). -/
def Instr.wellFormed : Instr → Bool
  | .pblk f => patOk f
  | .st f => storeSz f.sz
  | .sts f => storeSz f.sz
  | .stl f => storeSz f.sz
  | .atom f => atOk f
  | .red f => redOk f
  | .atoms f => atOk f
  | .mjoin f => maskOk f.m
  | .mleave f => maskOk f.m
  | .mwait f => maskOk f.m
  | .mact f => maskOk f.m
  | .mld f => maskOk f.m
  | .mst f => maskOk f.m
  | .elect f => maskOk f.m
  | .qswp f => maskOk f.m
  | .qbc f => maskOk f.m
  | .wshfl f => maskOk f.m
  | .wvote f => maskOk f.m
  | .wred f => maskOk f.m
  | .wscan f => maskOk f.m
  | _ => true

end Sys2Proof
end

