-- ==== Sys2Proof/Decode.lean ====
section
/-! DEFINITION. Decoding a Jexzen word, total and rejecting by name (R314, R318, R321), and after it
the encoder, both written from the encoding tables of the spec. A rejection is no stop of the machine:
the step turns it into the trap ILL (R318). -/
namespace Sys2Proof

/-- Why a word is no instruction (R318). -/
inductive Reject where
  /-- its opcode is not assigned in the opcode map -/
  | unassigned
  /-- a field that must be zero is nonzero -/
  | nonzeroField
  /-- a field holds a code the map does not assign -/
  | badCode
  /-- the fields together are forbidden (`Instr.wellFormed`) -/
  | forbidden
  /-- fewer than four bytes -/
  | short
  deriving DecidableEq, Repr

/-- The field of `n` bits at bit `lo`. -/
def bv (n w lo : Nat) : BitVec n := BitVec.ofNat n (w / 2 ^ lo)

/-- The bit `lo`. -/
def bit (w lo : Nat) : Bool := w / 2 ^ lo % 2 == 1

/-- The code of a `Rm`. -/
def Rm.code : Rm → Nat
  | .rne => 0
  | .rtz => 1
  | .rdn => 2
  | .rup => 3

/-- The `Rm` of a code; none for a code that is not assigned. -/
def Rm.ofCode : Nat → Option Rm
  | 0 => some .rne
  | 1 => some .rtz
  | 2 => some .rdn
  | 3 => some .rup
  | _ => none

/-- The code of a `F2Fmt`. -/
def F2Fmt.code : F2Fmt → Nat
  | .f32 => 0
  | .f16 => 1
  | .bf16 => 2
  | .f64 => 3

/-- The `F2Fmt` of a code; none for a code that is not assigned. -/
def F2Fmt.ofCode : Nat → Option F2Fmt
  | 0 => some .f32
  | 1 => some .f16
  | 2 => some .bf16
  | 3 => some .f64
  | _ => none

/-- The code of a `ShKind`. -/
def ShKind.code : ShKind → Nat
  | .shl => 0
  | .shr => 1
  | .sar => 2
  | .rotl => 3

/-- The `ShKind` of a code; none for a code that is not assigned. -/
def ShKind.ofCode : Nat → Option ShKind
  | 0 => some .shl
  | 1 => some .shr
  | 2 => some .sar
  | 3 => some .rotl
  | _ => none

/-- The code of a `ICond`. -/
def ICond.code : ICond → Nat
  | .eq => 0
  | .ne => 1
  | .lt => 2
  | .le => 3
  | .gt => 4
  | .ge => 5
  | .ltu => 6
  | .leu => 7
  | .gtu => 8
  | .geu => 9

/-- The `ICond` of a code; none for a code that is not assigned. -/
def ICond.ofCode : Nat → Option ICond
  | 0 => some .eq
  | 1 => some .ne
  | 2 => some .lt
  | 3 => some .le
  | 4 => some .gt
  | 5 => some .ge
  | 6 => some .ltu
  | 7 => some .leu
  | 8 => some .gtu
  | 9 => some .geu
  | _ => none

/-- The code of a `FCond`. -/
def FCond.code : FCond → Nat
  | .eq => 0
  | .ne => 1
  | .lt => 2
  | .le => 3
  | .gt => 4
  | .ge => 5
  | .eqn => 6
  | .nen => 7
  | .ltn => 8
  | .len => 9
  | .gtn => 10
  | .gen => 11
  | .isnum => 12
  | .isnan => 13

/-- The `FCond` of a code; none for a code that is not assigned. -/
def FCond.ofCode : Nat → Option FCond
  | 0 => some .eq
  | 1 => some .ne
  | 2 => some .lt
  | 3 => some .le
  | 4 => some .gt
  | 5 => some .ge
  | 6 => some .eqn
  | 7 => some .nen
  | 8 => some .ltn
  | 9 => some .len
  | 10 => some .gtn
  | 11 => some .gen
  | 12 => some .isnum
  | 13 => some .isnan
  | _ => none

/-- The code of a `Sz`. -/
def Sz.code : Sz → Nat
  | .b8 => 0
  | .s8 => 1
  | .b16 => 2
  | .s16 => 3
  | .b32 => 4
  | .b64 => 5
  | .b128 => 6

/-- The `Sz` of a code; none for a code that is not assigned. -/
def Sz.ofCode : Nat → Option Sz
  | 0 => some .b8
  | 1 => some .s8
  | 2 => some .b16
  | 3 => some .s16
  | 4 => some .b32
  | 5 => some .b64
  | 6 => some .b128
  | _ => none

/-- The code of a `MemOrd`. -/
def MemOrd.code : MemOrd → Nat
  | .rlx => 0
  | .acq => 1
  | .rel => 2
  | .acqrel => 3

/-- The `MemOrd` of a code; none for a code that is not assigned. -/
def MemOrd.ofCode : Nat → Option MemOrd
  | 0 => some .rlx
  | 1 => some .acq
  | 2 => some .rel
  | 3 => some .acqrel
  | _ => none

/-- The code of a `Scope`. -/
def Scope.code : Scope → Nat
  | .core => 0
  | .cluster => 1
  | .device => 2
  | .system => 3

/-- The `Scope` of a code; none for a code that is not assigned. -/
def Scope.ofCode : Nat → Option Scope
  | 0 => some .core
  | 1 => some .cluster
  | 2 => some .device
  | 3 => some .system
  | _ => none

/-- The code of a `Ch`. -/
def Ch.code : Ch → Nat
  | .def_ => 0
  | .stream => 1
  | .keep => 2
  | .bypass => 3

/-- The `Ch` of a code; none for a code that is not assigned. -/
def Ch.ofCode : Nat → Option Ch
  | 0 => some .def_
  | 1 => some .stream
  | 2 => some .keep
  | 3 => some .bypass
  | _ => none

/-- The code of a `Aop`. -/
def Aop.code : Aop → Nat
  | .add => 0
  | .min => 1
  | .max => 2
  | .minu => 3
  | .maxu => 4
  | .and => 5
  | .or => 6
  | .xor => 7
  | .xchg => 8
  | .fadd => 9
  | .cas => 10

/-- The `Aop` of a code; none for a code that is not assigned. -/
def Aop.ofCode : Nat → Option Aop
  | 0 => some .add
  | 1 => some .min
  | 2 => some .max
  | 3 => some .minu
  | 4 => some .maxu
  | 5 => some .and
  | 6 => some .or
  | 7 => some .xor
  | 8 => some .xchg
  | 9 => some .fadd
  | 10 => some .cas
  | _ => none

/-- The code of a `QDir`. -/
def QDir.code : QDir → Nat
  | .horizontal => 0
  | .vertical => 1
  | .diagonal => 2

/-- The `QDir` of a code; none for a code that is not assigned. -/
def QDir.ofCode : Nat → Option QDir
  | 0 => some .horizontal
  | 1 => some .vertical
  | 2 => some .diagonal
  | _ => none

/-- The code of a `VoteOp`. -/
def VoteOp.code : VoteOp → Nat
  | .any => 0
  | .all => 1
  | .ballot => 2
  | .count => 3

/-- The `VoteOp` of a code; none for a code that is not assigned. -/
def VoteOp.ofCode : Nat → Option VoteOp
  | 0 => some .any
  | 1 => some .all
  | 2 => some .ballot
  | 3 => some .count
  | _ => none

/-- The code of a `RedOp`. -/
def RedOp.code : RedOp → Nat
  | .iadd => 0
  | .imin => 1
  | .imax => 2
  | .and => 3
  | .or => 4
  | .xor => 5
  | .fadd => 6
  | .fmax => 7

/-- The `RedOp` of a code; none for a code that is not assigned. -/
def RedOp.ofCode : Nat → Option RedOp
  | 0 => some .iadd
  | 1 => some .imin
  | 2 => some .imax
  | 3 => some .and
  | 4 => some .or
  | 5 => some .xor
  | 6 => some .fadd
  | 7 => some .fmax
  | _ => none

/-- The code of a `Ovf`. -/
def Ovf.code : Ovf → Nat
  | .sat => 0
  | .inf => 1
  | .nan => 2
  | .trap => 3

/-- The `Ovf` of a code; none for a code that is not assigned. -/
def Ovf.ofCode : Nat → Option Ovf
  | 0 => some .sat
  | 1 => some .inf
  | 2 => some .nan
  | 3 => some .trap
  | _ => none

/-- The `FmtPB` a word holds; none when a field holds a code that is not assigned. -/
def FmtPB.get (w : Nat) : Option FmtPB := some ⟨bv 3 w 21, bit w 20, bv 3 w 17, bv 8 w 9⟩

/-- The field bits of a `FmtPB`. -/
def FmtPB.put (f : FmtPB) : Nat :=
  f.p.toNat * 2 ^ 21 + f.n.toNat * 2 ^ 20 + f.len.toNat * 2 ^ 17 + f.pat.toNat * 2 ^ 9

/-- The `FmtX` a word holds; none when a field holds a code that is not assigned. -/
def FmtX.get (w : Nat) : Option FmtX := some ⟨bv 22 w 0⟩

/-- The field bits of a `FmtX`. -/
def FmtX.put (f : FmtX) : Nat :=
  f.imm.toNat

/-- The `FmtB` a word holds; none when a field holds a code that is not assigned. -/
def FmtB.get (w : Nat) : Option FmtB := some ⟨bv 3 w 21, bit w 20, bv 4 w 16, bv 16 w 0⟩

/-- The field bits of a `FmtB`. -/
def FmtB.put (f : FmtB) : Nat :=
  f.p.toNat * 2 ^ 21 + f.n.toNat * 2 ^ 20 + f.prio.toNat * 2 ^ 16 + f.off.toNat

/-- The `FmtJ` a word holds; none when a field holds a code that is not assigned. -/
def FmtJ.get (w : Nat) : Option FmtJ := some ⟨bv 24 w 0⟩

/-- The field bits of a `FmtJ`. -/
def FmtJ.put (f : FmtJ) : Nat :=
  f.off.toNat

/-- The `FmtJmpi` a word holds; none when a field holds a code that is not assigned. -/
def FmtJmpi.get (w : Nat) : Option FmtJmpi := some ⟨bv 7 w 10, bv 4 w 0⟩

/-- The field bits of a `FmtJmpi`. -/
def FmtJmpi.put (f : FmtJmpi) : Nat :=
  f.a.toNat * 2 ^ 10 + f.prio.toNat

/-- The `FmtCalli` a word holds; none when a field holds a code that is not assigned. -/
def FmtCalli.get (w : Nat) : Option FmtCalli := some ⟨bv 7 w 17, bv 7 w 10, bv 4 w 0⟩

/-- The field bits of a `FmtCalli`. -/
def FmtCalli.put (f : FmtCalli) : Nat :=
  f.d.toNat * 2 ^ 17 + f.a.toNat * 2 ^ 10 + f.prio.toNat

/-- The `FmtPrio` a word holds; none when a field holds a code that is not assigned. -/
def FmtPrio.get (w : Nat) : Option FmtPrio := some ⟨bv 4 w 0⟩

/-- The field bits of a `FmtPrio`. -/
def FmtPrio.put (f : FmtPrio) : Nat :=
  f.prio.toNat

/-- The `FmtWinb` a word holds; none when a field holds a code that is not assigned. -/
def FmtWinb.get (w : Nat) : Option FmtWinb := some ⟨bv 5 w 0⟩

/-- The field bits of a `FmtWinb`. -/
def FmtWinb.put (f : FmtWinb) : Nat :=
  f.base.toNat

/-- The `FmtCode` a word holds; none when a field holds a code that is not assigned. -/
def FmtCode.get (w : Nat) : Option FmtCode := some ⟨bv 10 w 0⟩

/-- The field bits of a `FmtCode`. -/
def FmtCode.put (f : FmtCode) : Nat :=
  f.code.toNat

/-- The `FmtR` a word holds; none when a field holds a code that is not assigned. -/
def FmtR.get (w : Nat) : Option FmtR := some ⟨bv 7 w 17, bv 7 w 10, bv 7 w 3, bit w 2, bit w 1, bit w 0⟩

/-- The field bits of a `FmtR`. -/
def FmtR.put (f : FmtR) : Nat :=
  f.d.toNat * 2 ^ 17 + f.a.toNat * 2 ^ 10 + f.b.toNat * 2 ^ 3 + f.e.toNat * 2 ^ 2 + f.ha.toNat * 2 ^ 1 + f.hb.toNat

/-- The `FmtR1` a word holds; none when a field holds a code that is not assigned. -/
def FmtR1.get (w : Nat) : Option FmtR1 := some ⟨bv 7 w 17, bv 7 w 10, bit w 2, bit w 1⟩

/-- The field bits of a `FmtR1`. -/
def FmtR1.put (f : FmtR1) : Nat :=
  f.d.toNat * 2 ^ 17 + f.a.toNat * 2 ^ 10 + f.e.toNat * 2 ^ 2 + f.ha.toNat * 2 ^ 1

/-- The `FmtCI` a word holds; none when a field holds a code that is not assigned. -/
def FmtCI.get (w : Nat) : Option FmtCI := do
  let cond ← ICond.ofCode (natField w 17 4)
  some ⟨bv 3 w 21, cond, bv 7 w 10, bv 7 w 3, bit w 2, bit w 1, bit w 0⟩

/-- The field bits of a `FmtCI`. -/
def FmtCI.put (f : FmtCI) : Nat :=
  f.pd.toNat * 2 ^ 21 + f.cond.code * 2 ^ 17 + f.a.toNat * 2 ^ 10 + f.b.toNat * 2 ^ 3 + f.e.toNat * 2 ^ 2 + f.ha.toNat * 2 ^ 1 + f.hb.toNat

/-- The `FmtRK` a word holds; none when a field holds a code that is not assigned. -/
def FmtRK.get (w : Nat) : Option FmtRK := some ⟨bv 7 w 17, bv 7 w 10, bv 7 w 3, bv 3 w 0⟩

/-- The field bits of a `FmtRK`. -/
def FmtRK.put (f : FmtRK) : Nat :=
  f.d.toNat * 2 ^ 17 + f.a.toNat * 2 ^ 10 + f.b.toNat * 2 ^ 3 + f.k.toNat

/-- The `FmtMovi` a word holds; none when a field holds a code that is not assigned. -/
def FmtMovi.get (w : Nat) : Option FmtMovi := some ⟨bv 7 w 17, bv 10 w 0⟩

/-- The field bits of a `FmtMovi`. -/
def FmtMovi.put (f : FmtMovi) : Nat :=
  f.d.toNat * 2 ^ 17 + f.imm.toNat

/-- The `FmtI` a word holds; none when a field holds a code that is not assigned. -/
def FmtI.get (w : Nat) : Option FmtI := some ⟨bv 7 w 17, bv 7 w 10, bv 10 w 0⟩

/-- The field bits of a `FmtI`. -/
def FmtI.put (f : FmtI) : Nat :=
  f.d.toNat * 2 ^ 17 + f.a.toNat * 2 ^ 10 + f.imm.toNat

/-- The `FmtSh` a word holds; none when a field holds a code that is not assigned. -/
def FmtSh.get (w : Nat) : Option FmtSh := do
  let kind ← ShKind.ofCode (natField w 5 2)
  some ⟨bv 7 w 17, bv 7 w 10, kind, bv 5 w 0⟩

/-- The field bits of a `FmtSh`. -/
def FmtSh.put (f : FmtSh) : Nat :=
  f.d.toNat * 2 ^ 17 + f.a.toNat * 2 ^ 10 + f.kind.code * 2 ^ 5 + f.amount.toNat

/-- The `FmtCF` a word holds; none when a field holds a code that is not assigned. -/
def FmtCF.get (w : Nat) : Option FmtCF := do
  let cond ← FCond.ofCode (natField w 17 4)
  some ⟨bv 3 w 21, cond, bv 7 w 10, bv 7 w 3, bit w 2, bit w 1, bit w 0⟩

/-- The field bits of a `FmtCF`. -/
def FmtCF.put (f : FmtCF) : Nat :=
  f.pd.toNat * 2 ^ 21 + f.cond.code * 2 ^ 17 + f.a.toNat * 2 ^ 10 + f.b.toNat * 2 ^ 3 + f.e.toNat * 2 ^ 2 + f.ha.toNat * 2 ^ 1 + f.hb.toNat

/-- The `FmtMR` a word holds; none when a field holds a code that is not assigned. -/
def FmtMR.get (w : Nat) : Option FmtMR := do
  let rm ← Rm.ofCode (natField w 3 2)
  some ⟨bv 7 w 17, bv 7 w 10, rm, bit w 2, bit w 1⟩

/-- The field bits of a `FmtMR`. -/
def FmtMR.put (f : FmtMR) : Nat :=
  f.d.toNat * 2 ^ 17 + f.a.toNat * 2 ^ 10 + f.rm.code * 2 ^ 3 + f.e.toNat * 2 ^ 2 + f.ha.toNat * 2 ^ 1

/-- The `FmtMI` a word holds; none when a field holds a code that is not assigned. -/
def FmtMI.get (w : Nat) : Option FmtMI := do
  let rm ← Rm.ofCode (natField w 3 2)
  some ⟨bv 7 w 17, bv 7 w 10, bit w 6, bit w 5, rm, bit w 2, bit w 1⟩

/-- The field bits of a `FmtMI`. -/
def FmtMI.put (f : FmtMI) : Nat :=
  f.d.toNat * 2 ^ 17 + f.a.toNat * 2 ^ 10 + f.w64.toNat * 2 ^ 6 + f.uns.toNat * 2 ^ 5 + f.rm.code * 2 ^ 3 + f.e.toNat * 2 ^ 2 + f.ha.toNat * 2 ^ 1

/-- The `FmtMF` a word holds; none when a field holds a code that is not assigned. -/
def FmtMF.get (w : Nat) : Option FmtMF := do
  let dst ← F2Fmt.ofCode (natField w 8 2)
  let src ← F2Fmt.ofCode (natField w 6 2)
  let rm ← Rm.ofCode (natField w 4 2)
  some ⟨bv 7 w 17, bv 7 w 10, dst, src, rm, bit w 2, bit w 1⟩

/-- The field bits of a `FmtMF`. -/
def FmtMF.put (f : FmtMF) : Nat :=
  f.d.toNat * 2 ^ 17 + f.a.toNat * 2 ^ 10 + f.dst.code * 2 ^ 8 + f.src.code * 2 ^ 6 + f.rm.code * 2 ^ 4 + f.e.toNat * 2 ^ 2 + f.ha.toNat * 2 ^ 1

/-- The `FmtMS` a word holds; none when a field holds a code that is not assigned. -/
def FmtMS.get (w : Nat) : Option FmtMS := some ⟨bv 7 w 17, bv 7 w 10, bv 3 w 3, bit w 2, bit w 1⟩

/-- The field bits of a `FmtMS`. -/
def FmtMS.put (f : FmtMS) : Nat :=
  f.d.toNat * 2 ^ 17 + f.a.toNat * 2 ^ 10 + f.slot.toNat * 2 ^ 3 + f.e.toNat * 2 ^ 2 + f.ha.toNat * 2 ^ 1

/-- The `FmtCvtw` a word holds; none when a field holds a code that is not assigned. -/
def FmtCvtw.get (w : Nat) : Option FmtCvtw := some ⟨bv 2 w 24, bv 7 w 17, bv 7 w 10, bv 7 w 3, bv 3 w 0⟩

/-- The field bits of a `FmtCvtw`. -/
def FmtCvtw.put (f : FmtCvtw) : Nat :=
  f.s.toNat * 2 ^ 24 + f.d.toNat * 2 ^ 17 + f.a.toNat * 2 ^ 10 + f.b.toNat * 2 ^ 3 + f.k.toNat

/-- The `FmtCvtn` a word holds; none when a field holds a code that is not assigned. -/
def FmtCvtn.get (w : Nat) : Option FmtCvtn := do
  let ovf ← Ovf.ofCode (natField w 26 2)
  some ⟨ovf, bv 2 w 24, bv 7 w 17, bv 7 w 10, bv 7 w 3, bv 3 w 0⟩

/-- The field bits of a `FmtCvtn`. -/
def FmtCvtn.put (f : FmtCvtn) : Nat :=
  f.ovf.code * 2 ^ 26 + f.s.toNat * 2 ^ 24 + f.d.toNat * 2 ^ 17 + f.a.toNat * 2 ^ 10 + f.b.toNat * 2 ^ 3 + f.k.toNat

/-- The `FmtMem` a word holds; none when a field holds a code that is not assigned. -/
def FmtMem.get (w : Nat) : Option FmtMem := do
  let sz ← Sz.ofCode (natField w 7 3)
  let ord ← MemOrd.ofCode (natField w 5 2)
  let scp ← Scope.ofCode (natField w 3 2)
  let ch ← Ch.ofCode (natField w 0 2)
  some ⟨bv 7 w 17, bv 7 w 10, sz, ord, scp, bit w 2, ch⟩

/-- The field bits of a `FmtMem`. -/
def FmtMem.put (f : FmtMem) : Nat :=
  f.d.toNat * 2 ^ 17 + f.a.toNat * 2 ^ 10 + f.sz.code * 2 ^ 7 + f.ord.code * 2 ^ 5 + f.scp.code * 2 ^ 3 + f.e.toNat * 2 ^ 2 + f.ch.code

/-- The `FmtMemL` a word holds; none when a field holds a code that is not assigned. -/
def FmtMemL.get (w : Nat) : Option FmtMemL := do
  let sz ← Sz.ofCode (natField w 7 3)
  let ord ← MemOrd.ofCode (natField w 5 2)
  let scp ← Scope.ofCode (natField w 3 2)
  some ⟨bv 7 w 17, bv 7 w 10, sz, ord, scp, bit w 2⟩

/-- The field bits of a `FmtMemL`. -/
def FmtMemL.put (f : FmtMemL) : Nat :=
  f.d.toNat * 2 ^ 17 + f.a.toNat * 2 ^ 10 + f.sz.code * 2 ^ 7 + f.ord.code * 2 ^ 5 + f.scp.code * 2 ^ 3 + f.e.toNat * 2 ^ 2

/-- The `FmtLdp` a word holds; none when a field holds a code that is not assigned. -/
def FmtLdp.get (w : Nat) : Option FmtLdp := do
  let sz ← Sz.ofCode (natField w 7 3)
  some ⟨bv 7 w 17, bv 7 w 10, sz, bit w 2⟩

/-- The field bits of a `FmtLdp`. -/
def FmtLdp.put (f : FmtLdp) : Nat :=
  f.d.toNat * 2 ^ 17 + f.a.toNat * 2 ^ 10 + f.sz.code * 2 ^ 7 + f.e.toNat * 2 ^ 2

/-- The `FmtPrf` a word holds; none when a field holds a code that is not assigned. -/
def FmtPrf.get (w : Nat) : Option FmtPrf := do
  let ch ← Ch.ofCode (natField w 0 2)
  some ⟨bv 7 w 10, ch⟩

/-- The field bits of a `FmtPrf`. -/
def FmtPrf.put (f : FmtPrf) : Nat :=
  f.a.toNat * 2 ^ 10 + f.ch.code

/-- The `FmtCP` a word holds; none when a field holds a code that is not assigned. -/
def FmtCP.get (w : Nat) : Option FmtCP := some ⟨bv 3 w 21, bv 7 w 10, bit w 2, bit w 1⟩

/-- The field bits of a `FmtCP`. -/
def FmtCP.put (f : FmtCP) : Nat :=
  f.pd.toNat * 2 ^ 21 + f.a.toNat * 2 ^ 10 + f.e.toNat * 2 ^ 2 + f.ha.toNat * 2 ^ 1

/-- The `FmtFence` a word holds; none when a field holds a code that is not assigned. -/
def FmtFence.get (w : Nat) : Option FmtFence := do
  let ord ← MemOrd.ofCode (natField w 5 2)
  let scp ← Scope.ofCode (natField w 3 2)
  some ⟨ord, scp⟩

/-- The field bits of a `FmtFence`. -/
def FmtFence.put (f : FmtFence) : Nat :=
  f.ord.code * 2 ^ 5 + f.scp.code * 2 ^ 3

/-- The `FmtCctl` a word holds; none when a field holds a code that is not assigned. -/
def FmtCctl.get (w : Nat) : Option FmtCctl := do
  let scp ← Scope.ofCode (natField w 3 2)
  let ch ← Ch.ofCode (natField w 0 2)
  some ⟨bv 7 w 10, scp, ch⟩

/-- The field bits of a `FmtCctl`. -/
def FmtCctl.put (f : FmtCctl) : Nat :=
  f.a.toNat * 2 ^ 10 + f.scp.code * 2 ^ 3 + f.ch.code

/-- The `FmtCctlAll` a word holds; none when a field holds a code that is not assigned. -/
def FmtCctlAll.get (w : Nat) : Option FmtCctlAll := do
  let scp ← Scope.ofCode (natField w 3 2)
  let ch ← Ch.ofCode (natField w 0 2)
  some ⟨scp, ch⟩

/-- The field bits of a `FmtCctlAll`. -/
def FmtCctlAll.put (f : FmtCctlAll) : Nat :=
  f.scp.code * 2 ^ 3 + f.ch.code

/-- The `FmtAt` a word holds; none when a field holds a code that is not assigned. -/
def FmtAt.get (w : Nat) : Option FmtAt := do
  let aop ← Aop.ofCode (natField w 6 4)
  let ord ← MemOrd.ofCode (natField w 4 2)
  let scp ← Scope.ofCode (natField w 2 2)
  some ⟨bv 7 w 17, bv 7 w 10, aop, ord, scp, bit w 1, bit w 0⟩

/-- The field bits of a `FmtAt`. -/
def FmtAt.put (f : FmtAt) : Nat :=
  f.d.toNat * 2 ^ 17 + f.a.toNat * 2 ^ 10 + f.aop.code * 2 ^ 6 + f.ord.code * 2 ^ 4 + f.scp.code * 2 ^ 2 + f.w64.toNat * 2 ^ 1 + f.e.toNat

/-- The `FmtSrc` a word holds; none when a field holds a code that is not assigned. -/
def FmtSrc.get (w : Nat) : Option FmtSrc := some ⟨bv 7 w 10, bit w 2, bit w 1⟩

/-- The field bits of a `FmtSrc`. -/
def FmtSrc.put (f : FmtSrc) : Nat :=
  f.a.toNat * 2 ^ 10 + f.e.toNat * 2 ^ 2 + f.ha.toNat * 2 ^ 1

/-- The `FmtDst` a word holds; none when a field holds a code that is not assigned. -/
def FmtDst.get (w : Nat) : Option FmtDst := some ⟨bv 7 w 17, bit w 2⟩

/-- The field bits of a `FmtDst`. -/
def FmtDst.put (f : FmtDst) : Nat :=
  f.d.toNat * 2 ^ 17 + f.e.toNat * 2 ^ 2

/-- The `FmtBar` a word holds; none when a field holds a code that is not assigned. -/
def FmtBar.get (w : Nat) : Option FmtBar := some ⟨bv 4 w 0⟩

/-- The field bits of a `FmtBar`. -/
def FmtBar.put (f : FmtBar) : Nat :=
  f.b.toNat

/-- The `FmtStgw` a word holds; none when a field holds a code that is not assigned. -/
def FmtStgw.get (w : Nat) : Option FmtStgw := some ⟨bit w 6, bv 4 w 2, bv 2 w 0⟩

/-- The field bits of a `FmtStgw`. -/
def FmtStgw.put (f : FmtStgw) : Nat :=
  f.phase.toNat * 2 ^ 6 + f.slot.toNat * 2 ^ 2 + f.ring.toNat

/-- The `FmtStgR` a word holds; none when a field holds a code that is not assigned. -/
def FmtStgR.get (w : Nat) : Option FmtStgR := some ⟨bv 7 w 10, bv 2 w 0⟩

/-- The field bits of a `FmtStgR`. -/
def FmtStgR.put (f : FmtStgR) : Nat :=
  f.a.toNat * 2 ^ 10 + f.ring.toNat

/-- The `FmtStga` a word holds; none when a field holds a code that is not assigned. -/
def FmtStga.get (w : Nat) : Option FmtStga := some ⟨bv 4 w 2, bv 2 w 0⟩

/-- The field bits of a `FmtStga`. -/
def FmtStga.put (f : FmtStga) : Nat :=
  f.slot.toNat * 2 ^ 2 + f.ring.toNat

/-- The `FmtQd` a word holds; none when a field holds a code that is not assigned. -/
def FmtQd.get (w : Nat) : Option FmtQd := some ⟨bv 7 w 17, bv 4 w 6, bit w 2⟩

/-- The field bits of a `FmtQd`. -/
def FmtQd.put (f : FmtQd) : Nat :=
  f.d.toNat * 2 ^ 17 + f.m.toNat * 2 ^ 6 + f.e.toNat * 2 ^ 2

/-- The `FmtD` a word holds; none when a field holds a code that is not assigned. -/
def FmtD.get (w : Nat) : Option FmtD := some ⟨bv 7 w 17⟩

/-- The field bits of a `FmtD`. -/
def FmtD.put (f : FmtD) : Nat :=
  f.d.toNat * 2 ^ 17

/-- The `FmtQm` a word holds; none when a field holds a code that is not assigned. -/
def FmtQm.get (w : Nat) : Option FmtQm := some ⟨bv 4 w 6, bit w 2⟩

/-- The field bits of a `FmtQm`. -/
def FmtQm.put (f : FmtQm) : Nat :=
  f.m.toNat * 2 ^ 6 + f.e.toNat * 2 ^ 2

/-- The `FmtQa` a word holds; none when a field holds a code that is not assigned. -/
def FmtQa.get (w : Nat) : Option FmtQa := some ⟨bv 7 w 10, bv 4 w 6, bit w 2⟩

/-- The field bits of a `FmtQa`. -/
def FmtQa.put (f : FmtQa) : Nat :=
  f.a.toNat * 2 ^ 10 + f.m.toNat * 2 ^ 6 + f.e.toNat * 2 ^ 2

/-- The `FmtQswp` a word holds; none when a field holds a code that is not assigned. -/
def FmtQswp.get (w : Nat) : Option FmtQswp := do
  let dir ← QDir.ofCode (natField w 3 3)
  some ⟨dir, bv 7 w 17, bv 7 w 10, bv 4 w 6, bit w 2⟩

/-- The field bits of a `FmtQswp`. -/
def FmtQswp.put (f : FmtQswp) : Nat :=
  f.dir.code * 2 ^ 3 + f.d.toNat * 2 ^ 17 + f.a.toNat * 2 ^ 10 + f.m.toNat * 2 ^ 6 + f.e.toNat * 2 ^ 2

/-- The `FmtQbc` a word holds; none when a field holds a code that is not assigned. -/
def FmtQbc.get (w : Nat) : Option FmtQbc := some ⟨bv 2 w 3, bv 7 w 17, bv 7 w 10, bv 4 w 6, bit w 2⟩

/-- The field bits of a `FmtQbc`. -/
def FmtQbc.put (f : FmtQbc) : Nat :=
  f.n.toNat * 2 ^ 3 + f.d.toNat * 2 ^ 17 + f.a.toNat * 2 ^ 10 + f.m.toNat * 2 ^ 6 + f.e.toNat * 2 ^ 2

/-- The `FmtQ` a word holds; none when a field holds a code that is not assigned. -/
def FmtQ.get (w : Nat) : Option FmtQ := some ⟨bv 7 w 17, bv 7 w 10, bv 4 w 6, bit w 2⟩

/-- The field bits of a `FmtQ`. -/
def FmtQ.put (f : FmtQ) : Nat :=
  f.d.toNat * 2 ^ 17 + f.a.toNat * 2 ^ 10 + f.m.toNat * 2 ^ 6 + f.e.toNat * 2 ^ 2

/-- The `FmtVote` a word holds; none when a field holds a code that is not assigned. -/
def FmtVote.get (w : Nat) : Option FmtVote := do
  let op ← VoteOp.ofCode (natField w 3 3)
  some ⟨op, bv 7 w 17, bv 7 w 10, bv 4 w 6, bit w 2⟩

/-- The field bits of a `FmtVote`. -/
def FmtVote.put (f : FmtVote) : Nat :=
  f.op.code * 2 ^ 3 + f.d.toNat * 2 ^ 17 + f.a.toNat * 2 ^ 10 + f.m.toNat * 2 ^ 6 + f.e.toNat * 2 ^ 2

/-- The `FmtRed` a word holds; none when a field holds a code that is not assigned. -/
def FmtRed.get (w : Nat) : Option FmtRed := do
  let op ← RedOp.ofCode (natField w 3 3)
  some ⟨op, bv 7 w 17, bv 7 w 10, bv 4 w 6, bit w 2⟩

/-- The field bits of a `FmtRed`. -/
def FmtRed.put (f : FmtRed) : Nat :=
  f.op.code * 2 ^ 3 + f.d.toNat * 2 ^ 17 + f.a.toNat * 2 ^ 10 + f.m.toNat * 2 ^ 6 + f.e.toNat * 2 ^ 2

/-- The `FmtP` a word holds; none when a field holds a code that is not assigned. -/
def FmtP.get (w : Nat) : Option FmtP := some ⟨bv 3 w 21, bv 3 w 18, bv 3 w 15, bv 4 w 11⟩

/-- The field bits of a `FmtP`. -/
def FmtP.put (f : FmtP) : Nat :=
  f.pd.toNat * 2 ^ 21 + f.pa.toNat * 2 ^ 18 + f.pb.toNat * 2 ^ 15 + f.lut.toNat * 2 ^ 11

/-- The `FmtTile` a word holds; none when a field holds a code that is not assigned. -/
def FmtTile.get (w : Nat) : Option FmtTile := some ⟨bv 2 w 0⟩

/-- The field bits of a `FmtTile`. -/
def FmtTile.put (f : FmtTile) : Nat :=
  f.t.toNat

/-- The `FmtE` a word holds; none when a field holds a code that is not assigned. -/
def FmtE.get (w : Nat) : Option FmtE := some ⟨bv 3 w 21, bv 8 w 13, bv 7 w 6⟩

/-- The field bits of a `FmtE`. -/
def FmtE.put (f : FmtE) : Nat :=
  f.tok.toNat * 2 ^ 21 + f.wm.toNat * 2 ^ 13 + f.a.toNat * 2 ^ 6

/-- The `FmtEm` a word holds; none when a field holds a code that is not assigned. -/
def FmtEm.get (w : Nat) : Option FmtEm := some ⟨bv 3 w 21, bv 8 w 13, bv 7 w 6, bv 4 w 0⟩

/-- The field bits of a `FmtEm`. -/
def FmtEm.put (f : FmtEm) : Nat :=
  f.tok.toNat * 2 ^ 21 + f.wm.toNat * 2 ^ 13 + f.a.toNat * 2 ^ 6 + f.mask.toNat

/-- The `FmtEw` a word holds; none when a field holds a code that is not assigned. -/
def FmtEw.get (w : Nat) : Option FmtEw := some ⟨bv 8 w 13, bv 7 w 6⟩

/-- The field bits of a `FmtEw`. -/
def FmtEw.put (f : FmtEw) : Nat :=
  f.wm.toNat * 2 ^ 13 + f.a.toNat * 2 ^ 6

/-- The `FmtEb` a word holds; none when a field holds a code that is not assigned. -/
def FmtEb.get (w : Nat) : Option FmtEb := some ⟨bv 8 w 13, bv 4 w 0⟩

/-- The field bits of a `FmtEb`. -/
def FmtEb.put (f : FmtEb) : Nat :=
  f.wm.toNat * 2 ^ 13 + f.b.toNat

/-- The `FmtSrd` a word holds; none when a field holds a code that is not assigned. -/
def FmtSrd.get (w : Nat) : Option FmtSrd := some ⟨bv 7 w 17, bv 10 w 0⟩

/-- The field bits of a `FmtSrd`. -/
def FmtSrd.put (f : FmtSrd) : Nat :=
  f.d.toNat * 2 ^ 17 + f.sel.toNat

/-- The `FmtSwr` a word holds; none when a field holds a code that is not assigned. -/
def FmtSwr.get (w : Nat) : Option FmtSwr := some ⟨bv 7 w 10, bv 10 w 0⟩

/-- The field bits of a `FmtSwr`. -/
def FmtSwr.put (f : FmtSwr) : Nat :=
  f.a.toNat * 2 ^ 10 + f.sel.toNat

/-- One row of the opcode map: the bits that must be zero, then the fields (R314, R318). -/
def row (w : Nat) (zeros : List (Nat × Nat)) (g : Option α) (c : α → Instr) : Except Reject Instr :=
  if zeros.all (fun z => natField w z.1 z.2 == 0) then
    match g with
    | some f => .ok (c f)
    | none => .error .badCode
  else .error .nonzeroField

/-- A row without fields. -/
def row0 (w : Nat) (c : Instr) : Except Reject Instr :=
  if natField w 0 24 == 0 then .ok c else .error .nonzeroField

/-- Opcodes 0x00 to 0x0F (R321). -/
def decodeOp0 (lo w : Nat) : Except Reject Instr :=
  match lo with
  | 0 => row0 w .nop
  | 1 => row w [(0, 9)] (FmtPB.get w) .pblk
  | 2 => row w [(22, 2)] (FmtX.get w) .imx
  | 3 => row w [] (FmtB.get w) .bra
  | 4 => row w [] (FmtJ.get w) .jmp
  | 5 => row w [] (FmtJ.get w) .call
  | 6 => row w [(4, 6), (17, 7)] (FmtJmpi.get w) .jmpi
  | 7 => row w [(4, 6)] (FmtCalli.get w) .calli
  | 8 => row w [(4, 20)] (FmtPrio.get w) .setprio
  | 9 => row0 w .exit
  | 10 => row w [(5, 19)] (FmtWinb.get w) .winb
  | 11 => row0 w .yield
  | 12 => row w [(10, 14)] (FmtCode.get w) .brk
  | 13 => row w [(10, 14)] (FmtCode.get w) .trap
  | 14 => row0 w .rft
  | _ => .error .unassigned

/-- Opcodes 0x10 to 0x1F (R321). -/
def decodeOp1 (lo w : Nat) : Except Reject Instr :=
  match lo with
  | 0 => row w [] (FmtR.get w) .iadd
  | 1 => row w [] (FmtR.get w) .isub
  | 2 => row w [] (FmtR.get w) .imul
  | 3 => row w [] (FmtR.get w) .imulh
  | 4 => row w [] (FmtR.get w) .imulhu
  | 5 => row w [] (FmtR.get w) .imad
  | 6 => row w [] (FmtR.get w) .imad64
  | 7 => row w [] (FmtR.get w) .imad64u
  | 8 => row w [] (FmtR.get w) .iadd64
  | 9 => row w [] (FmtR.get w) .isub64
  | 10 => row w [] (FmtR.get w) .idiv
  | 11 => row w [] (FmtR.get w) .idivu
  | 12 => row w [] (FmtR.get w) .irem
  | 13 => row w [] (FmtR.get w) .iremu
  | 14 => row w [] (FmtR.get w) .min
  | 15 => row w [] (FmtR.get w) .max
  | _ => .error .unassigned

/-- Opcodes 0x20 to 0x2F (R321). -/
def decodeOp2 (lo w : Nat) : Except Reject Instr :=
  match lo with
  | 0 => row w [] (FmtR.get w) .minu
  | 1 => row w [] (FmtR.get w) .maxu
  | 2 => row w [(0, 1), (3, 7)] (FmtR1.get w) .abs
  | 3 => row w [] (FmtR.get w) .and
  | 4 => row w [] (FmtR.get w) .or
  | 5 => row w [] (FmtR.get w) .xor
  | 6 => row w [] (FmtR.get w) .andn
  | 7 => row w [] (FmtR.get w) .shl
  | 8 => row w [] (FmtR.get w) .shr
  | 9 => row w [] (FmtR.get w) .sar
  | 10 => row w [] (FmtR.get w) .rotl
  | 11 => row w [(0, 1), (3, 7)] (FmtR1.get w) .popc
  | 12 => row w [(0, 1), (3, 7)] (FmtR1.get w) .clz
  | 13 => row w [(0, 1), (3, 7)] (FmtR1.get w) .brev
  | 14 => row w [] (FmtR.get w) .bfe
  | 15 => row w [] (FmtR.get w) .bfi
  | _ => .error .unassigned

/-- Opcodes 0x30 to 0x3F (R321). -/
def decodeOp3 (lo w : Nat) : Except Reject Instr :=
  match lo with
  | 0 => row w [] (FmtR.get w) .bpick
  | 1 => row w [] (FmtR.get w) .leaX1
  | 2 => row w [] (FmtR.get w) .leaX2
  | 3 => row w [] (FmtR.get w) .leaX4
  | 4 => row w [] (FmtR.get w) .leaX8
  | 5 => row w [] (FmtR.get w) .idot4
  | 6 => row w [] (FmtR.get w) .idot4u
  | 7 => row w [] (FmtCI.get w) .isetp
  | 8 => row w [] (FmtRK.get w) .sel
  | 9 => row w [(0, 1), (3, 7)] (FmtR1.get w) .mov
  | 10 => row w [(10, 7)] (FmtMovi.get w) .movi
  | 11 => row w [] (FmtI.get w) .iaddi
  | 12 => row w [] (FmtI.get w) .andi
  | 13 => row w [] (FmtI.get w) .ori
  | 14 => row w [] (FmtI.get w) .xori
  | 15 => row w [(7, 3)] (FmtSh.get w) .shi
  | _ => .error .unassigned

/-- Opcodes 0x40 to 0x4F (R321). -/
def decodeOp4 (lo w : Nat) : Except Reject Instr :=
  match lo with
  | 0 => row w [] (FmtR.get w) .fadd
  | 1 => row w [] (FmtR.get w) .fsub
  | 2 => row w [] (FmtR.get w) .fmul
  | 3 => row w [] (FmtR.get w) .ffma
  | 4 => row w [] (FmtR.get w) .ffms
  | 5 => row w [] (FmtR.get w) .fnma
  | 6 => row w [] (FmtR.get w) .fmin
  | 7 => row w [] (FmtR.get w) .fmax
  | 8 => row w [(0, 1), (3, 7)] (FmtR1.get w) .fabs
  | 9 => row w [(0, 1), (3, 7)] (FmtR1.get w) .fneg
  | 10 => row w [] (FmtCF.get w) .fsetp
  | 11 => row w [(0, 1), (3, 7)] (FmtR1.get w) .fclass
  | 12 => row w [(0, 1), (5, 5)] (FmtMR.get w) .frnd
  | 13 => row w [] (FmtR.get w) .fdiv
  | 14 => row w [(0, 1), (3, 7)] (FmtR1.get w) .fsqrt
  | 15 => row w [(0, 1), (3, 7)] (FmtR1.get w) .frcp
  | _ => .error .unassigned

/-- Opcodes 0x50 to 0x5F (R321). -/
def decodeOp5 (lo w : Nat) : Except Reject Instr :=
  match lo with
  | 0 => row w [(0, 1), (3, 7)] (FmtR1.get w) .frsq
  | 1 => row w [(0, 1), (3, 7)] (FmtR1.get w) .fex2
  | 2 => row w [(0, 1), (3, 7)] (FmtR1.get w) .flg2
  | 3 => row w [(0, 1), (3, 7)] (FmtR1.get w) .fsin
  | 4 => row w [(0, 1), (3, 7)] (FmtR1.get w) .fcos
  | 5 => row w [(0, 1), (3, 7)] (FmtR1.get w) .ftanh
  | 6 => row w [] (FmtR.get w) .dadd
  | 7 => row w [] (FmtR.get w) .dmul
  | 8 => row w [] (FmtR.get w) .dfma
  | 9 => row w [] (FmtCF.get w) .dsetp
  | 10 => row w [] (FmtR.get w) .hadd2
  | 11 => row w [] (FmtR.get w) .hmul2
  | 12 => row w [] (FmtR.get w) .hfma2
  | 13 => row w [] (FmtR.get w) .badd2
  | 14 => row w [] (FmtR.get w) .bmul2
  | 15 => row w [] (FmtR.get w) .bfma2
  | _ => .error .unassigned

/-- Opcodes 0x60 to 0x6F (R321). -/
def decodeOp6 (lo w : Nat) : Except Reject Instr :=
  match lo with
  | 0 => row w [] (FmtR.get w) .fdot2b
  | 1 => row w [] (FmtR.get w) .fdot2h
  | _ => .error .unassigned

/-- Opcodes 0x80 to 0x8F (R321). -/
def decodeOp8 (lo w : Nat) : Except Reject Instr :=
  match lo with
  | 0 => row w [(0, 1), (7, 3)] (FmtMI.get w) .i2f
  | 1 => row w [(0, 1), (7, 3)] (FmtMI.get w) .f2i
  | 2 => row w [(0, 1), (3, 1)] (FmtMF.get w) .f2f
  | 3 => row w [(0, 1), (6, 4)] (FmtMS.get w) .scl
  | 8 => row w [] (FmtCvtw.get w) .cvtw4
  | 9 => row w [] (FmtCvtw.get w) .cvtw4
  | 10 => row w [] (FmtCvtw.get w) .cvtw4
  | 11 => row w [] (FmtCvtw.get w) .cvtw4
  | _ => .error .unassigned

/-- Opcodes 0x90 to 0x9F (R321). -/
def decodeOp9 (lo w : Nat) : Except Reject Instr :=
  if lo < 16 then row w [] (FmtCvtn.get w) .cvtn4 else .error .unassigned

/-- Opcodes 0xA0 to 0xAF (R321). -/
def decodeOpA (lo w : Nat) : Except Reject Instr :=
  match lo with
  | 0 => row w [] (FmtMem.get w) .ld
  | 1 => row w [] (FmtMem.get w) .st
  | 2 => row w [(0, 2)] (FmtMemL.get w) .lds
  | 3 => row w [(0, 2)] (FmtMemL.get w) .sts
  | 4 => row w [(0, 2)] (FmtMemL.get w) .ldl
  | 5 => row w [(0, 2)] (FmtMemL.get w) .stl
  | 6 => row w [(0, 2), (3, 4)] (FmtLdp.get w) .ldp
  | 7 => row w [(2, 8), (17, 7)] (FmtPrf.get w) .prf
  | 8 => row w [(0, 1), (3, 7), (17, 4)] (FmtCP.get w) .spres
  | 9 => row w [(0, 3), (7, 17)] (FmtFence.get w) .fence
  | 10 =>
    match natField w 17 7 with
    | 0 => row w [(2, 1), (5, 5)] (FmtCctl.get w) .cctlClean
    | 1 => row w [(2, 1), (5, 5)] (FmtCctl.get w) .cctlInval
    | 2 => row w [(2, 1), (5, 12)] (FmtCctlAll.get w) .cctlCleanAll
    | _ => .error .badCode
  | 11 => row w [(0, 1), (3, 7)] (FmtR1.get w) .gpriv
  | 12 => row w [(0, 1), (3, 7)] (FmtR1.get w) .ispace
  | _ => .error .unassigned

/-- Opcodes 0xB0 to 0xBF (R321). -/
def decodeOpB (lo w : Nat) : Except Reject Instr :=
  match lo with
  | 0 => row w [] (FmtAt.get w) .atom
  | 1 => row w [] (FmtAt.get w) .red
  | 2 => row w [] (FmtAt.get w) .atoms
  | 8 => row w [(0, 1), (3, 7)] (FmtR1.get w) .hopen
  | 9 => row w [(0, 1), (3, 7), (17, 7)] (FmtSrc.get w) .hset
  | 10 => row w [(0, 2), (3, 14)] (FmtDst.get w) .hget
  | 11 => row w [(0, 1), (3, 7)] (FmtR1.get w) .hconf
  | 12 => row w [(0, 1), (3, 7)] (FmtR1.get w) .href
  | 13 => row w [(0, 1), (3, 7)] (FmtR1.get w) .hstat
  | _ => .error .unassigned

/-- Opcodes 0xC0 to 0xCF (R321). -/
def decodeOpC (lo w : Nat) : Except Reject Instr :=
  match lo with
  | 0 => row w [(4, 20)] (FmtBar.get w) .bar
  | 1 => row w [(4, 20)] (FmtBar.get w) .bara
  | 2 => row w [(4, 20)] (FmtBar.get w) .barw
  | 3 => row w [] (FmtR.get w) .waitc
  | 4 => if bit w 9 then row w [(2, 7), (17, 7)] (FmtStgR.get w) .stgwReg
    else row w [(7, 2), (10, 14)] (FmtStgw.get w) .stgwImm
  | 5 => if bit w 9 then row w [(2, 7), (17, 7)] (FmtStgR.get w) .stgaReg
    else row w [(6, 3), (10, 14)] (FmtStga.get w) .stgaImm
  | 6 => row w [(0, 1), (3, 7), (17, 4)] (FmtCP.get w) .ftest
  | 7 => row w [(0, 1), (3, 7), (17, 7)] (FmtSrc.get w) .fcan
  | 8 => row w [(0, 1), (3, 7)] (FmtR1.get w) .fwait
  | 9 => row w [(0, 2), (3, 3), (10, 7)] (FmtQd.get w) .elect
  | 10 => row w [(0, 17)] (FmtD.get w) .time
  | 11 => row w [(0, 17)] (FmtD.get w) .clk
  | 12 => row w [(0, 1), (3, 7)] (FmtR1.get w) .fid
  | _ => .error .unassigned

/-- Opcodes 0xD0 to 0xDF (R321). -/
def decodeOpD (lo w : Nat) : Except Reject Instr :=
  match lo with
  | 0 => row w [(0, 2), (3, 3), (10, 14)] (FmtQm.get w) .mjoin
  | 1 => row w [(0, 2), (3, 3), (10, 14)] (FmtQm.get w) .mleave
  | 2 => row w [(0, 2), (3, 3), (10, 14)] (FmtQm.get w) .mwait
  | 3 => row w [(0, 2), (3, 3), (10, 7)] (FmtQd.get w) .mld
  | 4 => row w [(0, 2), (3, 3), (17, 7)] (FmtQa.get w) .mst
  | 5 => row w [(0, 2), (3, 3), (10, 14)] (FmtQm.get w) .mact
  | 6 => row w [(0, 2)] (FmtQswp.get w) .qswp
  | 7 => row w [(0, 2), (5, 1)] (FmtQbc.get w) .qbc
  | 8 => row w [(0, 2), (3, 14)] (FmtDst.get w) .qhlp
  | 9 => row w [(0, 2), (3, 3)] (FmtQ.get w) .wshfl
  | 10 => row w [(0, 2)] (FmtVote.get w) .wvote
  | 11 => row w [(0, 2)] (FmtRed.get w) .wred
  | 12 => row w [(0, 2)] (FmtRed.get w) .wscan
  | 13 => row w [(0, 11)] (FmtP.get w) .pset
  | 14 => row w [(0, 1), (3, 7), (17, 7)] (FmtSrc.get w) .pld
  | 15 => row w [(0, 2), (3, 14)] (FmtDst.get w) .pst
  | _ => .error .unassigned

/-- Opcodes 0xE0 to 0xEF (R321). -/
def decodeOpE (lo w : Nat) : Except Reject Instr :=
  match lo with
  | 0 => row w [(0, 1), (3, 7)] (FmtR1.get w) .mma
  | 1 => row w [(0, 1), (3, 7)] (FmtR1.get w) .mmap
  | 2 => row w [(0, 1), (3, 7)] (FmtR1.get w) .tld
  | 3 => row w [(0, 1), (3, 7)] (FmtR1.get w) .tst
  | 4 => row w [(2, 22)] (FmtTile.get w) .tzero
  | 5 => row w [(2, 22)] (FmtTile.get w) .tfree
  | 8 => row w [(0, 6)] (FmtE.get w) .cpy
  | 9 => row w [(0, 6)] (FmtE.get w) .cpyt
  | 10 => row w [(4, 2)] (FmtEm.get w) .cpym
  | 11 => row w [(0, 6)] (FmtE.get w) .lxf
  | 12 => if bit w 5 then
      if bit w 4 then row w [(6, 7), (21, 3)] (FmtEb.get w) .tkwBarw else row w [(6, 7), (21, 3)] (FmtEb.get w) .tkwBar
    else row w [(0, 5), (21, 3)] (FmtEw.get w) .tkw
  | 13 => if bit w 5 then row w [(4, 1), (6, 7), (21, 3)] (FmtEb.get w) .tktBar else row w [(0, 5), (21, 3)] (FmtEw.get w) .tkt
  | 14 => row w [(0, 6), (21, 3)] (FmtEw.get w) .spclr
  | 15 => row w [(0, 6), (21, 3)] (FmtEw.get w) .spset
  | _ => .error .unassigned

/-- Opcodes 0xF0 to 0xFF (R321). -/
def decodeOpF (lo w : Nat) : Except Reject Instr :=
  match lo with
  | 0 => row w [(10, 7)] (FmtSrd.get w) .srd
  | 1 => row w [(17, 7)] (FmtSwr.get w) .swr
  | _ => .error .unassigned

/-- The opcode map by the high digit of the opcode (R321); every other opcode is unassigned. -/
def decodeFields (w : Nat) : Except Reject Instr :=
  match natField w 28 4 with
  | 0 => decodeOp0 (natField w 24 4) w
  | 1 => decodeOp1 (natField w 24 4) w
  | 2 => decodeOp2 (natField w 24 4) w
  | 3 => decodeOp3 (natField w 24 4) w
  | 4 => decodeOp4 (natField w 24 4) w
  | 5 => decodeOp5 (natField w 24 4) w
  | 6 => decodeOp6 (natField w 24 4) w
  | 8 => decodeOp8 (natField w 24 4) w
  | 9 => decodeOp9 (natField w 24 4) w
  | 10 => decodeOpA (natField w 24 4) w
  | 11 => decodeOpB (natField w 24 4) w
  | 12 => decodeOpC (natField w 24 4) w
  | 13 => decodeOpD (natField w 24 4) w
  | 14 => decodeOpE (natField w 24 4) w
  | 15 => decodeOpF (natField w 24 4) w
  | _ => .error .unassigned

/-- The instruction a word holds, or why it is none (R318). -/
def decode (w : Nat) : Except Reject Instr :=
  match decodeFields w with
  | .error r => .error r
  | .ok i => if i.wellFormed then .ok i else .error .forbidden

/-- The number of a little-endian list of bytes (R3). -/
def leNat : List Byte → Nat
  | [] => 0
  | b :: bs => b.toNat + 256 * leNat bs

/-- `n` little-endian bytes of a number (R3). -/
def leBytes : Nat → Nat → List Byte
  | 0, _ => []
  | n + 1, w => BitVec.ofNat 8 w :: leBytes n (w / 256)

/-- Decoding bytes: the first four, little-endian (R3, R315), and the rest. -/
def decodeBytes : List Byte → Except Reject (Instr × List Byte)
  | b0 :: b1 :: b2 :: b3 :: rest =>
    match decode (leNat [b0, b1, b2, b3]) with
    | .ok i => .ok (i, rest)
    | .error r => .error r
  | _ => .error .short

/-- The instruction the decoder reads from a word numbered as the opcode table numbers it. -/
def decodeTableWord (nbits w : Nat) : Option Instr :=
  if nbits = 32 then
    match decodeBytes (leBytes 4 w) with
    | .ok (i, _) => some i
    | .error _ => none
  else none

/-- The word of an instruction; none for a step of the device, which has no word. -/
def encode : Instr → Option Nat
  | .nop => some 0x00000000
  | .pblk f => some (0x01000000 + f.put)
  | .imx f => some (0x02000000 + f.put)
  | .bra f => some (0x03000000 + f.put)
  | .jmp f => some (0x04000000 + f.put)
  | .call f => some (0x05000000 + f.put)
  | .jmpi f => some (0x06000000 + f.put)
  | .calli f => some (0x07000000 + f.put)
  | .setprio f => some (0x08000000 + f.put)
  | .exit => some 0x09000000
  | .winb f => some (0x0A000000 + f.put)
  | .yield => some 0x0B000000
  | .brk f => some (0x0C000000 + f.put)
  | .trap f => some (0x0D000000 + f.put)
  | .rft => some 0x0E000000
  | .iadd f => some (0x10000000 + f.put)
  | .isub f => some (0x11000000 + f.put)
  | .imul f => some (0x12000000 + f.put)
  | .imulh f => some (0x13000000 + f.put)
  | .imulhu f => some (0x14000000 + f.put)
  | .imad f => some (0x15000000 + f.put)
  | .imad64 f => some (0x16000000 + f.put)
  | .imad64u f => some (0x17000000 + f.put)
  | .iadd64 f => some (0x18000000 + f.put)
  | .isub64 f => some (0x19000000 + f.put)
  | .idiv f => some (0x1A000000 + f.put)
  | .idivu f => some (0x1B000000 + f.put)
  | .irem f => some (0x1C000000 + f.put)
  | .iremu f => some (0x1D000000 + f.put)
  | .min f => some (0x1E000000 + f.put)
  | .max f => some (0x1F000000 + f.put)
  | .minu f => some (0x20000000 + f.put)
  | .maxu f => some (0x21000000 + f.put)
  | .abs f => some (0x22000000 + f.put)
  | .and f => some (0x23000000 + f.put)
  | .or f => some (0x24000000 + f.put)
  | .xor f => some (0x25000000 + f.put)
  | .andn f => some (0x26000000 + f.put)
  | .shl f => some (0x27000000 + f.put)
  | .shr f => some (0x28000000 + f.put)
  | .sar f => some (0x29000000 + f.put)
  | .rotl f => some (0x2A000000 + f.put)
  | .popc f => some (0x2B000000 + f.put)
  | .clz f => some (0x2C000000 + f.put)
  | .brev f => some (0x2D000000 + f.put)
  | .bfe f => some (0x2E000000 + f.put)
  | .bfi f => some (0x2F000000 + f.put)
  | .bpick f => some (0x30000000 + f.put)
  | .leaX1 f => some (0x31000000 + f.put)
  | .leaX2 f => some (0x32000000 + f.put)
  | .leaX4 f => some (0x33000000 + f.put)
  | .leaX8 f => some (0x34000000 + f.put)
  | .idot4 f => some (0x35000000 + f.put)
  | .idot4u f => some (0x36000000 + f.put)
  | .isetp f => some (0x37000000 + f.put)
  | .sel f => some (0x38000000 + f.put)
  | .mov f => some (0x39000000 + f.put)
  | .movi f => some (0x3A000000 + f.put)
  | .iaddi f => some (0x3B000000 + f.put)
  | .andi f => some (0x3C000000 + f.put)
  | .ori f => some (0x3D000000 + f.put)
  | .xori f => some (0x3E000000 + f.put)
  | .shi f => some (0x3F000000 + f.put)
  | .fadd f => some (0x40000000 + f.put)
  | .fsub f => some (0x41000000 + f.put)
  | .fmul f => some (0x42000000 + f.put)
  | .ffma f => some (0x43000000 + f.put)
  | .ffms f => some (0x44000000 + f.put)
  | .fnma f => some (0x45000000 + f.put)
  | .fmin f => some (0x46000000 + f.put)
  | .fmax f => some (0x47000000 + f.put)
  | .fabs f => some (0x48000000 + f.put)
  | .fneg f => some (0x49000000 + f.put)
  | .fsetp f => some (0x4A000000 + f.put)
  | .fclass f => some (0x4B000000 + f.put)
  | .frnd f => some (0x4C000000 + f.put)
  | .fdiv f => some (0x4D000000 + f.put)
  | .fsqrt f => some (0x4E000000 + f.put)
  | .frcp f => some (0x4F000000 + f.put)
  | .frsq f => some (0x50000000 + f.put)
  | .fex2 f => some (0x51000000 + f.put)
  | .flg2 f => some (0x52000000 + f.put)
  | .fsin f => some (0x53000000 + f.put)
  | .fcos f => some (0x54000000 + f.put)
  | .ftanh f => some (0x55000000 + f.put)
  | .dadd f => some (0x56000000 + f.put)
  | .dmul f => some (0x57000000 + f.put)
  | .dfma f => some (0x58000000 + f.put)
  | .dsetp f => some (0x59000000 + f.put)
  | .hadd2 f => some (0x5A000000 + f.put)
  | .hmul2 f => some (0x5B000000 + f.put)
  | .hfma2 f => some (0x5C000000 + f.put)
  | .badd2 f => some (0x5D000000 + f.put)
  | .bmul2 f => some (0x5E000000 + f.put)
  | .bfma2 f => some (0x5F000000 + f.put)
  | .fdot2b f => some (0x60000000 + f.put)
  | .fdot2h f => some (0x61000000 + f.put)
  | .i2f f => some (0x80000000 + f.put)
  | .f2i f => some (0x81000000 + f.put)
  | .f2f f => some (0x82000000 + f.put)
  | .scl f => some (0x83000000 + f.put)
  | .cvtw4 f => some (0x88000000 + f.put)
  | .cvtn4 f => some (0x90000000 + f.put)
  | .ld f => some (0xA0000000 + f.put)
  | .st f => some (0xA1000000 + f.put)
  | .lds f => some (0xA2000000 + f.put)
  | .sts f => some (0xA3000000 + f.put)
  | .ldl f => some (0xA4000000 + f.put)
  | .stl f => some (0xA5000000 + f.put)
  | .ldp f => some (0xA6000000 + f.put)
  | .prf f => some (0xA7000000 + f.put)
  | .spres f => some (0xA8000000 + f.put)
  | .fence f => some (0xA9000000 + f.put)
  | .cctlClean f => some (0xAA000000 + f.put)
  | .cctlInval f => some (0xAA020000 + f.put)
  | .cctlCleanAll f => some (0xAA040000 + f.put)
  | .gpriv f => some (0xAB000000 + f.put)
  | .ispace f => some (0xAC000000 + f.put)
  | .atom f => some (0xB0000000 + f.put)
  | .red f => some (0xB1000000 + f.put)
  | .atoms f => some (0xB2000000 + f.put)
  | .hopen f => some (0xB8000000 + f.put)
  | .hset f => some (0xB9000000 + f.put)
  | .hget f => some (0xBA000000 + f.put)
  | .hconf f => some (0xBB000000 + f.put)
  | .href f => some (0xBC000000 + f.put)
  | .hstat f => some (0xBD000000 + f.put)
  | .bar f => some (0xC0000000 + f.put)
  | .bara f => some (0xC1000000 + f.put)
  | .barw f => some (0xC2000000 + f.put)
  | .waitc f => some (0xC3000000 + f.put)
  | .stgwImm f => some (0xC4000000 + f.put)
  | .stgwReg f => some (0xC4000200 + f.put)
  | .stgaImm f => some (0xC5000000 + f.put)
  | .stgaReg f => some (0xC5000200 + f.put)
  | .ftest f => some (0xC6000000 + f.put)
  | .fcan f => some (0xC7000000 + f.put)
  | .fwait f => some (0xC8000000 + f.put)
  | .elect f => some (0xC9000000 + f.put)
  | .time f => some (0xCA000000 + f.put)
  | .clk f => some (0xCB000000 + f.put)
  | .fid f => some (0xCC000000 + f.put)
  | .mjoin f => some (0xD0000000 + f.put)
  | .mleave f => some (0xD1000000 + f.put)
  | .mwait f => some (0xD2000000 + f.put)
  | .mld f => some (0xD3000000 + f.put)
  | .mst f => some (0xD4000000 + f.put)
  | .mact f => some (0xD5000000 + f.put)
  | .qswp f => some (0xD6000000 + f.put)
  | .qbc f => some (0xD7000000 + f.put)
  | .qhlp f => some (0xD8000000 + f.put)
  | .wshfl f => some (0xD9000000 + f.put)
  | .wvote f => some (0xDA000000 + f.put)
  | .wred f => some (0xDB000000 + f.put)
  | .wscan f => some (0xDC000000 + f.put)
  | .pset f => some (0xDD000000 + f.put)
  | .pld f => some (0xDE000000 + f.put)
  | .pst f => some (0xDF000000 + f.put)
  | .mma f => some (0xE0000000 + f.put)
  | .mmap f => some (0xE1000000 + f.put)
  | .tld f => some (0xE2000000 + f.put)
  | .tst f => some (0xE3000000 + f.put)
  | .tzero f => some (0xE4000000 + f.put)
  | .tfree f => some (0xE5000000 + f.put)
  | .cpy f => some (0xE8000000 + f.put)
  | .cpyt f => some (0xE9000000 + f.put)
  | .cpym f => some (0xEA000000 + f.put)
  | .lxf f => some (0xEB000000 + f.put)
  | .tkw f => some (0xEC000000 + f.put)
  | .tkwBar f => some (0xEC000020 + f.put)
  | .tkwBarw f => some (0xEC000030 + f.put)
  | .tkt f => some (0xED000000 + f.put)
  | .tktBar f => some (0xED000020 + f.put)
  | .spclr f => some (0xEE000000 + f.put)
  | .spset f => some (0xEF000000 + f.put)
  | .srd f => some (0xF0000000 + f.put)
  | .swr f => some (0xF1000000 + f.put)
  | .coldReset _ => none
  | .bootStepFailure _ => none
  | .hartStart _ _ _ => none
  | .inputVoltageFault => none
  | .controllerLockstepMismatch => none
  | .sensorPoll _ => none
  | .pldmMonitoringRequest _ => none
  | .pldmFirmwareUpdate _ => none
  | .pldmFreeze => none
  | .pldmUnfreeze _ => none
  | .pldmColdResetRequest => none
  | .getVersion => none
  | .getCapabilities => none
  | .negotiateAlgorithms _ _ => none
  | .getDigests => none
  | .getCertificate _ _ => none
  | .challenge _ => none
  | .getMeasurements _ => none
  | .ptpMessage _ _ _ => none
  | .flitReceive _ _ _ => none
  | .retryRequest _ _ => none
  | .linkRetrainComplete _ => none
  | .linkDown _ => none
  | .peerUnreach _ => none
  | .tlbinv _ _ _ => none
  | .qreg _ _ => none
  | .qunreg _ _ => none
  | .faultack _ _ _ => none
  | .partinfo _ => none
  | .plugload _ _ _ _ => none
  | .ckpt _ _ => none
  | .checkpointComplete _ _ _ => none
  | .restore _ _ _ _ _ => none
  | .pluginBudgetExpiry _ => none
  | .repartition _ _ _ => none
  | .partAllotWrite _ _ => none
  | .coreInjWrite _ _ => none
  | .registerWrite _ _ => none
  | .meterUpdate _ _ => none
  | .boostBoundary _ => none
  | .permitRefill _ => none
  | .ratioSwitchComplete _ => none
  | .droopAlarm _ => none
  | .droopSpanEnd _ => none
  | .releaseWave _ => none
  | .idleEntry _ => none
  | .idleExit _ => none
  | .hbmThermalStage _ _ => none
  | .notify _ _ _ => none
  | .launch _ _ _ => none
  | .launchComplete _ => none
  | .signalCmd _ _ => none
  | .waitCmd _ _ => none
  | .waitReevaluate _ _ => none
  | .waitTimeout _ _ => none
  | .setGate _ _ => none
  | .clearGate _ _ => none
  | .setCycle _ _ => none
  | .tableBoundary _ => none
  | .unknownOpCommand _ _ => none
  | .queueFence _ _ => none
  | .exportCmd _ _ => none
  | .importCmd _ _ _ => none
  | .irqTimeExpiry _ _ => none
  | .gateInstanceStart _ _ => none
  | .gateInstanceComplete _ _ => none
  | .deadlineMiss _ _ _ => none
  | .teamPlace _ => none
  | .placementReservation _ => none
  | .teamPark _ => none
  | .teamWake _ => none
  | .preemptRequest _ _ => none
  | .drainTimeout _ => none
  | .saveComplete _ => none
  | .teamLeave _ => none
  | .check _ _ _ _ _ _ => none
  | .coreSelfTest _ _ => none
  | .strikeReport _ _ => none
  | .holdRelease _ => none
  | .undoLogRetire _ => none
  | .dualcoreMismatch _ _ _ _ => none
  | .eccCorrected _ _ _ => none
  | .cbfClear => none
  | .eccUncorrectable _ _ _ _ => none
  | .tagError _ => none
  | .partitionTeardown _ _ => none
  | .kBlockComplete _ _ => none
  | .matrixOpStart _ => none
  | .pairWatchdog _ => none
  | .layoutCommandStart _ => none
  | .copyComplete _ => none
  | .lineLand _ _ => none
  | .loadFill _ => none
  | .atomicReturn _ => none
  | .publishTimeout _ => none
  | .faultEntry _ _ _ => none
  | .pageFaultRepost _ _ => none
  | .resolvePoint _ => none
  | .resolveComplete _ => none
  | .orphanTrap _ _ _ => none
  | .barrierWatchdog _ _ => none
  | .waitcEvaluate _ => none
  | .waitcTimeout _ => none
  | .functionLevelReset _ => none
  | .destinationLineWrite _ _ => none
  | .applicationCoreAccess _ _ => none

end Sys2Proof
end

