-- ==== Sys2Proof/Machine/Access.lean ====
section
/-! DEFINITION. Access to the parts of the state by key, and the plain updates of them. -/
namespace Sys2Proof.Machine

def State.team? (s : State) (k : Nat) : Option Team := findKey Team.key k s.teams
def State.grid? (s : State) (k : Nat) : Option Grid := findKey Grid.key k s.grids
def State.ctx (s : State) (n : Nat) : Ctx := (findKey Ctx.num n s.ctxs).getD { num := n, vf := 0 }
def State.core (s : State) (n : Nat) : Core := (findKey Core.num n s.cores).getD { num := n }
def State.cluster (s : State) (n : Nat) : Cluster := (findKey Cluster.num n s.clusters).getD { num := n }
def State.part (s : State) (n : Nat) : Part := (findKey Part.num n s.parts).getD { num := n }
def State.vf (s : State) (n : Nat) : Vf := (findKey Vf.num n s.vfs).getD { num := n }
def State.queue? (s : State) (vf q : Nat) : Option Queue := s.queues.find? fun x => x.vf == vf && x.num == q

def State.updTeam (s : State) (k : Nat) (f : Team → Team) : State := { s with teams := updKey Team.key k f s.teams }
def State.updGrid (s : State) (k : Nat) (f : Grid → Grid) : State := { s with grids := updKey Grid.key k f s.grids }
def State.updCtx (s : State) (n : Nat) (f : Ctx → Ctx) : State :=
  { s with ctxs := updOr Ctx.num n { num := n, vf := 0 } f s.ctxs }
def State.updCore (s : State) (n : Nat) (f : Core → Core) : State :=
  { s with cores := updOr Core.num n { num := n } f s.cores }
def State.updCluster (s : State) (n : Nat) (f : Cluster → Cluster) : State :=
  { s with clusters := updOr Cluster.num n { num := n } f s.clusters }
def State.updPart (s : State) (n : Nat) (f : Part → Part) : State :=
  { s with parts := updOr Part.num n { num := n } f s.parts }
def State.updVf (s : State) (n : Nat) (f : Vf → Vf) : State := { s with vfs := updOr Vf.num n { num := n } f s.vfs }
def State.updQueue (s : State) (vf q : Nat) (f : Queue → Queue) : State :=
  { s with queues := s.queues.map fun x => if x.vf = vf ∧ x.num = q then f x else x }

/-- A fresh key. -/
def State.takeKey (s : State) : State := { s with nextKey := s.nextKey + 1 }
/-- The counter of free values moves on (log 7). -/
def State.takeNonce (s : State) : State := { s with nonce := s.nonce + 1 }
/-- Several free values are used (log 7). -/
def State.takeNonces (s : State) (n : Nat) : State := { s with nonce := s.nonce + n }
/-- Something leaves the device. -/
def State.emit (s : State) (o : Out) : State := { s with outbox := o :: s.outbox }

/-- The core a team stands on (the lower one under DUALCORE). -/
def Team.core? (t : Team) : Option Nat :=
  match t.place with
  | .on c _ => some c
  | _ => none

/-- The cores that log a commit: both of a DUALCORE pair (R114). -/
def Team.cores (t : Team) : List Nat :=
  match t.place with
  | .on c (some u) => [c, u]
  | .on c none => [c]
  | _ => []

def Team.warpAt (t : Team) (w : Nat) : Option Warp := findKey Warp.id w t.warps
def Team.updWarp (t : Team) (w : Nat) (f : Warp → Warp) : Team := { t with warps := updKey Warp.id w f t.warps }
def Warp.lane (w : Warp) (l : Nat) : Lane := (w.lanes[l]?).getD {}
def Warp.updLane (w : Warp) (l : Nat) (f : Lane → Lane) : Warp := { w with lanes := updAt w.lanes l f }

/-- An update of the lanes named in a list. -/
def mapLanes (ls : List Nat) (f : Nat → Lane → Lane) : Nat → List Lane → List Lane
  | _, [] => []
  | i, x :: xs => (if ls.contains i then f i x else x) :: mapLanes ls f (i + 1) xs

/-- An update of several lanes of a warp. -/
def Warp.updLanes (w : Warp) (ls : List Nat) (f : Nat → Lane → Lane) : Warp := { w with lanes := mapLanes ls f 0 w.lanes }

/-- A row of a lane's registers (R308, R309). -/
def Lane.cell (l : Lane) (row : Nat) : Cell := sget {} l.regs row
/-- The value of a row. -/
def Lane.reg (l : Lane) (row : Nat) : Word := (l.cell row).val
/-- A row written: its value, full (R330). -/
def Lane.setCell (l : Lane) (row : Nat) (c : Cell) : Lane := { l with regs := sset {} l.regs row c }
/-- WriteV of one word (R330). -/
def Lane.setReg (l : Lane) (row : Nat) (v : Word) : Lane := l.setCell row { val := v }
/-- SetEmpty (R311, R330): the value stays, the register is empty. -/
def Lane.setEmpty (l : Lane) (row : Nat) (p : Producer) : Lane := l.setCell row { val := l.reg row, fill := .empty p }
/-- Flags ORed into FSTAT (R292). -/
def Lane.orFlags (l : Lane) (f : BitVec 5) : Lane := { l with fstat := l.fstat ||| f }
/-- Pred(p): p7 is true (R308). -/
def Lane.pred (l : Lane) (p : BitVec 3) : Bool := if p = 7 then true else l.preds.getLsbD p.toNat
/-- A predicate written; a write to p7 is discarded (R308). -/
def Lane.setPred (l : Lane) (p : BitVec 3) (v : Bool) : Lane :=
  if p = 7 then l
  else { l with preds := if v then l.preds ||| ((1 : BitVec 7) <<< p.toNat) else l.preds &&& ~~~((1 : BitVec 7) <<< p.toNat) }

/-- A saturating increment (R123). -/
def satInc (w : Word) : Word := if w = 0xFFFFFFFF then w else w + 1

end Sys2Proof.Machine
end

