-- ==== Sys2Proof/Machine/Operands.lean ====
section
/-! DEFINITION. Who issues an instruction, which registers it names, and the tests before it acts:
the frontier (R185 to R188), the role's instruction set (R323), the register window and alignment
(R309, R310), full/empty bits (R311, R312). -/
namespace Sys2Proof.Machine

/-! ## The frontier -/

/-- A lane that stands in its quad's frontier and is ready (R185, R186). -/
def Lane.ready (l : Lane) : Bool := l.life == .live && l.wait == .none

/-- Whether the first pair ranks before the second: higher priority, then lower PC (R186). -/
def pairBefore (p q : BitVec 4 × Word) : Bool :=
  decide (q.1 < p.1) || (p.1 == q.1 && decide (p.2 < q.2))

/-- The pair of a lane. -/
def Lane.pair (l : Lane) : BitVec 4 × Word := (l.prio, l.pc)

/-- The better of an optional pair and a pair. -/
def bestPair (o : Option (BitVec 4 × Word)) (p : BitVec 4 × Word) : Option (BitVec 4 × Word) :=
  match o with
  | none => some p
  | some q => if pairBefore p q then some p else some q

/-- The top entry of quad `q`: the first pair of its ready lanes (R186). -/
def Warp.topOf (w : Warp) (q : Nat) : Option (BitVec 4 × Word) :=
  [4 * q, 4 * q + 1, 4 * q + 2, 4 * q + 3].foldl
    (fun o i => match w.lanes[i]? with
      | some l => if l.ready then bestPair o l.pair else o
      | none => o) none

/-- The ready lanes of quad `q` at a pair. -/
def Warp.quadAt (w : Warp) (q : Nat) (p : BitVec 4 × Word) : List Nat :=
  [4 * q, 4 * q + 1, 4 * q + 2, 4 * q + 3].filter fun i =>
    match w.lanes[i]? with
    | some l => l.ready && l.pair == p
    | none => false

/-- The quads of a warp. -/
def quads : List Nat := List.range 8

/-- The selected pair by R186. -/
def Warp.topPair (w : Warp) : Option (BitVec 4 × Word) :=
  quads.foldl (fun o q => match w.topOf q with
    | some p => bestPair o p
    | none => o) none

/-- The lanes that gang at a pair: of every quad whose top entry equals it (R186). -/
def Warp.gang (w : Warp) (p : BitVec 4 × Word) : List Nat :=
  quads.flatMap fun q => if w.topOf q = some p then w.quadAt q p else []

/-- The head of the promotion queue whose lanes are ready (R188). -/
def Warp.promoted (w : Warp) : Option Promo :=
  w.promo.find? fun p => p.lanes.any fun i => (w.lane i).ready

/-- The non-helper lanes of the frontier entry that issues next (R186, R188). -/
def Warp.entry (w : Warp) : List Nat :=
  match w.promoted with
  | some p =>
    match p.lanes.find? (fun i => (w.lane i).ready) with
    | some i =>
      let pr := (w.lane i).pair
      let own := w.quadAt (i / 4) pr
      let g := w.gang pr
      (List.range 32).filter fun j => own.contains j || g.contains j
    | none => []
  | none =>
    match w.topPair with
    | some p => w.gang p
    | none => []

/-- Whether the next instruction is active in the lane under its predicate block (R317). -/
def Lane.guard (l : Lane) : Bool := l.blk.left == 0 || (l.blk.pat.getLsbD 0 == l.blk.c)

/-! ## The issue -/

/-- The warp instruction that issues: its team, grid, warp and core, the lanes of its frontier entry,
those active under their predicate blocks, and the helper lanes that run with them (R331, R334). -/
structure Iss where
  team : Team
  grid : Grid
  warp : Warp
  core : Nat
  entry : List Nat
  act : List Nat
  helpers : List Nat
  deriving DecidableEq, Repr

/-- The helper lanes of quads with an active lane (R334). -/
def Warp.helpersOf (w : Warp) (act : List Nat) : List Nat :=
  (List.range 32).filter fun i =>
    (match w.lanes[i]? with
      | some l => l.life == .helper
      | none => false) && act.any fun j => j / 4 == i / 4

/-- A team being saved issues nothing more (R197). -/
def Leaving.saving : Leaving → Bool
  | .save _ => true
  | _ => false

/-- Whether a matrix operation that a warp has issued waits in place for room among the engine's eight (R227). -/
def State.matHolds (s : State) (t : Team) (w : Warp) : Bool :=
  t.cores.any fun c => ((s.core c).matq.drop 8).any fun o => o.team == t.key && o.warp == w.id

/-- The issue of a team's warp; none for a team being saved, for a warp that waits for its wave and for one held by an
operation without room in the matrix engine's queue (R97, R197, R227). -/
def issueOf (s : State) (t : Team) (w : Warp) : Option Iss :=
  match t.core?, s.grid? t.grid with
  | some c, some g =>
    if w.held || t.leaving.saving || s.matHolds t w then none
    else match w.entry with
    | [] => none
    | e =>
      let act := e.filter fun i => (w.lane i).guard
      some { team := t, grid := g, warp := w, core := c, entry := e, act := act, helpers := w.helpersOf act }
  | _, _ => none

/-- The issue the machine checks next: that of the selected warp (log 2). -/
def State.issue (s : State) : Option Iss :=
  match s.sel with
  | none => none
  | some (k, w) =>
    match s.team? k with
    | none => none
    | some t =>
      match t.warpAt w with
      | none => none
      | some w => issueOf s t w

/-- Active lanes and helper lanes in lane order. -/
def Iss.active (i : Iss) : List Nat := (List.range 32).filter fun l => i.act.contains l || i.helpers.contains l
/-- The PC of the issuing entry. -/
def Iss.pc (i : Iss) : Word :=
  match i.entry with
  | l :: _ => (i.warp.lane l).pc
  | [] => 0
/-- Whether a movement context issues. -/
def Iss.movement (i : Iss) : Bool := i.warp.role == .movement
/-- The rows per lane of the role's allotment; 64 x registers on the movement sequencer (R309, R314). -/
def Iss.allot (i : Iss) : Nat :=
  match i.warp.role with
  | .vector => i.grid.record.regsVec
  | .matrix => i.grid.record.regsMat
  | .movement => 64
/-- The row a register number names (R309). -/
def Iss.row (i : Iss) (r : Nat) : Nat := if i.movement then r else 16 * i.warp.winBase.toNat + r
/-- The lowest active non-helper lane: the lane a trap names (R454). -/
def Iss.lead (i : Iss) : Nat := (i.act.head?).getD 0
/-- The HCUR a lane's access carries: a helper reads with that of its quad's lowest active lane (R334). -/
def Iss.tag (i : Iss) (l : Nat) : Nat :=
  if i.helpers.contains l then
    match i.act.find? (fun j => j / 4 == l / 4) with
    | some j => (i.warp.lane j).hcur.toNat
    | none => 0
  else (i.warp.lane l).hcur.toNat

/-! ## Traps -/

/-- A trap as it is reported (R320, R454, R455). -/
structure Trap where
  cause : Nat
  info : Word
  addr : Nat := 0
  lane : Nat
  deriving DecidableEq, Repr

def causeILL : Nat := 0x01
def causeALN : Nat := 0x02
def causePAGE : Nat := 0x03
def causePROT : Nat := 0x04
def causeSCRB : Nat := 0x05
def causeWIN : Nat := 0x06
def causeEMPTY : Nat := 0x07
def causeOVF : Nat := 0x08
def causeHORPH : Nat := 0x09
def causeHFULL : Nat := 0x0A
def causeBRK : Nat := 0x0B
def causeTRAP : Nat := 0x0C
def causeMMAF : Nat := 0x0D
def causeCHKH : Nat := 0x0F
def causeECCU : Nat := 0x10
def causeBARTMO : Nat := 0x11
def causeDESC : Nat := 0x12
def causePARTRESET : Nat := 0x20

/-- ILL with the illegal word (R318). -/
def ill (i : Iss) (w : Word) : Trap := { cause := causeILL, info := w, lane := i.lead }

/-- What the tests of an instruction decide. -/
inductive Verdict (α : Type) where
  | go (a : α)
  | trap (t : Trap)
  /-- the instruction waits in place: the lanes are marked and it has no effect (R312) -/
  | wait
  /-- the instruction cannot commit yet (a full undo log or outbound hold): nothing changes (R213, R214) -/
  | stall
  deriving Repr

/-! ## Registers named -/

/-- A use of registers: the first register number, how many in a row, read, written. -/
structure Use where
  r : Nat
  n : Nat := 1
  src : Bool := true
  dst : Bool := false
  /-- read without waiting and without traps (FID, FTEST; R312) -/
  peek : Bool := false
  deriving DecidableEq, Repr

/-- A source of one register. -/
def srcU (r : RegNo) : Use := { r := r.toNat }
/-- A destination of one register. -/
def dstU (r : RegNo) : Use := { r := r.toNat, src := false, dst := true }
/-- A source of `n` registers. -/
def srcN (r : RegNo) (n : Nat) : Use := { r := r.toNat, n := n }
/-- A destination of `n` registers. -/
def dstN (r : RegNo) (n : Nat) : Use := { r := r.toNat, n := n, src := false, dst := true }
/-- A register read and written. -/
def rwU (r : RegNo) : Use := { r := r.toNat, dst := true }

/-- A register looked at without waiting (R312). -/
def peekU (r : RegNo) : Use := { r := r.toNat, src := false, peek := true }

/-- Registers read by an instruction that raises no MMAF (R387). -/
def lookN (r : RegNo) (n : Nat) : Use := { r := r.toNat, n := n, src := false }

/-- The registers of a use. -/
def Use.regs (u : Use) : List Nat := (List.range u.n).map (u.r + ·)

/-- A pair at an odd number, a quad or a group at a wrong one, or an x register at 64 or above (R310, R314). -/
def Use.misplaced (i : Iss) (u : Use) : Bool := u.r % u.n != 0 || (i.movement && decide (64 < u.r + u.n))

/-- A row at or beyond the allotment (R309). -/
def Use.outside (i : Iss) (u : Use) : Bool := !i.movement && decide (i.allot < i.row u.r + u.n)

/-- Whether a register is empty in a lane (R311). -/
def Iss.isEmpty (i : Iss) (l r : Nat) : Bool :=
  match ((i.warp.lane l).cell (i.row r)).fill with
  | .empty _ => true
  | _ => false

/-- The first empty source register in an active non-helper lane, lanes ascending (R312, R454). -/
def Iss.emptySrc (i : Iss) (us : List Use) : Option (Nat × Nat) :=
  i.act.findSome? fun l => ((us.filter (·.src)).flatMap Use.regs).findSome? fun r =>
    if i.isEmpty l r then some (l, r) else none

/-- Whether any register named is empty in any active lane (R312). -/
def Iss.anyEmpty (i : Iss) (us : List Use) : Bool :=
  i.active.any fun l => ((us.filter fun u => !u.peek).flatMap Use.regs).any fun r => i.isEmpty l r

/-- The registers named that are empty, in the lanes of the issue (R312). -/
def Iss.emptyRows (i : Iss) (us : List Use) : List (Nat × Nat) :=
  i.active.flatMap fun l => (((us.filter fun u => !u.peek).flatMap Use.regs).filter fun r => i.isEmpty l r).map fun r => (l, i.row r)

/-- The tests of the registers named: ILL of alignment, then WIN, then EMPTY, then waiting (R309, R310, R312, R454). -/
def Iss.operands (i : Iss) (word : Word) (e : Bool) (us : List Use) : Verdict Unit :=
  if us.any (Use.misplaced i) then .trap (ill i word)
  else
    match us.find? (Use.outside i) with
    | some u => .trap { cause := causeWIN, info := BitVec.ofNat 32 u.r, lane := i.lead }
    | none =>
      match (if e then i.emptySrc us else none) with
      | some (l, r) => .trap { cause := causeEMPTY, info := BitVec.ofNat 32 r, lane := l }
      | none => if i.anyEmpty us then .wait else .go ()

/-- The handle of a failed operation that a lane reads for the first time (R424): lane, row, TRAPINFO. -/
def Iss.failedRead (i : Iss) (us : List Use) : Option (Nat × Nat × Word) :=
  i.act.findSome? fun l => ((us.filter (·.src)).flatMap Use.regs).findSome? fun r =>
    match ((i.warp.lane l).cell (i.row r)).fill with
    | .failed info => some (l, i.row r, info)
    | _ => none

/-- One word of a lane's register (R330). -/
def Iss.rd (i : Iss) (l : Nat) (r : RegNo) : Word := (i.warp.lane l).reg (i.row r.toNat)
/-- A word of a register group, by its index. -/
def Iss.rdN (i : Iss) (l : Nat) (r : RegNo) (k : Nat) : Word := (i.warp.lane l).reg (i.row (r.toNat + k))
/-- A pair, low word in the even register (R310). -/
def Iss.rd64 (i : Iss) (l : Nat) (r : RegNo) : DWord := i.rdN l r 1 ++ i.rdN l r 0

/-! ## Which agent runs what -/

/-- Whether the movement sequencer executes the instruction (R323). -/
def msqLegal : Instr → Bool
  | .winb _ => false
  | .nop | .pblk _ | .imx _ | .bra _ | .jmp _ | .call _ | .jmpi _ | .calli _ | .setprio _ | .exit | .yield
  | .brk _ | .trap _ | .rft => true
  | .iadd _ | .isub _ | .imul _ | .imulh _ | .imulhu _ | .imad _ | .imad64 _ | .imad64u _ | .iadd64 _ | .isub64 _
  | .idiv _ | .idivu _ | .irem _ | .iremu _ | .min _ | .max _ | .minu _ | .maxu _ | .abs _ | .and _ | .or _ | .xor _
  | .andn _ | .shl _ | .shr _ | .sar _ | .rotl _ | .popc _ | .clz _ | .brev _ | .bfe _ | .bfi _ | .bpick _
  | .leaX1 _ | .leaX2 _ | .leaX4 _ | .leaX8 _ | .idot4 _ | .idot4u _ | .isetp _ | .sel _ | .mov _ | .movi _
  | .iaddi _ | .andi _ | .ori _ | .xori _ | .shi _ => true
  | .ld _ | .st _ | .lds _ | .sts _ | .ldp _ | .fence _ | .atom _ | .red _ => true
  | .hopen _ | .hset _ | .hget _ | .hconf _ | .href _ | .hstat _ => true
  | .waitc _ | .stgwImm _ | .stgwReg _ | .stgaImm _ | .stgaReg _ | .time _ => true
  | .cpy _ | .cpyt _ | .cpym _ | .lxf _ | .tkw _ | .tkwBar _ | .tkwBarw _ | .tkt _ | .tktBar _ | .spclr _ | .spset _ => true
  | .srd _ | .swr _ => true
  | _ => false

/-- The movement instructions 0xE8 to 0xEF, which no warp executes (R323). -/
def movementOnly : Instr → Bool
  | .cpy _ | .cpyt _ | .cpym _ | .lxf _ | .tkw _ | .tkwBar _ | .tkwBarw _ | .tkt _ | .tktBar _ | .spclr _ | .spset _ => true
  | _ => false

/-- The matrix instructions 0xE0 to 0xE5, which a vector warp does not execute (R323). -/
def matrixOnly : Instr → Bool
  | .mma _ | .mmap _ | .tld _ | .tst _ | .tzero _ | .tfree _ => true
  | _ => false

/-- The hypothesis instructions, which need FLAGS.HYPO (R321, R403). -/
def hypoOnly : Instr → Bool
  | .hopen _ | .hset _ | .hget _ | .hconf _ | .href _ | .hstat _ => true
  | _ => false

/-- What a predicate block forbids (R317). -/
def blockForbids : Instr → Bool
  | .imx _ | .pblk _ | .bra _ | .jmp _ | .call _ | .jmpi _ | .calli _ | .exit => true
  | _ => false

/-- What IMX extends (R316). -/
def imxExtends : Instr → Bool
  | .movi _ | .iaddi _ | .andi _ | .ori _ | .xori _ => true
  | .ld _ | .st _ | .lds _ | .sts _ | .ldl _ | .stl _ | .ldp _ | .prf _ | .cctlClean _ | .cctlInval _ | .cctlCleanAll _ => true
  | .atom _ | .red _ | .atoms _ => true
  | _ => false

/-- Whether the executing agent may run the instruction (R323, R403). -/
def Iss.roleLegal (i : Iss) (ins : Instr) : Bool :=
  (match i.warp.role with
    | .vector => !movementOnly ins && !matrixOnly ins
    | .matrix => !movementOnly ins
    | .movement => msqLegal ins) &&
  (!hypoOnly ins || i.grid.record.hypo)

/-- The expected count of a declared barrier (R166). -/
def LRec.barCount (r : LRec) (b : Nat) : Nat := ((r.barrier[b]?).getD 0) % 64
/-- Whether a barrier is declared with a role in its mask (R166). -/
def LRec.barRole (r : LRec) (b : Nat) (role : Role) : Bool :=
  ((r.barrier[b]?).getD 0) / (match role with
    | .vector => 4096
    | .matrix => 8192
    | .movement => 16384) % 2 == 1

/-- Whether the barrier is declared with the executing role (R416). -/
def Iss.barLegal (i : Iss) (b : BitVec 4) : Bool := i.grid.record.barRole b.toNat i.warp.role

/-- Whether the ring is declared (R163, R422). -/
def Iss.ringLegal (i : Iss) (ring : BitVec 2) : Bool := decide (ring.toNat < i.grid.record.ringCount)

/-- The special registers that SRD names; TOKERR on the movement sequencer only (R449, R450). -/
def specialRead (movement : Bool) (n : Nat) : Bool :=
  decide (n ≤ 0x00A) || (decide (0x020 ≤ n) && decide (n ≤ 0x024)) || (decide (0x030 ≤ n) && decide (n ≤ 0x034)) ||
  (decide (0x040 ≤ n) && decide (n ≤ 0x045)) || (movement && n == 0x050) || n == 0x051

/-- The special registers that SWR writes (R449, R450). -/
def specialWritten (n : Nat) : Bool := n == 0x020 || n == 0x021 || n == 0x031

/-- Whether what the instruction names is there: a special register, a barrier declared with the executing role, a stage ring
of the launch (R416, R422, R447, R449). -/
def Iss.declares (i : Iss) : Instr → Bool
  | .srd f => specialRead i.movement f.sel.toNat
  | .swr f => specialWritten f.sel.toNat
  | .bar f => i.barLegal f.b
  | .bara f => i.barLegal f.b
  | .barw f => i.barLegal f.b
  | .tkwBar f => i.barLegal f.b
  | .tkwBarw f => i.barLegal f.b
  | .tktBar f => i.barLegal f.b
  | .stgwImm f => i.ringLegal f.ring
  | .stgwReg f => i.ringLegal f.ring
  | .stgaImm f => i.ringLegal f.ring
  | .stgaReg f => i.ringLegal f.ring
  | _ => true

/-- Whether a predicate block in force forbids the instruction in an active lane (R317). -/
def Iss.blockIll (i : Iss) (ins : Instr) : Bool :=
  blockForbids ins && i.act.any fun l => (i.warp.lane l).blk.left != 0

/-- The word of an instruction. -/
def wordOf (ins : Instr) : Word := BitVec.ofNat 32 ((encode ins).getD 0)

end Sys2Proof.Machine
end

