-- ==== Sys2Proof/Machine/Flags.lean ====
section
/-! DEFINITION. Floating-point formats, the one rounding of an exact result, and the FSTAT flags
(R282 to R284, R291 to R296). An exact result is a sign, a natural mantissa and a binary exponent. -/
namespace Sys2Proof.Machine

/-- The sticky flags of FSTAT: NX, UF, OF, DZ, IV from bit 0 (R292). -/
abbrev Flags := BitVec 5

def flagNone : Flags := 0
def flagNX : Flags := 1
def flagUF : Flags := 2
def flagOF : Flags := 4
def flagDZ : Flags := 8
def flagIV : Flags := 16

/-- A flag when a condition holds. -/
def flagIf (c : Bool) (f : Flags) : Flags := if c then f else 0

/-- A floating-point format: exponent bits, fraction bits; `ieee` is false for E4M3, which has no
infinities and whose one NaN magnitude is all ones (R282). -/
structure Fmt where
  eb : Nat
  fb : Nat
  ieee : Bool
  deriving DecidableEq, Repr

def fp64 : Fmt := ⟨11, 52, true⟩
def fp32 : Fmt := ⟨8, 23, true⟩
def fp16 : Fmt := ⟨5, 10, true⟩
def fmtBF16 : Fmt := ⟨8, 7, true⟩
def fmtE5M2 : Fmt := ⟨5, 2, true⟩
def fmtE4M3 : Fmt := ⟨4, 3, false⟩

/-- The exponent bias (R282). -/
def Fmt.bias (f : Fmt) : Nat := 2 ^ (f.eb - 1) - 1
/-- The code of +infinity, or for E4M3 of the NaN. -/
def Fmt.top (f : Fmt) : Nat := if f.ieee then (2 ^ f.eb - 1) * 2 ^ f.fb else 2 ^ (f.eb + f.fb) - 1
/-- The code of the largest finite magnitude (R283). -/
def Fmt.maxCode (f : Fmt) : Nat := f.top - 1
/-- The sign bit. -/
def Fmt.signBit (f : Fmt) : Nat := 2 ^ (f.eb + f.fb)
/-- The canonical NaN (R283). -/
def Fmt.nan (f : Fmt) : Nat := if f.ieee then f.top + 2 ^ (f.fb - 1) else f.top
/-- The binary exponent of the smallest subnormal. -/
def Fmt.qmin (f : Fmt) : Int := 1 - (f.bias : Int) - (f.fb : Int)
/-- A magnitude code with a sign. -/
def Fmt.withSign (f : Fmt) (s : Bool) (code : Nat) : Nat := if s then code + f.signBit else code

/-- An exact operand: a NaN (signalling or quiet), an infinity, or (−1)^s · m · 2^e; m = 0 is a signed zero. -/
inductive FV where
  | nan (signalling : Bool)
  | inf (s : Bool)
  | fin (s : Bool) (m : Nat) (e : Int)
  deriving DecidableEq, Repr

/-- The value a code denotes (R282, R284). -/
def Fmt.unpack (f : Fmt) (w : Nat) : FV :=
  let s := w / f.signBit % 2 == 1
  let mag := w % f.signBit
  let ex := mag / 2 ^ f.fb
  let fr := mag % 2 ^ f.fb
  if f.ieee then
    if ex = 2 ^ f.eb - 1 then
      if fr = 0 then .inf s else .nan (fr / 2 ^ (f.fb - 1) == 0)
    else if ex = 0 then .fin s fr f.qmin
    else .fin s (2 ^ f.fb + fr) (f.qmin + (ex : Int) - 1)
  else if mag = f.top then .nan false
  else if ex = 0 then .fin s fr f.qmin
  else .fin s (2 ^ f.fb + fr) (f.qmin + (ex : Int) - 1)

/-- Whether a value is a NaN. -/
def FV.isNan : FV → Bool
  | .nan _ => true
  | _ => false

/-- Whether a value is a signalling NaN. -/
def FV.isSnan : FV → Bool
  | .nan true => true
  | _ => false

/-- Whether a truncated magnitude is rounded up: `rest` of `2 ^ k` is cut off (R291, R294). -/
def roundUp (rm : Rm) (s : Bool) (odd : Bool) (rest k : Nat) : Bool :=
  match rm with
  | .rne => decide (2 * rest > 2 ^ k) || (decide (2 * rest = 2 ^ k) && odd)
  | .rtz => false
  | .rdn => s && rest != 0
  | .rup => !s && rest != 0

/-- What an overflow gives (R294). -/
def overflowCode (f : Fmt) (rm : Rm) (s : Bool) : Nat :=
  match rm, s with
  | .rne, _ => f.top
  | .rtz, _ => f.maxCode
  | .rdn, false => f.maxCode
  | .rdn, true => f.top
  | .rup, false => f.top
  | .rup, true => f.maxCode

/-- The magnitude `m · 2 ^ e` at quantum `2 ^ q`, rounded: the integer multiple and whether bits were lost. -/
def toQuantum (rm : Rm) (s : Bool) (m : Nat) (e q : Int) : Nat × Bool :=
  if q ≤ e then (m * 2 ^ (e - q).toNat, false)
  else
    let k := (q - e).toNat
    let hi := m / 2 ^ k
    let rest := m % 2 ^ k
    (if roundUp rm s (hi % 2 == 1) rest k then hi + 1 else hi, rest != 0)

/-- Round(x, fmt, mode) of an exact value (−1)^s · m · 2^e: one rounding, tininess judged before it,
overflow as IEEE 754 (R292, R294). A zero magnitude keeps its sign. -/
def roundExact (f : Fmt) (rm : Rm) (s : Bool) (m : Nat) (e : Int) : Nat × Flags :=
  if m = 0 then (f.withSign s 0, flagNone)
  else
    let ex : Int := (Nat.log2 m : Int) + e
    let q : Int := max (ex - (f.fb : Int)) f.qmin
    let r := toQuantum rm s m e q
    let code := (q - f.qmin).toNat * 2 ^ f.fb + r.1
    if code > f.maxCode then (f.withSign s (overflowCode f rm s), flagOF ||| flagNX)
    else
      let tiny := decide (ex < f.qmin + (f.fb : Int))
      (f.withSign s code, flagIf r.2 flagNX ||| flagIf (r.2 && tiny) flagUF)

/-- The code of a value rounded to a format; a NaN is canonical and sets IV when signalling (R295). -/
def roundFV (f : Fmt) (rm : Rm) : FV → Nat × Flags
  | .nan sg => (f.nan, flagIf sg flagIV)
  | .inf s => (f.withSign s f.top, flagNone)
  | .fin s m e => roundExact f rm s m e

end Sys2Proof.Machine
end

