-- ==== Sys2Proof/Machine/Float.lean ====
section
/-! DEFINITION. Exact float arithmetic and its single rounding: sums, products, quotients, roots,
minimum, maximum, comparison, classification and conversion (R294 to R298, R359 to R373). -/
namespace Sys2Proof.Machine

/-- A signed magnitude as an integer. -/
def signedInt (s : Bool) (m : Nat) : Int := if s then -(m : Int) else (m : Int)

/-- The negative of a value; a NaN is unchanged. -/
def FV.neg : FV → FV
  | .nan g => .nan g
  | .inf s => .inf (!s)
  | .fin s m e => .fin (!s) m e

/-- The exact product and whether it raises IV: a signalling operand, or infinity times zero (R295, R359). -/
def mulFV (a b : FV) : FV × Bool :=
  match a, b with
  | .nan g, y => (.nan false, g || y.isSnan)
  | x, .nan g => (.nan false, g || x.isSnan)
  | .inf s, .inf t => (.inf (s != t), false)
  | .inf s, .fin t m _ => if m = 0 then (.nan false, true) else (.inf (s != t), false)
  | .fin s m _, .inf t => if m = 0 then (.nan false, true) else (.inf (s != t), false)
  | .fin s m e, .fin t n d => (.fin (s != t) (m * n) (e + d), false)

/-- The smallest exponent of the finite terms. -/
def minExp : List FV → Int → Int
  | [], e => e
  | .fin _ _ d :: ts, e => minExp ts (min d e)
  | _ :: ts, e => minExp ts e

/-- The sum of the finite terms as a multiple of `2 ^ e`, for `e` no greater than any exponent. -/
def sumAt (e : Int) : List FV → Int
  | [] => 0
  | .fin s m d :: ts => signedInt s (m * 2 ^ (d - e).toNat) + sumAt e ts
  | _ :: ts => sumAt e ts

/-- The sign all terms share when each is a zero; none otherwise (R359). -/
def zeroSign : List FV → Option Bool
  | [] => none
  | [.fin s 0 _] => some s
  | .fin s 0 _ :: ts => match zeroSign ts with
    | some t => if s = t then some s else none
    | none => none
  | _ => none

/-- The exact sum of terms, rounded once (R294, R296, R359). `rm` also decides the sign of an exact zero. -/
def sumRound (f : Fmt) (rm : Rm) (ts : List FV) : Nat × Flags :=
  if ts.any FV.isNan then (f.nan, flagIf (ts.any FV.isSnan || (ts.contains (.inf false) && ts.contains (.inf true))) flagIV)
  else if ts.contains (.inf false) && ts.contains (.inf true) then (f.nan, flagIV)
  else if ts.contains (.inf false) then (f.top, flagNone)
  else if ts.contains (.inf true) then (f.withSign true f.top, flagNone)
  else
    match zeroSign ts with
    | some s => (f.withSign s 0, flagNone)
    | none =>
      let e := match ts with
        | .fin _ _ d :: _ => minExp ts d
        | _ => 0
      let v := sumAt e ts
      if v = 0 then (f.withSign (rm == .rdn) 0, flagNone)
      else roundExact f rm (decide (v < 0)) v.natAbs e

/-- a + b (R361). -/
def addF (f : Fmt) (rm : Rm) (a b : Nat) : Nat × Flags := sumRound f rm [f.unpack a, f.unpack b]
/-- a − b (R361). -/
def subF (f : Fmt) (rm : Rm) (a b : Nat) : Nat × Flags := sumRound f rm [f.unpack a, (f.unpack b).neg]
/-- a × b (R361). -/
def mulF (f : Fmt) (rm : Rm) (a b : Nat) : Nat × Flags :=
  let p := mulFV (f.unpack a) (f.unpack b)
  let r := roundFV f rm p.1
  (r.1, r.2 ||| flagIf p.2 flagIV)
/-- ±(a × b) ± d with one rounding: `np` negates the product, `nd` the addend (R361, R368, R369). -/
def fmaF (f : Fmt) (rm : Rm) (np nd : Bool) (a b d : Nat) : Nat × Flags :=
  let p := mulFV (f.unpack a) (f.unpack b)
  let pv := if np then p.1.neg else p.1
  let dv := if nd then (f.unpack d).neg else f.unpack d
  let r := sumRound f rm [pv, dv]
  (r.1, r.2 ||| flagIf p.2 flagIV)
/-- a.e0 × b.e0 + a.e1 × b.e1 + d: products of format `g`, one rounding to FP32 (R370). -/
def dot2F (g : Fmt) (rm : Rm) (a0 b0 a1 b1 d : Nat) : Nat × Flags :=
  let p := mulFV (g.unpack a0) (g.unpack b0)
  let q := mulFV (g.unpack a1) (g.unpack b1)
  let r := sumRound fp32 rm [p.1, q.1, fp32.unpack d]
  (r.1, r.2 ||| flagIf (p.2 || q.2) flagIV)

/-- The quotient of two positive mantissas with at least `f.fb + 3` bits and a sticky last bit. -/
def divMant (f : Fmt) (m n : Nat) : Nat × Int :=
  let k := f.fb + 4 + Nat.log2 n
  let q := m * 2 ^ k / n
  let r := m * 2 ^ k % n
  (2 * q + (if r = 0 then 0 else 1), -(k : Int) - 1)

/-- a / b, correctly rounded (R297, R361). -/
def divFV (f : Fmt) (rm : Rm) (a b : FV) : Nat × Flags :=
  match a, b with
  | .nan g, y => (f.nan, flagIf (g || y.isSnan) flagIV)
  | _, .nan g => (f.nan, flagIf g flagIV)
  | .inf _, .inf _ => (f.nan, flagIV)
  | .inf s, .fin t _ _ => (f.withSign (s != t) f.top, flagNone)
  | .fin s _ _, .inf t => (f.withSign (s != t) 0, flagNone)
  | .fin s m e, .fin t n d =>
    if n = 0 then
      if m = 0 then (f.nan, flagIV) else (f.withSign (s != t) f.top, flagDZ)
    else if m = 0 then (f.withSign (s != t) 0, flagNone)
    else
      let q := divMant f m n
      roundExact f rm (s != t) q.1 (e - d + q.2)

/-- The integer square root by binary digits, from bit `k − 1` down. -/
def isqrtFrom (n : Nat) : Nat → Nat → Nat
  | 0, r => r
  | k + 1, r => if (r + 2 ^ k) * (r + 2 ^ k) ≤ n then isqrtFrom n k (r + 2 ^ k) else isqrtFrom n k r

/-- The integer square root. -/
def isqrt (n : Nat) : Nat := isqrtFrom n (Nat.log2 n / 2 + 1) 0

/-- √a, correctly rounded (R297, R365). -/
def sqrtF (f : Fmt) (rm : Rm) (a : Nat) : Nat × Flags :=
  match f.unpack a with
  | .nan g => (f.nan, flagIf g flagIV)
  | .inf s => if s then (f.nan, flagIV) else (f.top, flagNone)
  | .fin s m e =>
    if m = 0 then (f.withSign s 0, flagNone)
    else if s then (f.nan, flagIV)
    else
      let h : Int := e / 2
      let n := m * 2 ^ (e - 2 * h).toNat * 2 ^ (2 * (f.fb + 4))
      let r := isqrt n
      roundExact f rm false (2 * r + (if r * r = n then 0 else 1)) (h - ((f.fb + 4 : Nat) : Int) - 1)

/-- 1/√a, correctly rounded (R297, R365). -/
def rsqrtF (f : Fmt) (rm : Rm) (a : Nat) : Nat × Flags :=
  match f.unpack a with
  | .nan g => (f.nan, flagIf g flagIV)
  | .inf s => if s then (f.nan, flagIV) else (0, flagNone)
  | .fin s m e =>
    if m = 0 then (f.withSign s f.top, flagDZ)
    else if s then (f.nan, flagIV)
    else
      let h : Int := e / 2
      let n := m * 2 ^ (e - 2 * h).toNat
      let k := f.fb + 4 + Nat.log2 n
      let r := isqrt (2 ^ (2 * k) / n)
      roundExact f rm false (2 * r + (if r * r * n = 2 ^ (2 * k) then 0 else 1)) (-h - (k : Int) - 1)

/-- 1/a, correctly rounded (R297, R365). -/
def rcpF (f : Fmt) (rm : Rm) (a : Nat) : Nat × Flags := divFV f rm (.fin false 1 0) (f.unpack a)

/-- Whether `a < b` for values that are no NaN; −0 equals +0 (R367). -/
def ltFV (a b : FV) : Bool :=
  match a, b with
  | .inf s, .inf t => s && !t
  | .inf s, _ => s
  | _, .inf t => !t
  | .fin s m e, .fin t n d =>
    let q := min e d
    decide (signedInt s (m * 2 ^ (e - q).toNat) < signedInt t (n * 2 ^ (d - q).toNat))
  | _, _ => false

/-- Whether `a = b` for values that are no NaN; −0 equals +0 (R367). -/
def eqFV (a b : FV) : Bool := !ltFV a b && !ltFV b a

/-- minimumNumber (`big` false) and maximumNumber (`big` true) of two codes: one operand bit for bit,
−0 below +0 (R296, R362). -/
def minMaxF (f : Fmt) (big : Bool) (a b : Nat) : Nat × Flags :=
  let x := f.unpack a
  let y := f.unpack b
  let iv := flagIf (x.isSnan || y.isSnan) flagIV
  if x.isNan && y.isNan then (f.nan, iv)
  else if x.isNan then (b, iv)
  else if y.isNan then (a, iv)
  else
    let less := ltFV x y || (eqFV x y && decide (a / f.signBit % 2 = 1))
    (if less != big then a else b, iv)

/-- A comparison of two values: the result and its flag (R367). -/
def compareF (c : FCond) (a b : FV) : Bool × Flags :=
  let un := a.isNan || b.isNan
  let sn := a.isSnan || b.isSnan
  let lt := ltFV a b
  let gt := ltFV b a
  let ord (r : Bool) (strictIV : Bool) : Bool × Flags :=
    (!un && r, flagIf (sn || (un && strictIV)) flagIV)
  let acc (r : Bool) : Bool × Flags := (un || r, flagIf sn flagIV)
  match c with
  | .eq => ord (!lt && !gt) false
  | .ne => ord (lt || gt) false
  | .lt => ord lt true
  | .le => ord (!gt) true
  | .gt => ord gt true
  | .ge => ord (!lt) true
  | .eqn => acc (!lt && !gt)
  | .nen => acc (lt || gt)
  | .ltn => acc lt
  | .len => acc (!gt)
  | .gtn => acc gt
  | .gen => acc (!lt)
  | .isnum => (!un, flagIf sn flagIV)
  | .isnan => (un, flagIf sn flagIV)

/-- FABS and FNEG (R363): a NaN becomes canonical, a signalling one sets IV. -/
def absF (f : Fmt) (a : Nat) : Nat × Flags :=
  match f.unpack a with
  | .nan g => (f.nan, flagIf g flagIV)
  | _ => (a % f.signBit, flagNone)

/-- FNEG (R363). -/
def negF (f : Fmt) (a : Nat) : Nat × Flags :=
  match f.unpack a with
  | .nan g => (f.nan, flagIf g flagIV)
  | _ => (if a / f.signBit % 2 = 1 then a % f.signBit else a % f.signBit + f.signBit, flagNone)

/-- The class bit of FCLASS (R364). -/
def classF (f : Fmt) (a : Nat) : Nat :=
  match f.unpack a with
  | .nan g => if g then 8 else 9
  | .inf s => if s then 0 else 7
  | .fin s m _ =>
    if m = 0 then (if s then 3 else 4)
    else if m < 2 ^ f.fb then (if s then 2 else 5)
    else if s then 1 else 6

/-- A value rounded to an integer: sign, magnitude, whether it changed (R298, R366). -/
def toIntegral (rm : Rm) (s : Bool) (m : Nat) (e : Int) : Nat × Bool := toQuantum rm s m e 0

/-- FRND (R366). -/
def rndF (f : Fmt) (rm : Rm) (a : Nat) : Nat × Flags :=
  match f.unpack a with
  | .nan g => (f.nan, flagIf g flagIV)
  | .inf _ => (a, flagNone)
  | .fin s m e =>
    if m = 0 then (a, flagNone)
    else
      let r := toIntegral rm s m e
      ((roundExact f .rne s r.1 0).1, flagIf r.2 flagNX)

/-- I2F of an integer (R298, R371). -/
def i2F (rm : Rm) (v : Int) : Nat × Flags := roundExact fp32 rm (decide (v < 0)) v.natAbs 0

/-- F2I to a range, saturating (R298, R372): the integer and its flags. -/
def f2I (rm : Rm) (lo hi : Int) (a : Nat) : Int × Flags :=
  match fp32.unpack a with
  | .nan _ => (0, flagIV)
  | .inf s => (if s then lo else hi, flagIV)
  | .fin s m e =>
    let r := toIntegral rm s m e
    let v := signedInt s r.1
    if v > hi then (hi, flagIV)
    else if v < lo then (lo, flagIV)
    else (v, flagIf r.2 flagNX)

/-- The formats of F2F (R373). -/
def f2Fmt : F2Fmt → Fmt
  | .f32 => fp32
  | .f16 => fp16
  | .bf16 => fmtBF16
  | .f64 => fp64

/-- F2F (R298, R373): one rounding of the exact value; a NaN becomes canonical. -/
def f2F (src dst : F2Fmt) (rm : Rm) (a : Nat) : Nat × Flags := roundFV (f2Fmt dst) rm ((f2Fmt src).unpack a)

end Sys2Proof.Machine
end

