-- ==== Sys2Proof/Machine/Slots.lean ====
section
/-! DEFINITION. Format slots, the P2P8 and SB8 bytes, narrowing, widening, scale codes and the sum of a
K-block (R285 to R290, R299 to R305). -/
namespace Sys2Proof.Machine

/-- The element formats of a slot, in code order (R289). -/
inductive Elem where
  | f32 | f16 | bf16 | e4m3 | e5m2 | p2p8 | int8 | uint8
  deriving DecidableEq, Repr

/-- The element of a code; slots hold codes 0 to 7 only (R165, R289). -/
def Elem.ofCode : Nat → Elem
  | 0 => .f32
  | 1 => .f16
  | 2 => .bf16
  | 3 => .e4m3
  | 4 => .e5m2
  | 5 => .p2p8
  | 6 => .int8
  | _ => .uint8

/-- The element of a slot word, bits [3:0] (R289). -/
def slotElem (w : Word) : Elem := Elem.ofCode (w.toNat % 8)
/-- The scale mode of a slot word, bits [5:4] (R289). -/
def slotMode (w : Word) : Nat := w.toNat / 16 % 4
/-- The SB8 of a slot word, bits [15:8] (R289). -/
def slotScale (w : Word) : Nat := w.toNat / 256 % 256

/-- Bytes of an element (R289). -/
def Elem.bytes : Elem → Nat
  | .f32 => 4
  | .f16 => 2
  | .bf16 => 2
  | _ => 1

/-- The float format of a float element. -/
def Elem.fmt : Elem → Option Fmt
  | .f32 => some fp32
  | .f16 => some fp16
  | .bf16 => some fmtBF16
  | .e4m3 => some fmtE4M3
  | .e5m2 => some fmtE5M2
  | _ => none

/-- One term of a P2P8 byte in 64ths: `s` in bit 3, `e` in bits [2:0] of the nibble (R285). -/
def p2Term (nib : Nat) : Int :=
  let e := nib % 8
  if e = 7 then 0 else signedInt (nib / 8 == 1) (2 ^ (6 - e))

/-- The value of a P2P8 byte in 64ths (R285). -/
def p2Val (c : Nat) : Int := p2Term (c / 16 % 16) + p2Term (c % 16)

/-- The canonical codes in the order of preference of R286: fewest terms, then largest |t1| with |t1| ≥ |t2|. -/
def p2Codes : List Nat :=
  [0x77] ++ ((List.range 7).flatMap fun e => [e * 16 + 7, 128 + e * 16 + 7]) ++
  ((List.range 7).flatMap fun e => ((List.range 7).filter (e ≤ ·)).flatMap fun g =>
    [e * 16 + g, e * 16 + 8 + g, 128 + e * 16 + g, 128 + e * 16 + 8 + g])

/-- The canonical P2P8 code of a value in 64ths (R286). -/
def p2Canon (v : Int) : Nat := (p2Codes.find? (fun c => p2Val c == v)).getD 0x77

/-- The P2P8 value nearest to `v · 2 ^ (−k)` in 64ths, ties to the smaller magnitude (R299). -/
def p2Nearest (v : Int) (k : Nat) : Int :=
  (p2Codes.map p2Val).foldl (fun best c =>
    let db := (v - best * (2 ^ k : Nat)).natAbs
    let dc := (v - c * (2 ^ k : Nat)).natAbs
    if dc < db || (dc = db && c.natAbs < best.natAbs) then c else best) 0

/-- The exact value of an element (R282, R285, R288). -/
def Elem.value (el : Elem) (w : Nat) : FV :=
  match el with
  | .p2p8 => let v := p2Val w; .fin (decide (v < 0)) v.natAbs (-6)
  | .int8 => let v := w % 256; if v < 128 then .fin false v 0 else .fin true (256 - v) 0
  | .uint8 => .fin false (w % 256) 0
  | .f32 => fp32.unpack w
  | .f16 => fp16.unpack w
  | .bf16 => fmtBF16.unpack w
  | .e4m3 => fmtE4M3.unpack w
  | .e5m2 => fmtE5M2.unpack w

/-- The value of an SB8 byte: NaN, or (4 + m) · 2^(e − 34), with code 0 zero (R287). -/
def sb8 (c : Nat) : FV :=
  if c = 0xFF then .nan false
  else if c = 0 then .fin false 0 0
  else .fin false (4 + c % 4) (((c / 4 % 64 : Nat) : Int) - 34)

/-- The scale of a slot: 1, the slot's own byte, or the byte given (R290, R299). -/
def scaleOf (slot : Word) (byte : Nat) : FV :=
  if slotMode slot = 1 then sb8 byte else if slotMode slot = 2 then sb8 (slotScale slot) else .fin false 1 0

/-- Widen(e, slot, scale) (R301): the FP32 code and its flags. -/
def widen (el : Elem) (sv : FV) (w : Nat) : Nat × Flags :=
  let x := el.value w
  let p := mulFV x sv
  let r := roundFV fp32 .rne p.1
  (r.1, r.2 ||| flagIf (p.2 || sv.isNan) flagIV)

/-- What narrowing one value gives; `spills` tells that it overflowed (R299, R300). -/
structure Narrowed where
  code : Nat
  flags : Flags
  spills : Bool
  deriving DecidableEq, Repr

/-- Overflow(ELEM, sign, ovf) (R300); under TRAP the code is that of SAT. -/
def narrowOverflow (el : Elem) (s : Bool) (ovf : Ovf) : Narrowed :=
  match el.fmt with
  | some f =>
    let c := match ovf with
      | .inf => if f.ieee then f.withSign s f.top else f.nan
      | .nan => f.nan
      | _ => f.withSign s f.maxCode
    ⟨c, flagOF ||| flagNX, true⟩
  | none =>
    let c := match el with
      | .p2p8 => if s then 0x88 else 0x00
      | .int8 => if s then 0x80 else 0x7F
      | _ => if s then 0 else 0xFF
    ⟨c, flagIV, true⟩

/-- The exact quotient of two positive values with 64 more bits and a sticky last bit (R299). -/
def quotSticky (m : Nat) (e : Int) (n : Nat) (d : Int) : Nat × Int :=
  (2 * (m * 2 ^ 64 / n) + (if m * 2 ^ 64 % n = 0 then 0 else 1), e - d - 65)

/-- Narrow(x, slot, ovf, scale) of an FP32 value (R299, R300). -/
def narrow (el : Elem) (sv : FV) (ovf : Ovf) (x : Nat) : Narrowed :=
  let hasNan := el.fmt.isSome
  let bad (sg : Bool) (svBad : Bool) : Narrowed :=
    ⟨match el.fmt with
      | some f => f.nan
      | none => if el = .p2p8 then 0x77 else 0, flagIf (svBad || sg || !hasNan) flagIV, false⟩
  match sv with
  | .fin _ n d =>
    if n = 0 then bad false true
    else
      match fp32.unpack x with
      | .nan g => bad g false
      | .inf s =>
        match el.fmt with
        | some f => if f.ieee then ⟨f.withSign s f.top, flagNone, false⟩ else narrowOverflow el s ovf
        | none => narrowOverflow el s ovf
      | .fin s m e =>
        let y := quotSticky m e n d
        match el.fmt with
        | some f =>
          let r := roundExact f .rne s y.1 y.2
          if r.2 &&& flagOF = flagOF then narrowOverflow el s ovf else ⟨r.1, r.2, false⟩
        | none =>
          match el with
          | .p2p8 =>
            let k := (-(y.2 + 6)).toNat
            let v := signedInt s (y.1 * 2 ^ (y.2 + 6).toNat)
            if v.natAbs > 128 * 2 ^ k then narrowOverflow el s ovf
            else
              let q := p2Nearest v k
              ⟨p2Canon q, flagIf (decide (q * (2 ^ k : Nat) ≠ v)) flagNX, false⟩
          | _ =>
            let r := toQuantum .rne s y.1 y.2 0
            let v := signedInt s r.1
            let lo : Int := if el = .int8 then -127 else 0
            let hi : Int := if el = .int8 then 127 else 255
            if v < lo || v > hi then narrowOverflow el s ovf
            else ⟨(v % 256).toNat, flagIf r.2 flagNX, false⟩
  | _ => bad false true

/-- The largest finite magnitude of an element, as m · 2^e (R283, R302). -/
def Elem.maxFin : Elem → FV
  | .p2p8 => .fin false 2 0
  | .int8 => .fin false 127 0
  | .uint8 => .fin false 255 0
  | .f32 => fp32.unpack fp32.maxCode
  | .f16 => fp16.unpack fp16.maxCode
  | .bf16 => fmtBF16.unpack fmtBF16.maxCode
  | .e4m3 => fmtE4M3.unpack fmtE4M3.maxCode
  | .e5m2 => fmtE5M2.unpack fmtE5M2.maxCode

/-- Whether |a| is at most the largest magnitude times the scale of code `c` (R302). -/
def sclFits (el : Elem) (a : FV) (c : Nat) : Bool := !ltFV (mulFV el.maxFin (sb8 c)).1 a

/-- SCL (R302): the scale code and its flags. -/
def sclCode (el : Elem) (x : Nat) : Nat × Flags :=
  match fp32.unpack x with
  | .nan _ => (0xFF, flagIV)
  | .inf _ => (0xFE, flagIV)
  | .fin _ m e =>
    let a : FV := .fin false m e
    if sclFits el a 0xFE then
      (((List.range 255).find? (fun c => c ≠ 0 && sclFits el a c)).getD 0xFE, flagNone)
    else (0xFE, flagIV)

/-- The exact sum of a block's products before scaling (R303, R304): NaN, infinity or a finite value. -/
def blockSum (ps : List FV) : FV :=
  if ps.any FV.isNan || (ps.contains (.inf false) && ps.contains (.inf true)) then .nan false
  else if ps.contains (.inf false) then .inf false
  else if ps.contains (.inf true) then .inf true
  else
    let e := minExp ps 0
    let v := sumAt e ps
    .fin (decide (v < 0)) v.natAbs e

/-- Round(s · ScaleA · ScaleB, FP32, RNE) of a block sum; an exact zero gives +0 (R303, R304). -/
def blockRound (s sa sb : FV) : Nat :=
  match (mulFV (mulFV s sa).1 sb).1 with
  | .fin _ 0 _ => 0
  | v => (roundFV fp32 .rne v).1

/-- The new FP32 tile word: the second rounding (R303). -/
def blockAddF (tile b : Nat) : Nat := (addF fp32 .rne tile b).1

/-- The integer value of a finite element, for INT32 accumulation (R303, R306). -/
def FV.toInt : FV → Int
  | .fin s m e => signedInt s (m * 2 ^ e.toNat)
  | _ => 0

/-- The new INT32 tile word: wraps modulo 2^32 (R306). -/
def blockAddI (tile : Word) (ps : List FV) : Word := BitVec.ofInt 32 (tile.toInt + (ps.map FV.toInt).sum)

end Sys2Proof.Machine
end

