-- ==== Sys2Proof/Machine/Rendezvous.lean ====
section
/-! DEFINITION. Where lanes meet: MWAIT rounds (R407), collectives (R405, R408, R410 to R413), team
barriers (R417), release waves (R97, R98). -/
namespace Sys2Proof.Machine

/-- A lane past the instruction it waited at: PC and predicate block move on (R317). -/
def Lane.past (l : Lane) : Lane :=
  { l with
    pc := l.pc + 1
    mid := false
    wait := .none
    blk := if l.blk.left = 0 then l.blk else { l.blk with left := l.blk.left - 1, pat := l.blk.pat >>> 1 } }

/-- The bit of a lane. -/
def laneBit (l : Nat) : Word := (1 : Word) <<< l

/-- The set of lanes as a mask. -/
def maskOf (ls : List Nat) : Word := ls.foldl (fun m l => m ||| laneBit l) 0

/-- The live non-helper lanes of a warp. -/
def Warp.live (w : Warp) : List Nat :=
  (List.range 32).filter fun i => match w.lanes[i]? with
    | some l => l.life == .live
    | none => false

/-- A warp has finished when all its lanes have (R333). -/
def Warp.finished (w : Warp) : Bool := w.lanes.all fun l => l.life == .finished

/-! ## Ids that return to the pool (R277) -/

/-- A node of a context that is not FREE (R396). -/
def Ctx.node? (c : Ctx) (h : Nat) : Option Node := findKey Node.id h c.nodes

/-- Whether a lane of some warps holds an id. -/
def lanesHold (ws : List Warp) (h : Nat) : Bool := ws.any fun w => w.lanes.any fun l => l.hcur.toNat == h

/-- Whether a lane of a team of the context holds an id. -/
def State.held (s : State) (ctx h : Nat) : Bool := s.teams.any fun t => t.ctx == ctx && lanesHold t.warps h

/-- Whether a lane of a team of the context holds an id, or would after a rollback (R113). -/
def State.holds (s : State) (ctx h : Nat) : Bool :=
  s.held ctx h || s.cores.any fun k => k.undo.any fun u => lanesHold u.warps h && s.teams.any fun t => t.key == u.team && t.ctx == ctx

/-- A node refuted at once, read as `up` from then on (R398). -/
def Node.doom (up : Nat) (n : Node) : Node := { n with st := .refuted, fate := some false, up := up }

/-- A resolved id leaves the tree; what reads as it reads on as its ancestor, and what lies below it lies below that; a child
of a refuted id whose creation is on its way is refuted (R398). -/
def Ctx.freeId (c : Ctx) (h : Nat) : Ctx :=
  let up := ((c.node? h).map Node.up).getD 0
  let dead := ((c.node? h).map fun n => n.fate == some false).getD false
  { c with nodes := (c.nodes.filter fun n => n.id != h).map fun n =>
      let m := if n.parent = h && dead && n.fate.isNone then n.doom up else n
      { m with up := if m.up = h then up else m.up, parent := if m.parent = h then up else m.parent } }

/-- Whether a node's resolve has completed (R277). -/
def Node.resolved (n : Node) : Bool := (n.st == .merged || n.st == .refuted) && n.atDir

/-- Ids whose resolve has completed and that no thread holds are FREE (R277); the id returns to the pool once no rollback could
bring a holder back (R113). -/
def State.freeIds (s : State) (ctx : Nat) : State :=
  let c := s.ctx ctx
  if c.nodes.any Node.resolved then
    let ids := (c.nodes.filter fun n => n.resolved && !s.holds ctx n.id).map Node.id
    s.updCtx ctx fun c =>
      ids.foldl Ctx.freeId { c with nodes := c.nodes.map fun n => { n with loose := n.resolved && !s.held ctx n.id } }
  else s

/-! ## MWAIT -/

/-- A mask register. -/
def Warp.mask (w : Warp) (m : Nat) : Word := (w.masks[m]?).getD 0
/-- The arrived set of a mask. -/
def Warp.arrived (w : Warp) (m : Nat) : Word := (w.mwait[m]?).getD 0

/-- The round of mask `m` completes when every lane of the mask has arrived (R407). -/
def Warp.mwaitRound (w : Warp) (m : Nat) : Warp :=
  if w.arrived m ≠ 0 && (w.mask m &&& ~~~(w.arrived m)) == 0 then
    { w with
      mwait := updAt w.mwait m fun _ => 0
      lanes := w.lanes.map fun l => if l.wait = .mwait m then l.past else l }
  else w

/-! ## Collectives -/

/-- Two words combined by an operation of WRED and WSCAN (R412). -/
def redCombine (op : RedOp) (u w : Word) : Word :=
  match op with
  | .iadd => u + w
  | .imin => if u.slt w then u else w
  | .imax => if u.slt w then w else u
  | .and => u &&& w
  | .or => u ||| w
  | .xor => u ^^^ w
  | .fadd => BitVec.ofNat 32 (addF fp32 .rne u.toNat w.toNat).1
  | .fmax => BitVec.ofNat 32 (minMaxF fp32 true u.toNat w.toNat).1

/-- The identity of an operation (R412). -/
def redIdentity (op : RedOp) : Word :=
  match op with
  | .iadd => 0
  | .imin => 0x7FFFFFFF
  | .imax => 0x80000000
  | .and => 0xFFFFFFFF
  | .or => 0
  | .xor => 0
  | .fadd => 0x80000000
  | .fmax => 0x7FC00000

/-- One level of the tree: neighbours combined. -/
def treeLevel (op : RedOp) : List Word → List Word
  | u :: w :: t => redCombine op u w :: treeLevel op t
  | l => l

/-- Tree(x0..x31): five levels of neighbours (R413). -/
def redTree (op : RedOp) (xs : List Word) : Word :=
  match treeLevel op (treeLevel op (treeLevel op (treeLevel op (treeLevel op xs)))) with
  | t :: _ => t
  | [] => redIdentity op

/-- The arrival of a lane. -/
def arrOf (as : List Arrival) (l : Nat) : Option Arrival := as.find? fun a => a.lane == l

/-- The value a lane brings to a reduction (R412). -/
def redInput (op : RedOp) (as : List Arrival) (l : Nat) : Word :=
  match arrOf as l with
  | some a => if a.active then a.a else redIdentity op
  | none => redIdentity op

/-- The source lane of a quad exchange (R408). -/
def quadSource (ins : Instr) (l : Nat) : Nat :=
  match ins with
  | .qswp f => 4 * (l / 4) + (l % 4) ^^^ (f.dir.code + 1)
  | .qbc f => 4 * (l / 4) + f.n.toNat
  | _ => l

/-- The result of participant `l` at a completion (R408, R410, R411, R413). -/
def collResult (ins : Instr) (as : List Arrival) (l : Nat) (own : Word) : Word :=
  let fetch (j : Nat) : Word := match arrOf as j with
    | some a => if a.active then a.a else own
    | none => own
  let votes := (as.filter fun a => a.active && a.a != 0).map (·.lane)
  let part := (as.filter fun a => a.active).map (·.lane)
  match ins with
  | .qswp _ => fetch (quadSource ins l)
  | .qbc _ => fetch (quadSource ins l)
  | .wshfl _ => match arrOf as l with
    | some a => fetch (a.d.toNat % 32)
    | none => own
  | .wvote f => match f.op with
    | .any => if votes = [] then 0 else 1
    | .all => if votes.length = part.length then 1 else 0
    | .ballot => maskOf votes
    | .count => BitVec.ofNat 32 votes.length
  | .wred f => redTree f.op ((List.range 32).map (redInput f.op as))
  | .wscan f => redTree f.op ((List.range 32).map fun j => if j ≤ l then redInput f.op as j else redIdentity f.op)
  | _ => own

/-- What a non-member writes (R408, R410, R411, R412). -/
def nonMember (ins : Instr) (own : Word) : Word :=
  match ins with
  | .wvote _ => 0
  | _ => own

/-- The lanes of a group: of the mask, within the quad for a quad collective (R405). -/
def Warp.group (w : Warp) (m : Nat) (q : Option Nat) : List Nat :=
  (List.range 32).filter fun l => (w.mask m).getLsbD l && (match q with
    | some q => l / 4 == q
    | none => true)

/-- Every lane of the group has arrived (R405). -/
def Warp.collDone (w : Warp) (c : Coll) : Bool :=
  c.arr != [] && (w.group c.mask c.quad).all fun l => c.arr.any fun a => a.lane == l

/-- The completion of a group: every arrived active lane writes, all arrived lanes go on (R405). The group is that of the
mask as it stands now; a lane taken out of the mask while it waited writes what a non-member writes (log 68). `extra` are
the active helper lanes of the issue that completes a quad's group, with what they read. -/
def Warp.collFinish (w : Warp) (c : Coll) (extra : List Arrival) : Warp :=
  let as := (c.arr.filter fun a => (w.mask c.mask).getLsbD a.lane) ++ extra
  let w1 := (c.arr ++ extra).foldl (fun w a =>
    if a.active then w.updLane a.lane fun k =>
      k.setReg a.row (if as.contains a then collResult c.ins as a.lane a.a else nonMember c.ins a.a)
    else w) w
  let w2 := w1.updLanes (c.arr.map (·.lane)) fun _ k => k.past
  { w2 with colls := w2.colls.filter fun d => !(d.pc == c.pc && d.ins == c.ins && d.quad == c.quad) }

/-- A lane that takes a trap at a collective or an MWAIT it waits at has not arrived there any more (log 67). -/
def Warp.leaveMeet (w : Warp) (lane : Nat) : Warp :=
  { w with
    mwait := w.mwait.map fun m => m &&& ~~~laneBit lane
    colls := (w.colls.map fun c => { c with arr := c.arr.filter fun a => a.lane != lane }).filter fun c => c.arr != [] }

/-- Every group that is complete finishes, without helpers (an exit or a mask change completed it). -/
def Warp.collRetest (w : Warp) : Warp :=
  w.colls.foldl (fun w c => if w.collDone c then w.collFinish c [] else w) w

/-- MWAIT rounds and collectives re-tested after a mask change or an exit (R405 to R407). -/
def Warp.retest (w : Warp) : Warp := ((List.range 12).foldl Warp.mwaitRound w).collRetest

/-! ## Barriers -/

def Team.bar (t : Team) (b : Nat) : Barrier := (t.barriers[b]?).getD {}
def Team.setBar (t : Team) (b : Nat) (x : Barrier) : Team := { t with barriers := updAt t.barriers b fun _ => x }

/-- The partial arrivals of a warp. -/
def Barrier.part (x : Barrier) (w : Nat) : Word := ((x.partials.find? fun p => p.1 == w).map (·.2)).getD 0
/-- The phase in which a warp's latest arrival was counted. -/
def Barrier.latestOf (x : Barrier) (w : Nat) : Option Nat := (x.latest.find? fun p => p.1 == w).map (·.2)

/-- Whether an arrival set makes the warp arrive: it holds every live lane (R417). -/
def arrivesWith (w : Warp) (set : Word) : Bool := w.live.all fun l => set.getLsbD l

/-- Whether the warp can take one more arrival: not counted in both phases (R417). -/
def Barrier.room (x : Barrier) (w : Nat) : Bool := !(x.counted.contains w && x.next.contains w)

/-- A warp's arrival counted in the current phase, or held for the next; its waiting lanes now wait for
that phase (R417). -/
def Team.barCountWarp (t : Team) (b w : Nat) : Team :=
  let x := t.bar b
  let p := if x.counted.contains w then x.phase + 1 else x.phase
  let x1 := { x with
    counted := if x.counted.contains w then x.counted else x.counted ++ [w]
    next := if x.counted.contains w then x.next ++ [w] else x.next
    partials := x.partials.filter fun q => q.1 != w
    latest := (w, p) :: x.latest.filter fun q => q.1 != w }
  (t.setBar b x1).updWarp w fun k =>
    { k with lanes := k.lanes.map fun l => if l.wait = .barPart b then { l with wait := .bar b p } else l }

/-- Lanes of a warp arrive on a barrier (R417). -/
def Team.barArrive (t : Team) (b w : Nat) (set : Word) : Team :=
  let x := t.bar b
  let s := x.part w ||| set
  let t1 := t.setBar b { x with partials := (w, s) :: x.partials.filter fun q => q.1 != w }
  match t1.warpAt w with
  | some k => if arrivesWith k s && x.room w then t1.barCountWarp b w else t1
  | none => t1

/-- Whether a lane waits on barrier `b` for a phase below `p`. -/
def Lane.waitsBelow (l : Lane) (b p : Nat) : Bool :=
  match l.wait with
  | .bar c q => c == b && decide (q < p)
  | _ => false

/-- Whether a lane waits on barrier `b`. -/
def Lane.waitsOn (l : Lane) (b : Nat) : Bool :=
  match l.wait with
  | .bar c _ => c == b
  | .barPart c => c == b
  | .barHeld c => c == b
  | _ => false

/-- Whether any lane of the team waits on barrier `b`. -/
def Team.barWaits (t : Team) (b : Nat) : Bool := t.warps.any fun w => w.lanes.any fun l => l.waitsOn b

/-- The tick at which the first wait of the phase began is kept while lanes wait (R418). -/
def Team.barWatch (t : Team) (b tick : Nat) : Team :=
  let x := t.bar b
  if t.barWaits b then
    match x.firstWait with
    | some _ => t
    | none => t.setBar b { x with firstWait := some tick, paused := 0 }
  else t.setBar b { x with firstWait := none, paused := 0 }

/-- Warps of a team with a lane that waits on barrier `b` for a phase below `p`, ascending. -/
def Team.barReleased (t : Team) (b p : Nat) : List Nat :=
  (List.range 33).filter fun w => t.warps.any fun k => k.id == w && k.lanes.any fun l => l.waitsBelow b p

/-- Lanes released by an opening: a movement program at once, warps as the flag says: at once, or marked
for the release stepper (R97, R98, R447). -/
def Team.barLetGo (t : Team) (b p : Nat) (waves : Bool) : Team :=
  { t with warps := t.warps.map fun w =>
      { w with lanes := w.lanes.map fun l =>
          if l.waitsBelow b p then (if waves && w.role != .movement then { l with wait := .wave } else l.past) else l } }

/-- The opening of a barrier whose current phase is full (R417): the phase flips, arrivals held for the
next phase count, waiting lanes are released, lanes of a third arrival try again. -/
def Team.barOpen (t : Team) (b tick : Nat) (waves : Bool) : Team :=
  let x := t.bar b
  let t1 := t.setBar b { x with phase := x.phase + 1, counted := x.next, next := [], firstWait := none, paused := 0 }
  let t2 := t1.barLetGo b (x.phase + 1) waves
  let again (w : Warp) : Warp := { w with lanes := w.lanes.map fun l => if l.wait = .barHeld b then { l with wait := .none } else l }
  let t3 := { t2 with warps := t2.warps.map again }
  t3.barWatch b tick

/-- A barrier tested for opening, at most `n` times (R417). -/
def Team.barTest (t : Team) (b expected tick : Nat) (waves : Bool) : Nat → Team × List Nat
  | 0 => (t, [])
  | n + 1 =>
    let x := t.bar b
    if expected ≠ 0 && decide (expected ≤ x.counted.length) then
      let rel := if waves then (t.barReleased b (x.phase + 1)).filter (· < 32) else []
      let r := (t.barOpen b tick waves).barTest b expected tick waves n
      (r.1, rel ++ r.2)
    else (t, [])

/-! ## Release waves -/

/-- Lanes of a warp that stand released leave (R97). -/
def Warp.waveGo (w : Warp) : Warp := { w with held := false, lanes := w.lanes.map fun l => if l.wait = .wave then l.past else l }

/-- The first `n` warps of the releases, oldest first, and the releases that remain (R97). -/
def takeWave : Nat → List Release → List (Nat × Nat) × List Release
  | _, [] => ([], [])
  | 0, rs => ([], rs)
  | n + 1, r :: rs =>
    let k := r.warps.take (n + 1)
    let rest := r.warps.drop (n + 1)
    if rest = [] then
      let q := takeWave (n + 1 - k.length) rs
      (k.map (fun w => (r.team, w)) ++ q.1, q.2)
    else (k.map (fun w => (r.team, w)), { r with warps := rest } :: rs)

/-- The cycle of a stepper's next wave, in thousandths: that of the oldest release, or STEP_CYCLES after the wave before (R97). -/
def Cluster.waveTime (c : Cluster) (r : Release) : Nat :=
  match c.lastWave with
  | none => r.at_
  | some k => Nat.max r.at_ (k + 1000 * Nat.max c.stepCycles.toNat 1)

/-- One wave of a cluster's release stepper (R97, R104). With WAVE_WARPS 0 everything leaves (R98). -/
def waveOf (s : State) (cl : Nat) : State :=
  let c := s.cluster cl
  match c.releases with
  | [] => s
  | h :: _ =>
    let n := if c.waveWarps = 0 then (c.releases.map (·.warps.length)).sum else Nat.min c.waveWarps.toNat 32
    let r := takeWave n c.releases
    let s1 := s.updCluster cl fun c => { c with releases := r.2, lastWave := some (c.waveTime h) }
    r.1.foldl (fun s p => s.updTeam p.1 fun t => t.updWarp p.2 Warp.waveGo) s1

/-- Whether the next wave of a cluster is due: its cycle is over, so that every release of that cycle has come (R97, R98). -/
def waveDue (s : State) (cl : Nat) : Bool :=
  let c := s.cluster cl
  match c.releases with
  | [] => false
  | h :: _ => c.waveWarps == 0 || decide ((c.waveTime h / 1000 + 1) * 1000 ≤ c.kcyc)

/-- The waves of a cluster that are due, at most `n`. -/
def wavesOf (s : State) (cl : Nat) : Nat → State
  | 0 => s
  | n + 1 => if waveDue s cl then wavesOf (waveOf s cl) cl n else s

/-- A release in its place: after those of earlier cycles and those of lower cores in its cycle (R97). -/
def queueRelease (rs : List Release) (r : Release) : List Release :=
  let behind (x : Release) : Bool := x.at_ / 1000 == r.at_ / 1000 && decide (r.core < x.core)
  (rs.filter fun x => !behind x) ++ [r] ++ rs.filter behind

/-- A release given to the stepper. With WAVE_WARPS 0 it leaves at once (R98); else its first wave leaves when it is
due (R97). -/
def giveRelease (s : State) (core team : Nat) (warps : List Nat) : State :=
  if warps = [] then s
  else
    let s1 := s.updCluster (core / 4) fun c => { c with
      releases := queueRelease c.releases { team := team, warps := warps, core := core, at_ := c.kcyc } }
    if (s.cluster (core / 4)).waveWarps = 0 then waveOf s1 (core / 4) else s1

/-- Every barrier of a team tested; what opens is released (R97, R417). -/
def barSettle (s : State) (core team : Nat) : State :=
  match s.team? team with
  | none => s
  | some t =>
    match s.grid? t.grid with
    | none => s
    | some g =>
      let waves := (s.cluster (core / 4)).waveWarps != 0
      let r := (List.range 16).foldl (fun (p : Team × List Nat) b =>
        let t0 := p.1.warps.foldl (fun t w =>
          if ((t.bar b).part w.id) ≠ 0 && arrivesWith w ((t.bar b).part w.id) && !w.finished && (t.bar b).room w.id
          then t.barCountWarp b w.id else t) p.1
        let q := (t0.barWatch b s.tick).barTest b (g.record.barCount b) s.tick waves 2
        (q.1, p.2 ++ q.2)) (t, [])
      giveRelease (s.updTeam team fun _ => r.1) core team r.2

/-- Everything a change of lanes or masks of a warp may complete (R405 to R407, R417). -/
def settleTeam (s : State) (core team warp : Nat) : State :=
  barSettle (s.updTeam team fun t => t.updWarp warp Warp.retest) core team

end Sys2Proof.Machine
end

