-- ==== Sys2Proof/Machine/Translate.lean ====
section
/-! DEFINITION. What a program address denotes: the address map (R240 to R244), translation (R49, R50,
R246, R247; log 4), physical addresses and peers (R22 to R24), and the tests of R380. -/
namespace Sys2Proof.Machine

/-! ## The address map (R241) -/

/-- The spaces of R241, with offsets. -/
inductive Space where
  | global
  | own (off : Nat)
  | hall (core off : Nat)
  | alias_ (x : Nat)
  | priv (off : Nat)
  | none
  deriving DecidableEq, Repr

/-- The space of a 64-bit address (R240, R241). -/
def spaceOf (a : Nat) : Space :=
  if a < 0x01F0000000000000 then .global
  else if a < 0x01F0000000080000 then .own (a - 0x01F0000000000000)
  else if 0x01F1000000000000 ≤ a && a < 0x01F1000000400000 && (a - 0x01F1000000000000) % 2 ^ 20 < 2 ^ 19 then
    .hall ((a - 0x01F1000000000000) / 2 ^ 20) ((a - 0x01F1000000000000) % 2 ^ 20)
  else if 0x01F4000000000000 ≤ a && a < 0x01F5000000000000 then .alias_ (a - 0x01F4000000000000)
  else if 0x01F8000000000000 ≤ a && a < 0x01F8000000010000 then .priv (a - 0x01F8000000000000)
  else .none

/-- The code ISPACE writes (R391). -/
def Space.code : Space → Nat
  | .global => 0
  | .own _ => 1
  | .hall _ _ => 2
  | .alias_ _ => 3
  | .priv _ => 4
  | .none => 5

/-! ## Translation (R49, R246, R247) -/

/-- The kinds of access, with the codes of R250. -/
inductive Kind where
  | read | write | atomic | copySrc | copyDst | layoutSrc | layoutDst | fetch
  deriving DecidableEq, Repr

def Kind.code : Kind → Nat
  | .read => 0
  | .write => 1
  | .atomic => 2
  | .copySrc => 3
  | .copyDst => 4
  | .layoutSrc => 5
  | .layoutDst => 6
  | .fetch => 0

/-- Whether an access writes. -/
def Kind.writes : Kind → Bool
  | .write => true
  | .atomic => true
  | .copyDst => true
  | .layoutDst => true
  | _ => false

/-- Why a walk ends without a leaf: a fault of a stage, or a leaf of 512 GiB or more (R49). -/
inductive WalkEnd where
  | fault (stage : Nat)
  | big
  deriving DecidableEq, Repr

/-- A leaf: page number of the 4 KiB page, how many such pages the leaf maps, permissions, and the A and D updates of
the walk (locations and bits to set); through two stages also the guest page and the span of the second stage's leaf. -/
structure Leaf where
  page : Nat
  span : Nat := 1
  gpage : Nat := 0
  gspan : Nat := 1
  r : Bool
  w : Bool
  x : Bool
  d : Bool
  upd : List (Nat × Nat)
  deriving DecidableEq, Repr

/-- The A and D bits an access sets in a leaf (R247). -/
def adBits (writes : Bool) : Nat := if writes then 0xC0 else 0x40

/-- One level of a walk at table `base`: level `n` counts from 4 at the root to 0; `conv` places a table
address in physical memory; `user` asks for the U bit (Sv57x4); a leaf of 512 GiB or more ends a SIMT walk and
serves an application core (R49). The layout of an entry is that of RISC-V; the memory types of Svpbmt, bits [62:61], change
no effect, and a reserved one is a fault of an application core (R45; log 4). -/
def walkFrom (simt : Bool) (mem : List Host.Cell) (conv : Nat → Except WalkEnd (Nat × List (Nat × Nat))) (stage : Nat) (user writes : Bool)
    (top page : Nat) : Nat → Nat → List (Nat × Nat) → Except WalkEnd Leaf
  | n, base, upd =>
    let idx := page / 512 ^ n % (if n = 4 then top else 512)
    match conv (base + 8 * idx) with
    | .error e => .error e
    | .ok (loc, u) =>
      let pte := leNum (memBytes mem loc 8)
      let ppn := pte / 2 ^ 10 % 2 ^ 44
      if pte % 2 = 0 || (pte / 4 % 2 = 1 && pte / 2 % 2 = 0) || pte / 2 ^ 54 % 128 ≠ 0 ||
          !simt && (pte / 2 ^ 61 % 4 = 3 || (pte / 2 % 8 = 0 && pte / 2 ^ 61 % 4 ≠ 0)) then .error (.fault stage)
      else if pte / 2 % 2 = 1 || pte / 8 % 2 = 1 then
        if simt && decide (3 ≤ n) then .error .big
        else if user && pte / 16 % 2 = 0 then .error (.fault stage)
        else if ppn % 512 ^ n ≠ 0 && pte / 2 ^ 63 = 0 then .error (.fault stage)
        else if pte / 2 ^ 63 % 2 = 1 && (n ≠ 0 || ppn % 16 ≠ 8) then .error (.fault stage)
        else
          let low := if pte / 2 ^ 63 % 2 = 1 then 16 else 512 ^ n
          .ok { page := ppn - ppn % low + page % low, span := low, r := pte / 2 % 2 = 1, w := pte / 4 % 2 = 1, x := pte / 8 % 2 = 1,
                d := pte / 128 % 2 = 1, upd := upd ++ u ++ [(loc, adBits writes)] }
      else
        match n with
        | 0 => .error (.fault stage)
        | m + 1 => walkFrom simt mem conv stage user writes top page m (ppn * 4096) (upd ++ u)

/-- A physical location of this device's memory, for a table (R22). R50 lets a leaf entry name a peer and says nothing of a
table: a root or a pointer whose page number has PEER bits is a fault of its stage here, as is one beyond the memory (log 73). -/
def tableAt (a : Nat) (stage : Nat) : Except WalkEnd (Nat × List (Nat × Nat)) :=
  if a < 0x00C000000000 then .ok (a, []) else .error (.fault stage)

/-- Whether a leaf lets an access through. -/
def Leaf.permits (l : Leaf) : Kind → Bool
  | .read => l.r
  | .copySrc => l.r
  | .layoutSrc => l.r
  | .write => l.w
  | .copyDst => l.w
  | .layoutDst => l.w
  | .atomic => l.r && l.w
  | .fetch => l.x

/-- The mode of a satp or hgatp value: 10 is Sv57 and Sv57x4, 0 is no translation (log 4). -/
def atpMode (v : Nat) : Nat := v / 2 ^ 60

/-- The root table of a satp or hgatp value. -/
def atpRoot (v : Nat) : Nat := v % 2 ^ 44 * 4096

/-- A guest page through the second stage (Sv57x4). -/
def walk2 (simt : Bool) (mem : List Host.Cell) (hgatp : Nat) (writes : Bool) (page : Nat) : Except WalkEnd Leaf :=
  if atpMode hgatp = 0 then .ok { page := page, r := true, w := true, x := true, d := true, upd := [] }
  else if 2 ^ 47 ≤ page then .error (.fault 2)
  else walkFrom simt mem (fun a => tableAt a 2) 2 true writes 2048 page 4 (atpRoot hgatp / 16384 * 16384) []

/-- A guest-physical address of a first-stage table through the second stage. -/
def conv1 (simt : Bool) (mem : List Host.Cell) (hgatp : Nat) (a : Nat) : Except WalkEnd (Nat × List (Nat × Nat)) :=
  match walk2 simt mem hgatp false (a / 4096) with
  | .error e => .error e
  | .ok l =>
    if !l.r then .error (.fault 2)
    else match tableAt (l.page * 4096 + a % 4096) 2 with
      | .error e => .error e
      | .ok (loc, _) => .ok (loc, l.upd)

/-- A virtual page through both stages for an access. -/
def walkPage (simt : Bool) (mem : List Host.Cell) (satp hgatp : Nat) (k : Kind) (page : Nat) : Except WalkEnd Leaf :=
  let first : Except WalkEnd Leaf :=
    if atpMode satp = 0 then .ok { page := page, r := true, w := true, x := true, d := true, upd := [] }
    else if atpMode satp = 10 then walkFrom simt mem (conv1 simt mem hgatp) 1 false k.writes 512 (page % 2 ^ 45) 4 (atpRoot satp) []
    else .error (.fault 1)
  match first with
  | .error e => .error e
  | .ok l1 =>
    if !l1.permits k then .error (.fault 1)
    else
      match walk2 simt mem hgatp k.writes l1.page with
      | .error e => .error e
      | .ok l2 =>
        if !l2.permits k then .error (.fault 2)
        else .ok { page := l2.page, span := l1.span, gpage := l1.page, gspan := l2.span, r := l1.r && l2.r, w := l1.w && l2.w, x := l1.x && l2.x,
                   d := k.writes || (l1.d && l2.d), upd := l1.upd ++ l2.upd }

/-- The Sv57 address of a global program address: bits [63:57] equal bit 56 (R246). -/
def sv57 (a : Nat) : Nat := if a / 2 ^ 56 % 2 = 1 then a + (2 ^ 64 - 2 ^ 57) else a

/-- What an access uses: where it goes, the bits it sets in page-table entries, and the translation it
may leave in a translation cache (R247). -/
structure Use1 where
  loc : Nat
  upd : List (Nat × Nat) := []
  tlb : List TlbEntry := []
  deriving DecidableEq, Repr

/-- How an address is answered. -/
inductive Answer where
  /-- an offset of the own scratchpad -/
  | own (off : Nat)
  /-- an offset of another team's scratchpad -/
  | hall (team off : Nat)
  | phys (u : Use1)
  | trap (cause : Nat)
  /-- PAGE toward a peer that no link reaches (R24) -/
  | noPeer (peer : Nat)
  /-- a recoverable fault of a stage (R248) -/
  | park (stage : Nat)
  deriving DecidableEq, Repr

/-- Whether a cached translation serves an access. -/
def TlbEntry.serves (e : TlbEntry) : Kind → Bool
  | .read => e.readable
  | .copySrc => e.readable
  | .layoutSrc => e.readable
  | .write => e.writable
  | .copyDst => e.writable
  | .layoutDst => e.writable
  | .atomic => e.readable && e.writable
  | .fetch => e.executable

/-- The cached translation of a page. -/
def State.tlbOf (s : State) (ctx vpage : Nat) (k : Kind) : Option TlbEntry :=
  s.tlb.find? fun e => e.ctx == ctx && e.vpage == vpage && e.serves k

/-- Whether a location lies on a peer (R23). -/
def isPeer (loc : Nat) : Bool := 2 ^ 48 ≤ loc && loc < 2 ^ 56

/-- The 128 B line of a location. -/
def lineOf (loc : Nat) : Nat := loc / 128

/-- Links of a peer's egress mask that are up; one that retrains is up still (R24, R30, R33). -/
def State.upLinks (s : State) (peer : Nat) : List Nat :=
  match s.peers.find? (fun p => p.num == peer) with
  | some p => (s.links.filter fun l => l.up && p.mask.getLsbD l.num).map Link.num
  | none => []

/-- Whether a location belongs to a partition's memory (R22, R77). -/
def Part.owns (p : Part) (loc : Nat) : Bool := p.ranges.any fun r => decide (r.1 ≤ loc) && decide (loc < r.1 + r.2)

/-- Whether a location belongs to a partition that is being torn down: traffic to it completes with error (R125). -/
def State.torn (s : State) (loc : Nat) : Bool := s.parts.any fun p => p.down && p.owns loc

/-- A system physical address: nonzero [63:56] and undecoded local addresses are PROT, peers that cannot
be reached and peers under clamping are PAGE, as is memory under teardown (R22, R23, R24, R125, R279). -/
def State.physical (s : State) (clamped : Bool) (a : Nat) (u : Use1) : Answer :=
  if a / 2 ^ 56 ≠ 0 then .trap causePROT
  else if a / 2 ^ 48 = 0 then
    (if a < 0x00C000000000 then (if s.torn a then .trap causePAGE else .phys u) else .trap causePROT)
  else if clamped then .trap causePAGE
  else if s.upLinks (a / 2 ^ 48) = [] then .noPeer (a / 2 ^ 48)
  else if a % 2 ^ 48 < 0x00C000000000 then .phys u
  else .trap causePROT

/-- A global address translated for a context (R49, R246 to R248). -/
def State.translate (s : State) (ctx : Nat) (clamped : Bool) (k : Kind) (a : Nat) : Answer :=
  let va := sv57 a
  match s.tlbOf ctx (va / 4096) k with
  | some e => s.physical clamped (e.ppage * 4096 + va % 4096) { loc := e.ppage * 4096 + va % 4096 }
  | none =>
    let c := s.ctx ctx
    match walkPage true s.mem c.satp c.hgatp k (va / 4096) with
    | .error (.fault st) => .park st
    | .error .big => .trap causePAGE
    | .ok l =>
      let pa := l.page * 4096 + va % 4096
      s.physical clamped pa
        { loc := pa, upd := l.upd
          tlb := if s.env.keep then
              [{ ctx := ctx, vpage := va / 4096, ppage := l.page, readable := l.r, writable := l.w && l.d, executable := l.x }]
            else [] }

/-! ## Private memory (R242 to R244) -/

/-- The location of a private byte: team pools lie above every system physical address (log 3). -/
def privLoc (team lane bytes off : Nat) : Nat := 2 ^ 56 + team * 2 ^ 26 + lane * bytes + off

/-- The alias of a private address (R243). -/
def aliasOf (t : Team) (g : Grid) (warp lane off : Nat) : Nat :=
  0x01F4000000000000 + t.slot * 2 ^ 26 + (warp * 32 + lane) * g.record.privateBytes + off

/-- Whether a team holds its private slot: until its last warp exits (R243). -/
def Team.holdsSlot (t : Team) : Bool := t.place != .gone && t.warps.any fun w => w.role != .movement && !w.finished

/-- A live team of the context that holds a private slot (R243, R244). -/
def State.slotTeam (s : State) (ctx slot : Nat) : Option Team :=
  s.teams.find? fun t => t.ctx == ctx && t.slot == slot && t.holdsSlot

/-- An alias answered: PROT in the cases of R244. -/
def State.aliasAt (s : State) (ctx x size : Nat) : Answer :=
  match s.slotTeam ctx (x / 2 ^ 26) with
  | none => .trap causePROT
  | some t =>
    match s.grid? t.grid with
    | none => .trap causePROT
    | some g =>
      let pb := g.record.privateBytes
      let r := x % 2 ^ 26
      if pb = 0 then .trap causePROT
      else if !(t.warps.any fun w => w.id == r / pb / 32 && w.id < 32) then .trap causePROT
      else if pb < r % pb + size then .trap causePROT
      else .phys { loc := privLoc t.key (r / pb) pb (r % pb) }

/-! ## The tests of an address (R380) -/

/-- The team of the same hall on a core-in-cluster (R179, R241). -/
def State.hallTeam (s : State) (i : Iss) (c : Nat) : Option Team :=
  if !i.grid.record.hall then none
  else s.teams.find? fun t =>
    t.grid == i.team.grid && t.index / i.grid.record.hallTeams == i.team.index / i.grid.record.hallTeams &&
    (t.cores.contains (4 * (i.core / 4) + c))

/-- An own-scratchpad offset (R219). -/
def Iss.ownAt (i : Iss) (off size : Nat) : Answer :=
  if i.grid.record.scratchBytes < off + size then .trap causeSCRB else .own off

/-- A hall offset; one that names the executing team acts on its own scratchpad (R219, R384). -/
def State.hallAt (s : State) (i : Iss) (c off size : Nat) : Answer :=
  match s.hallTeam i c with
  | none => .trap causeSCRB
  | some t =>
    if i.grid.record.scratchBytes < off + size then .trap causeSCRB
    else if t.key = i.team.key then .own off else .hall t.key off

/-- A private offset of the executing lane (R242). -/
def Iss.privAt (i : Iss) (lane off size : Nat) : Answer :=
  if i.movement || i.grid.record.privateBytes < off + size then .trap causePROT
  else .phys { loc := privLoc i.team.key (i.warp.id * 32 + lane) i.grid.record.privateBytes off }

/-- The tests 1 to 4 and 5 of R380 for a generic address: `hint` says whether CH is nonzero. -/
def State.generic (s : State) (i : Iss) (k : Kind) (lane size : Nat) (hint : Bool) (a : Nat) : Answer :=
  match spaceOf a with
  | .none => .trap causePROT
  | sp =>
    if a % size ≠ 0 then .trap causeALN
    else
      match sp with
      | .own off =>
        match i.ownAt off size with
        | .trap c => .trap c
        | r => if hint then .trap causeILL else r
      | .hall c off =>
        match s.hallAt i c off size with
        | .trap c => .trap c
        | r => if hint then .trap causeILL else r
      | .priv off =>
        match i.privAt lane off size with
        | .trap c => .trap c
        | r => if hint then .trap causeILL else r
      | .alias_ x => if i.movement && k.writes then .trap causePROT else s.aliasAt i.team.ctx x size
      | _ => s.translate i.team.ctx i.grid.clamped k a

/-- The tests for a scratchpad offset (R384). -/
def State.scratchAt (s : State) (i : Iss) (size o : Nat) : Answer :=
  if o % size ≠ 0 then .trap causeALN
  else if o / 2 ^ 23 ≠ 0 then .trap causeSCRB
  else if o / 2 ^ 22 % 2 = 0 then i.ownAt o size
  else if o / 2 ^ 19 % 2 = 1 then .trap causeSCRB
  else s.hallAt i (o / 2 ^ 20 % 4) (o % 2 ^ 19) size

/-- The tests for a private offset (R385): beyond the window it is PROT before its alignment is looked at. -/
def State.privateAt (_ : State) (i : Iss) (lane size o : Nat) : Answer :=
  if 0x10000 ≤ o then .trap causePROT
  else if o % size ≠ 0 then .trap causeALN
  else i.privAt lane o size

end Sys2Proof.Machine
end

