-- ==== Sys2Proof/Machine/Flits.lean ====
section
/-! DEFINITION. The CRC-32 of the device (R28), flits on the links, the retry buffers and the requests to peers that
they carry (R24, R27, R29 to R33). -/
namespace Sys2Proof.Machine

/-! ## CRC-32 (R28) -/

/-- `n` bits through the reflected polynomial. -/
def crcBits : Nat → Word → Word
  | 0, c => c
  | n + 1, c => crcBits n (if c.getLsbD 0 then (c >>> 1) ^^^ 0xEDB88320 else c >>> 1)

/-- The CRC-32 of bytes from an initial value, before the final inversion. -/
def crcFrom (init : Word) (bs : List Byte) : Word :=
  bs.foldl (fun c b => crcBits 8 (c ^^^ b.setWidth 32)) init

/-- The CRC-32 of R28. -/
def crc32 (bs : List Byte) : Word := ~~~crcFrom 0xFFFFFFFF bs

/-! ## Flits (R27, R29, R31) -/

/-- `a - b` modulo 4,096 (R27). -/
def sub12 (a b : Nat) : Nat := (a + 4096 - b % 4096) % 4096

/-- A link of a number, and a change of it. -/
def State.link? (s : State) (n : Nat) : Option Link := findKey Link.num n s.links
def State.updLink (s : State) (n : Nat) (f : Link → Link) : State := { s with links := updKey Link.num n f s.links }

/-- Whether a link carries flits (R30). -/
def Link.carries (l : Link) : Bool := l.up && l.retrainAt.isNone

/-- The ACK field: the last flit accepted, its valid bit, and the retry request (R27). -/
def Link.ackField (l : Link) (retry : Bool) : Nat :=
  (if l.heard || retry then sub12 l.rxSeq 1 else 0) + (if l.heard then 2 ^ 12 else 0) + (if retry then 2 ^ 13 else 0)

/-- The payload bytes of a message; an idle flit carries none (R27). -/
def payloadOf : PeerMsg → List Byte
  | .none => []
  | m => Config.payload m

/-- The 256 bytes of a flit (R27, R28). -/
def flitBytes (seq ack cls : Nat) (m : PeerMsg) : List Byte :=
  let body := leList 2 seq ++ leList 2 ack ++ leList 1 cls ++ leList 3 0 ++ padTo 244 (payloadOf m)
  body ++ leList 4 (crc32 body).toNat

/-- A held flit goes out on its link, with the acknowledgement of this instant. -/
def State.transmit (s : State) (l : Link) (f : Flit) : State := s.emit (.flit l.num (flitBytes f.seq (l.ackField false) f.cls f.msg))

/-- An idle flit: it carries an acknowledgement or a retry request, has the number of the next flit and takes
none (R27, R29; log 58). -/
def State.sendIdle (s : State) (n : Nat) (retry : Bool) : State :=
  match s.link? n with
  | some l => s.emit (.flit n (flitBytes l.txSeq (l.ackField retry) 0 .none))
  | none => s

/-- The link on which a flit may be sent now: the one its line's hash names among those that are up, while it carries
flits, has room, and no other link holds a flit of the line (R29 to R31, R33). -/
def State.linkFor (s : State) (f : Flit) : Option Link :=
  let ups := s.upLinks f.peer
  let n := (ups[Config.linkHash f.line % Nat.max ups.length 1]?).getD 16
  s.links.find? fun l => l.num == n && l.carries && decide (l.buf.length < 64) &&
    !(s.links.any fun k => k.num != n && k.buf.any fun g => g.line == f.line)

/-- A flit enters the retry buffer of a link and goes out. -/
def State.enterLink (s : State) (f : Flit) (l : Link) : State :=
  (s.updLink l.num fun x => { x with buf := x.buf ++ [{ f with seq := x.txSeq }], txSeq := (x.txSeq + 1) % 4096 }).transmit l
    { f with seq := l.txSeq }

/-- Since when no link toward a peer is up, for the flits that wait (R30). -/
def State.watchPeers (s : State) : State :=
  { s with stranded := s.stranded.map fun (w : Stranded) =>
      { w with since := if s.upLinks w.peer = [] then some (w.since.getD s.tick) else none } }

/-- Flits that wait for a link toward a peer, with more behind them. -/
def State.strand (s : State) (peer : Nat) (fs : List Flit) : State :=
  ({ s with stranded := updOr Stranded.peer peer { peer := peer, flits := [] } (fun w => { w with flits := w.flits ++ fs }) s.stranded }).watchPeers

/-- A flit is sent, or waits behind those that wait for a link toward its peer (R29 to R31). -/
def State.sendFlit (s : State) (f : Flit) : State :=
  match (if s.stranded.any fun w => w.peer == f.peer then none else s.linkFor f) with
  | some l => s.enterLink f l
  | none => s.strand f.peer [f]

/-- The first waiting flits of a peer are sent while their links have room, in order. -/
def State.sendSome (s : State) : List Flit → State × List Flit
  | [] => (s, [])
  | f :: fs => match s.linkFor f with
    | some l => (s.enterLink f l).sendSome fs
    | none => (s, f :: fs)

/-- What waits is sent where a link has room for it (R30, R31). -/
def State.pump (s : State) : State :=
  let s0 := s.watchPeers
  s0.stranded.foldl (fun s w =>
    let r := { s with stranded := s.stranded.filter fun x => x.peer != w.peer }.sendSome w.flits
    if r.2 = [] then r.1 else { r.1 with stranded := r.1.stranded ++ [{ w with flits := r.2 }] }) s0

/-! ## Requests (R32, R33) -/

/-- The PEER value of a line of system physical memory (R23). -/
def peerOf (line : Nat) : Nat := line / 2 ^ 41

/-- The LOCAL part of a location (R23). -/
def localOf (loc : Nat) : Nat := loc % 2 ^ 48

/-- A request for a line of a peer: its number is fresh, and its answer is awaited. -/
def State.ask (s : State) (cls line : Nat) (who : Asker) (lanes : List Nat) (m : Nat → PeerMsg) : State :=
  let a : Ask := { tag := s.nextKey, cls := cls, peer := peerOf line, line := line, who := who, lanes := lanes }
  ({ s.takeKey with asks := s.asks ++ [a] }).sendFlit { seq := 0, cls := cls, peer := peerOf line, line := line, msg := m s.nextKey }

/-- The distinct peer lines of locations. -/
def peerLines (locs : List Nat) : List Nat := ((locs.filter isPeer).map lineOf).eraseDups

/-- Read requests for peer lines, one each (R32). -/
def State.askLines (s : State) (who : Asker) (locs : List Nat) : State :=
  (peerLines locs).foldl (fun s l => s.ask 1 l who [] fun t => .read Config.identity t (localOf (128 * l)) 128) s

/-- Read requests for lines of peers that an asker has not asked for yet (R31, R32). -/
def State.askOnce (s : State) (who : Asker) (locs : List Nat) : State :=
  s.askLines who (locs.filter fun l => !(s.asks.any fun a => a.who == who && a.line == lineOf l))

/-- A byte of a line that a peer has sent, among lines by number. -/
def lineByte (lines : List (Nat × List Byte)) (loc : Nat) : Option Byte :=
  (lines.find? fun l => l.1 == lineOf loc).map fun l => (l.2[loc % 128]?).getD 0

/-- A line sent by a peer takes the place of what it sent before. -/
def putLine (lines : List (Nat × List Byte)) (line : Nat) (bytes : List Byte) : List (Nat × List Byte) :=
  (lines.filter fun l => l.1 != line) ++ [(line, bytes)]

/-- Writes of a class to peers, one flit for each line (R27, R32). -/
def State.sendWrites (s : State) (cls : Nat) (who : Asker) (cells : List (Nat × Byte)) : State :=
  (peerLines (cells.map Prod.fst)).foldl (fun s l => s.ask cls l who [] fun t =>
    .write Config.identity t ((cells.filter fun c => isPeer c.1 && lineOf c.1 == l).map fun c => (localOf c.1, c.2))) s

/-- The core a request comes from. -/
def Asker.core? : Asker → Option Nat
  | .thread c _ _ _ => some c
  | .copy c _ => some c
  | .waitc c _ => some c
  | .mat c _ _ => some c
  | _ => none

/-- The access or operation a request belongs to. -/
def Asker.key? : Asker → Option Nat
  | .thread _ _ _ k => some k
  | .copy _ k => some k
  | .waitc _ k => some k
  | _ => none

/-- Whether a request of an access or operation, of a class that a test picks, is not answered. -/
def State.asked (s : State) (p : Nat → Bool) (key : Nat) : Bool := s.asks.any fun a => p a.cls && a.who.key? == some key

/-- Whether an access of a core toward a peer is not answered (R257). -/
def State.peerBusy (s : State) (core : Nat) : Bool := s.asks.any fun a => a.who.core? == some core

end Sys2Proof.Machine
end

