-- ==== Sys2Proof/Machine/Coherence.lean ====
section
/-! DEFINITION. Which values bytes have: hypothesis paths and versions (R272, R275, R276), the core's own
stores (R255), publication (R256 to R258), engine ownership (R269, R271), faults parked on the fault queue
(R248, R249). -/
namespace Sys2Proof.Machine

/-! ## Tags -/

/-- The path a thread with HCUR `h` reads along: from `h` to the root, past merged and refuted ids (R272,
R275, R276). -/
def Ctx.pathFrom (c : Ctx) : Nat → Nat → List Nat
  | 0, _ => [0]
  | n + 1, h =>
    if h = 0 then [0]
    else match c.node? h with
      | none => [0]
      | some k => if k.fate.isSome then c.pathFrom n k.up else h :: c.pathFrom n k.parent

def Ctx.path (c : Ctx) (h : Nat) : List Nat := c.pathFrom 256 h

/-- The tag a write under `h` carries: the nearest unmerged ancestor; none when the write is discarded
(R275, R276). -/
def Ctx.writeTagFrom (c : Ctx) : Nat → Nat → Option Nat
  | 0, _ => some 0
  | n + 1, h =>
    if h = 0 then some 0
    else match c.node? h with
      | none => some 0
      | some k => match k.fate with
        | none => some h
        | some true => c.writeTagFrom n k.up
        | some false => none

def Ctx.writeTag (c : Ctx) (h : Nat) : Option Nat := c.writeTagFrom 256 h

/-- Whether bytes tagged (`c`, `t`) are those of tag `tag` of context `ctx`: tag 0 is one committed store. -/
def sameTag (c t ctx tag : Nat) : Bool := t == tag && (tag == 0 || c == ctx)

/-! ## Reading -/

/-- The last byte written at a location in a list of writes. -/
def lastAt (cells : List (Nat × Byte)) (loc : Nat) : Option Byte :=
  cells.foldl (fun o c => if c.1 = loc then some c.2 else o) none

/-- The bytes a held effect stores under a tag (R255). -/
def heldAt (e : Eff) (ctx tag loc : Nat) : Option Byte :=
  match e with
  | .store c t cells _ => if sameTag c t ctx tag then lastAt cells loc else none
  | _ => none

/-- The core's youngest store to a byte under a tag: in the outbound hold, or core-dirty (R255). -/
def Core.youngest (k : Core) (ctx tag loc : Nat) : Option Byte :=
  match k.hold.reverse.findSome? (fun h => heldAt h.eff ctx tag loc) with
  | some b => some b
  | none => (k.dirty.find? fun d => d.loc == loc && sameTag d.ctx d.tag ctx tag).map Dirty.val

/-- A byte of a hypothesis version (R274). -/
def State.verByte (s : State) (ctx tag loc : Nat) : Option Byte :=
  match s.vers.find? (fun v => v.ctx == ctx && v.id == tag) with
  | some v => (v.cells.find? fun c => c.1 == loc).map (·.2)
  | none => none

/-- A committed byte as L2 has it; a peer's byte is whatever the peer holds (log 7). -/
def State.baseByte (s : State) (loc : Nat) : Byte := if isPeer loc then Config.peerByte loc s.nonce else memByte s.mem loc

/-- A byte as the directory sees it along a path (R272). -/
def State.dirByte (s : State) (ctx loc : Nat) : List Nat → Byte
  | [] => s.baseByte loc
  | t :: ts =>
    if t = 0 then s.baseByte loc
    else match s.verByte ctx t loc with
      | some b => b
      | none => s.dirByte ctx loc ts

/-- A byte that a store of the core or a version decides for a thread along its path; none where committed data at L2
does (R255, R272). -/
def State.decidedByte (s : State) (k : Core) (ctx loc : Nat) : List Nat → Option Byte
  | [] => none
  | t :: ts =>
    match k.youngest ctx t loc with
    | some b => some b
    | none =>
      if t = 0 then none
      else match s.verByte ctx t loc with
        | some b => some b
        | none => s.decidedByte k ctx loc ts

/-- A byte as a thread of a core sees it along its path (R255, R272). -/
def State.threadByte (s : State) (k : Core) (ctx loc : Nat) (path : List Nat) : Byte :=
  (s.decidedByte k ctx loc path).getD (s.baseByte loc)

/-- The value of `n` bytes at a location for a thread (R254, R255, R272). -/
def State.loadLoc (s : State) (core ctx : Nat) (path : List Nat) (loc n : Nat) : Nat :=
  leNum ((List.range n).map fun j => s.threadByte (s.core core) ctx (loc + j) path)

/-- Whether the read of a byte goes to the checker cache: no store of the core decides it (R255). -/
def Core.undecided (k : Core) (ctx : Nat) (path : List Nat) (loc : Nat) : Bool :=
  !(path.any fun t => (k.youngest ctx t loc).isSome)

/-- Whether an engine owns the line for a version on the path (R269, R271). -/
def State.ownedOn (s : State) (ctx : Nat) (path : List Nat) (loc : Nat) : Bool :=
  s.owned.any fun o => o.line == lineOf loc && path.any fun t => sameTag o.ctx o.tag ctx t

/-! ## Writing at L2 -/

/-- A committed byte written in this device's memory, which ends reservations of its line; a peer's byte goes there in a flit
(R22, R32). -/
def State.writeLoc (s : State) (loc : Nat) (b : Byte) : State :=
  if isPeer loc then s else { s with mem := sset (0 : Byte) s.mem loc b, resv := s.resv.filter fun r => r.2 != lineOf loc }

/-- A byte of a version written; bytes of one version are a map (R274). -/
def setVer (vs : List Version) (ctx tag loc : Nat) (b : Byte) : List Version :=
  if vs.any (fun v => v.ctx == ctx && v.id == tag) then
    vs.map fun v => if v.ctx = ctx ∧ v.id = tag then { v with cells := sinsert (serase v.cells loc) loc b } else v
  else vs ++ [{ ctx := ctx, id := tag, cells := [(loc, b)] }]

/-- A byte written at the directory under a tag. -/
def State.writeTagged (s : State) (ctx tag loc : Nat) (b : Byte) : State :=
  if tag = 0 then s.writeLoc loc b else { s with vers := setVer s.vers ctx tag loc b }

def State.writeAll (s : State) (ctx tag : Nat) (cells : List (Nat × Byte)) : State :=
  cells.foldl (fun s c => s.writeTagged ctx tag c.1 c.2) s

/-- Committed bytes written where they lie: in this device's memory, or at peers in flits of a class (R32). -/
def State.commitBytes (s : State) (cls : Nat) (who : Asker) (cells : List (Nat × Byte)) : State :=
  (s.writeAll 0 0 cells).sendWrites cls who cells

/-! ## Publication (R256 to R258) -/

/-- A core-dirty line of a version: its core, its tag with the context of a tag that is not 0, the line. -/
structure DirtyLine where
  core : Nat
  ctx : Nat
  tag : Nat
  line : Nat
  deriving DecidableEq, Repr

/-- The line a core-dirty byte lies in. -/
def Dirty.lineOn (d : Dirty) (core : Nat) : DirtyLine :=
  { core := core, ctx := if d.tag = 0 then 0 else d.ctx, tag := d.tag, line := lineOf d.loc }

/-- Whether two core-dirty lines are copies of one line. -/
def DirtyLine.copyOf (a b : DirtyLine) : Bool := a.core != b.core && a.ctx == b.ctx && a.tag == b.tag && a.line == b.line

/-- Every core-dirty line, and whether a byte of it was written before its core's most recent release. -/
def State.dirtyLines (s : State) : List (DirtyLine × Bool) :=
  s.cores.flatMap fun k => k.dirty.map fun d => (d.lineOn k.num, d.before)

/-- Lines chosen for publication with those they draw with them: copies in other L1s, which are invalidated first
(R256), and with any line of a core its lines written before its most recent release (R258, R261). -/
def drawn (all : List (DirtyLine × Bool)) (ks : List DirtyLine) : List DirtyLine :=
  ((all.filter fun x => ks.any fun k => k == x.1 || k.copyOf x.1 || (k.core == x.1.core && x.2)).map Prod.fst).eraseDups

/-- The closure of `drawn`. -/
def drawnAll (all : List (DirtyLine × Bool)) : Nat → List DirtyLine → List DirtyLine
  | 0, ks => ks
  | n + 1, ks => drawnAll all n (drawn all ks)

/-- A write of a whole line clears its poison (R117). -/
def State.unpoison (s : State) (locs : List Nat) : State :=
  { s with poison := s.poison.filter fun l => !((List.range 128).all fun j => locs.contains (128 * l + j)) }

/-- A line becomes poisoned (R117, R439). -/
def State.poisonLine (s : State) (l : Option Nat) : State :=
  match l with
  | some l => if s.poison.contains l then s else { s with poison := s.poison ++ [l] }
  | none => s

/-- A core writes chosen lines to L2: those of peers go there; the poison of a line travels with it (R117, R256). -/
def State.writeOut (s : State) (core : Nat) (ks : List DirtyLine) : State :=
  let k := s.core core
  let ds := k.dirty.filter fun d => ks.contains (d.lineOn core)
  let bad := k.poison.filter fun l => ds.any fun d => lineOf d.loc == l
  let s1 := s.updCore core fun k => { k with
    dirty := k.dirty.filter fun d => !ks.contains (d.lineOn core)
    poison := k.poison.filter fun l => !bad.contains l }
  let s2 := ds.foldl (fun s d => s.writeTagged d.ctx d.tag d.loc d.val) s1
  let out := ds.filter fun d => d.tag == 0
  let s3 := ((out.map fun d => (d.team, d.warp)).eraseDups).foldl (fun s o =>
    s.sendWrites 3 (.thread core o.1 o.2 0) ((out.filter fun d => d.team == o.1 && d.warp == o.2).map fun d => (d.loc, d.val))) s2
  bad.foldl (fun s l => s.poisonLine (some l)) (s3.unpoison (out.map Dirty.loc))

/-- Lines of a core are published, after the other cores' lines that they draw with them (R256, R258). -/
def State.publish (s : State) (core : Nat) (ks : List DirtyLine) : State :=
  let all := s.dirtyLines
  let ks := drawnAll all all.length ks
  (((s.cores.map Core.num).filter fun c => c != core && ks.any fun k => k.core == c) ++ [core]).foldl (fun s c => s.writeOut c ks) s

/-- A core publishes all its lines (R257). -/
def State.publishAll (s : State) (core : Nat) : State :=
  s.publish core ((s.core core).dirty.map fun d => d.lineOn core)

/-- A core publishes lines, and what it wrote before its most recent release (R256, R258, R261). -/
def State.forceCore (s : State) (core : Nat) (lines : List Nat) : State :=
  s.publish core (((s.core core).dirty.filter fun d => d.before || lines.contains (lineOf d.loc)).map fun d => d.lineOn core)

/-- An acquire or an atomic of core `me` reaches locations: every other core that holds one of the lines
core-dirty publishes (R258, R268). -/
def State.forceOthers (s : State) (me : Option Nat) (locs : List Nat) : State :=
  let lines := locs.map lineOf
  s.cores.foldl (fun s k =>
    if some k.num ≠ me && k.dirty.any (fun d => lines.contains (lineOf d.loc)) then s.forceCore k.num lines else s) s

/-- Bytes that leave the hold of a core lie core-dirty in its L1 (R256). -/
def addDirty (tick ctx tag team warp : Nat) (before : Bool) (ds : List Dirty) (cells : List (Nat × Byte)) : List Dirty :=
  cells.foldl (fun ds c =>
    if ds.any (fun d => d.loc == c.1 && sameTag d.ctx d.tag ctx tag) then
      ds.map fun d => if d.loc = c.1 ∧ sameTag d.ctx d.tag ctx tag then { d with val := c.2, before := d.before || before, team := team, warp := warp } else d
    else ds ++ [{ ctx := ctx, tag := tag, loc := c.1, val := c.2, tick := tick, before := before, team := team, warp := warp }]) ds

/-- Bytes that leave the hold enter the core's L1 (R254, R256): before a release to the own scratchpad that waits for
them (R384), where there is one; a whole line written clears its poison (R117). -/
def State.enterL1 (s : State) (core ctx tag team warp : Nat) (before : Bool) (cells : List (Nat × Byte)) : State :=
  s.updCore core fun k => { k with
    dirty := addDirty s.tick ctx tag team warp before k.dirty cells
    poison := if tag = 0 then k.poison.filter fun l => !((List.range 128).all fun j => cells.any fun c => c.1 == 128 * l + j) else k.poison }

/-- The release side of an effect that leaves a core: at core scope its stores are marked, to be published with any line
that another core asks for (R258), unless the effect acts outside the core, where no earlier store may come later
than it (R261); at a wider scope they are published (R257). -/
def State.releaseAt (s : State) (core : Nat) (rel : Option Scope) (outside : Bool) : State :=
  match rel with
  | none => s
  | some sc =>
    if sc == .core && !outside then s.updCore core fun k => { k with dirty := k.dirty.map fun d => { d with before := true } }
    else s.publishAll core

/-! ## Releases to the own scratchpad (R257, R384) -/

/-- Whether a release to a core's own scratchpad still waits: for held effects before it, or at system scope for peers to
acknowledge what it covers. -/
def State.relOpen (s : State) (core : Nat) : Bool := (s.core core).stsRel != 0 || ((s.core core).stsSys && s.peerBusy core)

/-- The core whose release the effect at the head of a core's hold waits for: an atomic 200 ticks old at a scratchpad of the
hall. -/
def State.waitsOnRel (s : State) (core : Nat) : Option Nat :=
  match (s.core core).hold with
  | h :: _ => match h.eff with
    | .atom _ (some t) _ _ => if s.tick < h.tick + 200 then none
        else ((s.team? t).bind Team.core?).bind fun c => if s.relOpen c then some c else none
    | _ => none
  | [] => none

/-- Whether cores that wait for one another's releases come back to a core within `n` steps (log 70). -/
def State.relCycle (s : State) (core : Nat) : Nat → Nat → Bool
  | 0, _ => false
  | n + 1, c => match s.waitsOnRel c with
    | some d => d == core || s.relCycle core n d
    | none => false

/-! ## Version slots (R274) -/

/-- The (id, line) pairs of a context that hold a version slot: versions at L2, and each core's own. -/
def State.slotsUsed (s : State) (ctx : Nat) : Nat :=
  let l2 := (s.vers.filter fun v => v.ctx == ctx).map fun v => ((v.cells.map fun c => lineOf c.1).eraseDups).length
  let own := s.cores.map fun k =>
    (((k.dirty.filter fun d => d.ctx == ctx && d.tag != 0).map fun d => (d.tag, lineOf d.loc)) ++
      (k.hold.flatMap fun h => match h.eff with
        | .store c t cells _ => if c = ctx ∧ t ≠ 0 then cells.map fun x => (t, lineOf x.1) else []
        | .atom c none _ r => if c = ctx then (r.parts.filter fun p => p.tag != 0).map fun p => (p.tag, lineOf p.loc) else []
        | _ => [])).eraseDups.length
  l2.sum + own.sum

/-- Whether the core already has a version of a line under a tag. -/
def State.hasVersion (s : State) (core ctx tag line : Nat) : Bool :=
  let k := s.core core
  tag == 0 || k.dirty.any (fun d => d.ctx == ctx && d.tag == tag && lineOf d.loc == line) ||
  k.hold.any fun h => match h.eff with
    | .store c t cells _ => c == ctx && t == tag && cells.any fun x => lineOf x.1 == line
    | .atom c none _ r => c == ctx && r.parts.any fun p => p.tag == tag && lineOf p.loc == line
    | _ => false

/-- The first lane whose write finds no version slot (R274): `ws` lists lanes with their tag and line. -/
def State.slotFull (s : State) (i : Iss) (ws : List (Nat × Nat × Nat)) : Option Nat :=
  let free := i.grid.record.hoaBytes / 256 - s.slotsUsed i.team.ctx
  (ws.foldl (fun (p : List (Nat × Nat) × Option Nat) w =>
    match p.2 with
    | some l => (p.1, some l)
    | none =>
      if s.hasVersion i.core i.team.ctx w.2.1 w.2.2 || p.1.contains w.2 then p
      else if p.1.length < free then (w.2 :: p.1, none)
      else (p.1, some w.1)) ([], none)).2

/-! ## Effects of an access -/

/-- The page-table bits and cached translations of the accesses that complete (R247). -/
def State.useAll (s : State) (us : List Use1) : State :=
  let m := (us.flatMap Use1.upd).foldl (fun m p =>
    let b := memByte m p.1
    sset (0 : Byte) m p.1 (b ||| BitVec.ofNat 8 p.2)) s.mem
  { s with mem := m, tlb := (us.flatMap Use1.tlb).foldl (fun t e => if t.contains e then t else t ++ [e]) s.tlb }

/-- The fault-queue entry of a fault, made when there is none and the queue has room (R249). -/
def State.faultEntry (s : State) (ctx page stage kind va : Nat) : State × Option Nat :=
  let vf := (s.ctx ctx).vf
  let q := (s.vf vf).faults
  match q.find? (fun e => e.ctx == ctx && e.page == page && e.stage == stage && e.kind == kind) with
  | some e => (s, some e.serial)
  | none =>
    if 1024 ≤ q.length then (s, none)
    else
      let n := (s.vf vf).serial
      (s.updVf vf fun v => { v with
        serial := v.serial + 1
        faults := v.faults ++ [{ serial := n, ctx := ctx, page := page, stage := stage, kind := kind, va := va }] }, some n)

/-- Lanes of a warp park on the fault queue: (lane, address, stage) (R248, R249). -/
def State.parkLanes (s : State) (i : Iss) (k : Kind) (fs : List (Nat × Nat × Nat)) : State :=
  fs.foldl (fun s f =>
    let r := s.faultEntry i.team.ctx (sv57 f.2.1 / 4096) f.2.2 k.code f.2.1
    r.1.updTeam i.team.key fun t => t.updWarp i.warp.id fun w => w.updLane f.1 fun l => { l with wait := .fault r.2 f.2.1 }) s

/-- SCOPECLAMP counts a clamped instruction (R279). -/
def State.countClamp (s : State) (i : Iss) (ord : MemOrd) (scp : Scope) : State :=
  if i.grid.clamped && ord != .rlx && scp == .system then
    s.updCtx i.team.ctx fun c => { c with clamp := satInc c.clamp }
  else s

/-- The scope in force (R279). -/
def Iss.scope (i : Iss) (scp : Scope) : Scope := if i.grid.clamped && scp == .system then .device else scp

/-- Whether a scope is cluster or wider (R214). -/
def scopeWide : Scope → Bool
  | .core => false
  | _ => true

def acquires : MemOrd → Bool
  | .acq => true
  | .acqrel => true
  | _ => false

def releases : MemOrd → Bool
  | .rel => true
  | .acqrel => true
  | _ => false

/-- Whether the hold has room for `n` more effects; a node's creation takes no entry (R214, R397). -/
def State.holdRoom (s : State) (core n : Nat) : Bool :=
  ((s.core core).hold.countP fun h => match h.eff with
    | .node _ _ => false
    | _ => true) + n ≤ 512

/-- Effects pushed into the outbound hold (R214). -/
def State.pushHold (s : State) (i : Iss) (es : List Eff) : State :=
  if es = [] then s
  else s.updCore i.core fun k =>
    { k with hold := k.hold ++ es.map fun e => { tick := s.tick, team := i.team.key, warp := i.warp.id, eff := e } }

/-- Whether a fence, an acquiring atomic or a load from a peer that the lane must wait for is not done (R33, R259,
R260): still held, or not answered. -/
def State.fenced (s : State) (i : Iss) (l : Nat) : Bool :=
  (i.warp.lane l).fence.any fun key => s.asked (fun _ => true) key || (s.core i.core).hold.any fun h => match h.eff with
    | .fence k _ _ => k == key
    | .atom _ _ _ r => r.key == key
    | _ => false

/-- Whether a scratchpad line of a team is absent (R221). -/
def Team.absentAt (t : Team) (off : Nat) : Bool := t.absent.any fun a => a.1 == off / 128

end Sys2Proof.Machine
end

