-- ==== Sys2Proof/Machine/Events.lean ====
section
/-! DEFINITION. Accesses of the device itself to a context's memory, the error log and the black-box
record (R67, R68, R131), and the event ring of a virtual function (R161). -/
namespace Sys2Proof.Machine

/-! ## Accesses of the device (R137, R139, R145) -/

/-- A guest virtual address as the device reaches it for a context: none on a fault. -/
def State.devAt (s : State) (ctx : Nat) (k : Kind) (va : Nat) : Option Use1 :=
  if 0x01F0000000000000 ≤ va then none
  else match s.translate ctx false k va with
    | .phys u => some u
    | _ => none

/-- The places of `n` bytes: none when one faults. -/
def State.devRange (s : State) (ctx : Nat) (k : Kind) (va : Nat) : Nat → Option (List Use1)
  | 0 => some []
  | n + 1 =>
    match s.devAt ctx k va, s.devRange ctx k (va + 1) n with
    | some u, some us => some (u :: us)
    | _, _ => none

/-- An acquire read of `n` bytes at device scope (R258): committed data. -/
def State.devRead (s : State) (ctx va n : Nat) : Option (State × List Byte) :=
  match s.devRange ctx .read va n with
  | none => none
  | some us =>
    let locs := us.map Use1.loc
    let s1 := (((s.forceOthers none locs).useAll us).askLines .device locs).takeNonce
    some (s1, locs.map s1.baseByte)

/-- A release store of bytes at device scope. -/
def State.devWrite (s : State) (ctx va : Nat) (bs : List Byte) : Option State :=
  match s.devRange ctx .write va bs.length with
  | none => none
  | some us =>
    let locs := us.map Use1.loc
    let s1 := (s.forceOthers none locs).useAll us
    some ((s1.commitBytes 3 .device (locs.zip bs)).unpoison locs)

/-- A committed write at system physical addresses: the firmware's, an application core's, a peer's. -/
def State.physWrite (s : State) (who : Asker) (a : Nat) (bs : List Byte) : State :=
  let cells := layAt a bs
  ((s.forceOthers none (cells.map (·.1))).commitBytes 3 who cells).unpoison (cells.map (·.1))

/-- A read at physical addresses of this device. -/
def State.physRead (s : State) (a n : Nat) : State × List Byte :=
  let locs := (List.range n).map (a + ·)
  let s1 := s.forceOthers none locs
  (s1, locs.map s1.baseByte)

/-! ## The error log and the black-box record (R67, R68) -/

/-- The black-box record freezes (R68). -/
def State.freeze (s : State) : State := { s with frozen := true }

/-- An event is logged: in the error log always, in the black-box record while it is not frozen; an event of
severity 3 freezes the record, itself included in it (R67, R68). -/
def State.logEvent (s : State) (kind sev source part : Nat) (detail : List Byte) : State :=
  let e : Event := { tick := s.tick, source := source, kind := kind, part := part, sev := sev, seq := s.evSeq, detail := padTo 16 detail }
  let s1 := { s with
    evSeq := (s.evSeq + 1) % 65536
    errLog := (e :: s.errLog).take 65536
    blackBox := if s.frozen then s.blackBox else (e :: s.blackBox).take 4096 }
  if sev = 3 then s1.freeze else s1

/-- SOURCE of a core: complex 0, unit 4 × cluster + core-in-cluster (R490). -/
def sourceOfCore (core : Nat) : Nat := core
/-- SOURCE of a unit of a complex. -/
def sourceOf (complex unit : Nat) : Nat := complex * 4096 + unit

/-- The partition of a virtual function, 255 for none. -/
def State.partOfVf (s : State) (vf : Nat) : Nat := ((s.vf vf).part).getD 255

/-- The firmware core that serves a partition (R57); core 0 where no partition owns what is handled (R64). -/
def fwOf (part : Nat) : Nat := if part = 255 then 0 else part % 8

/-! ## The event ring (R161) -/

/-- The context through which a function's event ring is reached: the function's lowest-numbered one (log 13). -/
def State.ringCtx (s : State) (vf : Nat) : Option Nat :=
  (s.queues.filter fun q => q.vf == vf).foldl (fun m q => match m with
    | some c => some (Nat.min c q.ctx)
    | none => some q.ctx) none

/-- The 32 bytes of an event (R161). -/
def eventBytes (tick kind queue gate value : Nat) (detail : List Byte) : List Byte :=
  leList 8 tick ++ leList 2 kind ++ leList 1 queue ++ leList 1 gate ++ leList 4 value ++ padTo 16 detail

/-- An event dropped (R161). -/
def State.dropEvent (s : State) (vf : Nat) : State := s.updVf vf fun v => { v with evtLost := satInc v.evtLost }

/-- An event posted to a virtual function, and whether it was; dropped without a ring or without room, and
where the ring cannot be written (R161; log 13). -/
def State.postTry (s : State) (vf kind queue gate value : Nat) (detail : List Byte) : State × Bool :=
  let v := s.vf vf
  if v.evtBase = 0 || v.evtTail - v.evtHead = 128 then (s.dropEvent vf, false)
  else match s.ringCtx vf with
    | none => (s.dropEvent vf, false)
    | some c =>
      match s.devWrite c (v.evtBase.toNat + 32 * (v.evtTail.toNat % 128)) (eventBytes s.tick kind queue gate value detail) with
      | none => (s.dropEvent vf, false)
      | some s1 => (s1.updVf vf fun v => { v with evtTail := v.evtTail + 1 }, true)

def State.post (s : State) (vf kind queue gate value : Nat) (detail : List Byte) : State :=
  (s.postTry vf kind queue gate value detail).1

/-! ## Tenant counters (R122, R123) -/

/-- The counters of a function changed. -/
def State.count (s : State) (vf : Nat) (f : Counters → Counters) : State := s.updVf vf fun v => { v with cnt := f v.cnt }

/-- Functions assigned to a partition. -/
def State.vfsOf (s : State) (part : Nat) : List Nat := (s.vfs.filter fun v => v.part == some part).map Vf.num

/-- An error counted where it is attributed, else in SHARED of every function of the partition (R122). -/
def State.attribute (s : State) (vf : Option Nat) (part : Nat) (f : Counters → Counters) : State :=
  match vf with
  | some v => s.count v f
  | none => (s.vfsOf part).foldl (fun s v => s.count v fun c => { c with shared := satInc c.shared }) s

/-- Every filter of corrected errors is cleared (R121). -/
def State.clearFilters (s : State) : State :=
  { s with clearedAt := s.tick, chans := s.chans.map fun (c : Channel) => { c with cbf := [] } }

/-! ## Idle states (R99, R100) -/

/-- Exit latency of C1 to C4 in µs (R99). -/
def exitMicros (n : Nat) : Nat := ([0, 2, 40, 2000, 50000][n]?).getD 50000

/-- The exit of a partition from its idle state begins, unless one is under way (R100). -/
def Part.beginExit (p : Part) (tick : Nat) : Part :=
  if p.idle = 0 || p.wakeAt.isSome then p else { p with wakeAt := some (tick + 1000 * exitMicros p.idle.toNat) }
def State.beginExit (s : State) (part : Nat) : State := { s with parts := updKey Part.num part (fun p => p.beginExit s.tick) s.parts }

/-- A write to a notify register of a function, or a resolved fault of it, begins the exit of its partition (R100). -/
def State.wakeVf (s : State) (vf : Nat) : State := s.beginExit (s.partOfVf vf)

/-! ## Clusters of a partition (R19, R77) -/

/-- Whether a partition starts work: it accepts commands and is neither quiesced nor in an idle state (R99, R100, R124, R128). -/
def Part.places (p : Part) : Bool := p.accepting && !p.quiet && p.idle == 0 && p.wakeAt.isNone

/-- A resource of a gallery (R19): the members numbered `per * g` on. -/
def galleryOf (per n : Nat) : Nat := n / per

/-- The stack of a channel, and its die (R20). -/
def stackOf (channel : Nat) : Nat := channel / 32
def dieOf (stack : Nat) : Nat := stack / 3

/-- Bytes of a channel (R20). -/
def channelBytes : Nat := 2 ^ 31

/-- Whether a unit exists: 384 cores, 192 L2 slices, 384 channels, of 32 in each of the twelve stacks of the four dies
(R19, R20). -/
def unitOk : ErrUnit → Bool
  | .core n => decide (n < 384)
  | .slice n => decide (n < 192)
  | .channel n => decide (stackOf n < 12) && decide (dieOf (stackOf n) < 4)

/-- The gallery of a unit: eight cores in two clusters, four slices and eight channels each (R19). -/
def unitGallery : ErrUnit → Nat
  | .core n => galleryOf 8 n
  | .slice n => galleryOf 4 n
  | .channel n => galleryOf 8 n

/-- A unit in the form of SOURCE (R67, R490). -/
def unitSource : ErrUnit → Nat
  | .core n => n
  | .slice n => sourceOf 3 (1024 + n)
  | .channel n => sourceOf 3 n

/-- The partition of a gallery, 255 for none (R77). -/
def State.galleryPart (s : State) (g : Nat) : Nat := ((s.parts.find? fun p => p.galleries.getLsbD g).map Part.num).getD 255

/-- The channels of a partition (R19), and the bytes they hold (R20). -/
def Part.channels (p : Part) : List Nat := (List.range 384).filter fun c => p.galleries.getLsbD (galleryOf 8 c)
def Part.bytes (p : Part) : Nat := channelBytes * p.channels.length

/-- Clusters 2g and 2g + 1 of the galleries of a partition, ascending. -/
def Part.clusters (p : Part) : List Nat :=
  (List.range 96).filter fun c => p.galleries.getLsbD (c / 2)

/-- Cores of a partition, ascending. -/
def Part.coreNums (p : Part) : List Nat := p.clusters.flatMap fun c => [4 * c, 4 * c + 1, 4 * c + 2, 4 * c + 3]

end Sys2Proof.Machine
end

