-- ==== Sys2Proof/Machine/Harts.lean ====
section
/-! DEFINITION. The application cores as registers, CSRs, traps and IMSIC files (R45 to R48). What the spec takes from RISC-V by name (CSR numbers, trap entry, causes) has the
numbers and rules of RISC-V (log 60). -/
namespace Sys2Proof.Machine

/-! ## Registers and CSRs (R45, R47) -/

/-- An application core by its number, and a change of it. -/
def State.hart? (s : State) (n : Nat) : Option Hart := findKey Hart.num n s.harts
def State.updHart (s : State) (n : Nat) (f : Hart → Hart) : State := { s with harts := updKey Hart.num n f s.harts }

/-- An integer register; x0 reads as 0. -/
def Hart.getX (h : Hart) (n : Nat) : Nat := (sget (0 : DWord) h.x n).toNat

/-- A register written; x0 discards the write. -/
def Hart.put (h : Hart) (r : HReg) (v : Nat) : Hart :=
  match r with
  | .x n => if n = 0 || 32 ≤ n then h else { h with x := sset (0 : DWord) h.x n (BitVec.ofNat 64 v) }
  | .f n => if 32 ≤ n then h else { h with f := sset (0 : DWord) h.f n (BitVec.ofNat 64 v) }
  | .v n => if 32 ≤ n then h else { h with v := sset (0 : BitVec 512) h.v n (BitVec.ofNat 512 v) }

/-- Whether a guest runs on the core (R46). -/
def Hart.virt (h : Hart) : Bool :=
  match h.mode with
  | .vs => true
  | .vu => true
  | _ => false

/-- An IMSIC file: one that delivers and whose lowest pending and enabled identity lies under its threshold signals (R48). -/
def Imsic.top (f : Imsic) : Nat :=
  (f.pending.filter fun n => f.enabled.contains n && (f.threshold == 0 || decide (n < f.threshold))).foldl
    (fun m n => if m = 0 || n < m then n else m) 0
def Imsic.signals (f : Imsic) : Bool := f.delivery && f.top != 0

/-- A CSR by its own number, whatever the mode. -/
def Hart.rawCsr (h : Hart) (n : Nat) : Nat := (sget (0 : DWord) h.csr n).toNat
def Hart.rawSet (h : Hart) (n v : Nat) : Hart := { h with csr := sset (0 : DWord) h.csr n (BitVec.ofNat 64 v) }

/-- The IMSIC file that serves a mode: the supervisor's, or the guest's that hstatus.VGEIN names. -/
def Hart.fileFor (h : Hart) (guest : Bool) : Option Imsic :=
  if guest then (let n := h.rawCsr 0x600 / 2 ^ 12 % 64; if n = 0 then none else findKey Imsic.num n h.files)
  else findKey Imsic.num 0 h.files

/-- The time that a guest reads (R47, under htimedelta). -/
def State.guestTime (s : State) (h : Hart) : Nat := (s.tick + h.rawCsr 0x605) % 2 ^ 64

/-- The pending interrupts: what is stored, the timers of Sstc once they are reached, where they are enabled, and the IMSIC
files that signal (R45, R48). -/
def State.mip (s : State) (h : Hart) : Nat :=
  let bit (b : Nat) (on : Bool) : Nat := if on then 2 ^ b else 0
  let stce := (h.rawCsr 0x30A).testBit 63
  let file (g : Bool) : Bool := ((h.fileFor g).map Imsic.signals).getD false
  [bit 5 (stce && decide (h.rawCsr 0x14D ≤ s.tick)), bit 9 (file false), bit 10 (file true),
    bit 6 (stce && (h.rawCsr 0x60A).testBit 63 && decide (h.rawCsr 0x24D ≤ s.guestTime h))].foldl Nat.lor (h.rawCsr 0x344)

/-- A view of a CSR: where it is stored, how far it is shifted there, the bits it shows and those that a write changes. -/
structure CsrView where
  home : Nat
  shift : Nat := 0
  mask : Nat := 2 ^ 64 - 1
  wmask : Nat := 2 ^ 64 - 1
  deriving DecidableEq, Repr

/-- Where a CSR is stored: the supervisor's views of the machine's registers, a guest's own supervisor registers, and the two
parts of fcsr. -/
def Hart.csrHome (h : Hart) (n : Nat) : CsrView :=
  let n := if h.virt && (n / 256 == 1) then n + 0x100 else n
  if n = 0x100 then { home := 0x300, mask := 0x80000003000DE762, wmask := 0x80000003000DE762 }
  else if n = 0x104 then { home := 0x304, mask := 0x222, wmask := 0x222 }
  else if n = 0x144 then { home := 0x344, mask := 0x222, wmask := 0x002 }
  else if n = 0x204 then { home := 0x304, shift := 1, mask := 0x222, wmask := 0x222 }
  else if n = 0x244 then { home := 0x344, shift := 1, mask := 0x222, wmask := 0x002 }
  else if n = 0x604 then { home := 0x304, mask := 0x1444, wmask := 0x1444 }
  else if n = 0x644 then { home := 0x344, mask := 0x1444, wmask := 0x004 }
  else if n = 0x645 then { home := 0x344, mask := 0x444, wmask := 0x444 }
  else if n = 0x001 then { home := 0x003, mask := 31, wmask := 31 }
  else if n = 0x002 then { home := 0x003, shift := 5, mask := 7, wmask := 7 }
  else { home := n }

/-- 64 bits of a set of numbers. -/
def numsFrom (ns : List Nat) (first : Nat) : Nat :=
  (List.range 64).foldl (fun m j => if ns.contains (first + j) then m + 2 ^ j else m) 0

/-- A register that siselect names (R45): eidelivery, eithreshold, and the pending and enabled identities, 64 a register. -/
def Imsic.reg (f : Imsic) (n : Nat) : Nat :=
  if n = 0x70 then (if f.delivery then 1 else 0)
  else if n = 0x72 then f.threshold
  else if 0x80 ≤ n && decide (n < 0xC0) then numsFrom f.pending (32 * (n - 0x80))
  else if 0xC0 ≤ n && decide (n < 0x100) then numsFrom f.enabled (32 * (n - 0xC0))
  else 0

/-- 64 members of a set of numbers replaced; number 0 is no identity. -/
def putNums (ns : List Nat) (first v : Nat) : List Nat :=
  (ns.filter fun n => !(decide (first ≤ n) && decide (n < first + 64))) ++
    (((List.range 64).filter v.testBit).map (first + ·)).filter (· != 0)

/-- A register that siselect names written. -/
def Imsic.putReg (f : Imsic) (n v : Nat) : Imsic :=
  if n = 0x70 then { f with delivery := v % 2 == 1 }
  else if n = 0x72 then { f with threshold := v }
  else if 0x80 ≤ n && decide (n < 0xC0) then { f with pending := putNums f.pending (32 * (n - 0x80)) v }
  else if 0xC0 ≤ n && decide (n < 0x100) then { f with enabled := putNums f.enabled (32 * (n - 0xC0)) v }
  else f

/-- Whether a CSR number is sireg or stopei, as the mode sees them, and whether it is the guest's. -/
def Hart.imsicCsr (h : Hart) (n : Nat) : Option (Bool × Bool) :=
  if n = 0x151 then some (false, h.virt) else if n = 0x15C then some (true, h.virt)
  else if n = 0x251 then some (false, true) else if n = 0x25C then some (true, true) else none

/-- The value of a CSR: `time` reads the tick counter, a guest's under htimedelta (R47); mhartid, vlenb and misa are the core's
own (R45); counters of cycles are open. -/
def State.csr (s : State) (h : Hart) (n : Nat) : Nat :=
  match h.imsicCsr n with
  | some (top, g) => match h.fileFor g with
    | some f => if top then f.top * 65537 else f.reg (h.rawCsr (if g then 0x250 else 0x150))
    | none => 0
  | none =>
    if n = 0xC01 then (if h.virt then s.guestTime h else s.tick % 2 ^ 64)
    else if n = 0xC00 || n = 0xC02 then Config.freeNat s.nonce % 2 ^ 64
    else if n = 0xF14 then h.num
    else if n = 0xC22 then 64
    else if n = 0x301 then 2 ^ 63 + 0x3411AD
    else
      let p := h.csrHome n
      Nat.land p.mask ((if p.home = 0x344 then s.mip h else h.rawCsr p.home) / 2 ^ p.shift)

/-- An IMSIC file of a core changed. -/
def Hart.updFile (h : Hart) (file : Nat) (f : Imsic → Imsic) : Hart := { h with files := updKey Imsic.num file f h.files }

/-- A CSR written, under the bits a write changes; a write of stopei claims the top identity. -/
def Hart.setCsr (h : Hart) (n v : Nat) : Hart :=
  match h.imsicCsr n with
  | some (top, g) => match h.fileFor g with
    | some f => h.updFile f.num fun x =>
        if top then { x with pending := x.pending.filter (· != f.top) } else x.putReg (h.rawCsr (if g then 0x250 else 0x150)) v
    | none => h
  | none =>
    let p := h.csrHome n
    let old := h.rawCsr p.home
    let m := p.wmask * 2 ^ p.shift
    h.rawSet p.home (Nat.lor (Nat.land (v * 2 ^ p.shift) m) (Nat.land old (2 ^ 64 - 1 - m % 2 ^ 64)))

/-- The privilege that a mode has over CSRs. -/
def Priv.level : Priv → Nat
  | .m => 3
  | .s => 2
  | .vs => 1
  | .u => 0
  | .vu => 0

/-- Whether a mode may read, or write, a CSR. -/
def Priv.csrOk (p : Priv) (n : Nat) (write : Bool) : Bool := decide (n / 256 % 4 ≤ p.level) && !(write && n / 1024 % 4 == 3)

/-! ## Traps (R46) -/

/-- Bits `pos` on of a word replaced by an `n`-bit value. -/
def putBits (w pos n v : Nat) : Nat := w - w / 2 ^ pos % 2 ^ n * 2 ^ pos + v % 2 ^ n * 2 ^ pos

/-- The code of a mode in MPP, SPP: U 0, S 1, M 3. -/
def Priv.code : Priv → Nat
  | .m => 3
  | .s => 1
  | .vs => 1
  | .u => 0
  | .vu => 0

/-- A trap taken: into M-mode, or where it is delegated to HS-mode or on to VS-mode, with pc, cause and value saved. -/
def Hart.trapped (h : Hart) (cause tval : Nat) : Hart :=
  let into (base : Nat) (md : Priv) (cause : Nat) (h : Hart) : Hart :=
    let h1 := ((h.rawSet (base + 0x41) h.pc.toNat).rawSet (base + 0x42) cause).rawSet (base + 0x43) tval
    { h1 with pc := BitVec.ofNat 64 (h.rawCsr (base + 5) / 4 * 4), mode := md }
  let st := h.rawCsr 0x300
  let irq := decide (2 ^ 63 ≤ cause)
  let deleg (exc int : Nat) : Bool := (h.rawCsr (if irq then int else exc)).testBit (cause % 2 ^ 63)
  if h.mode = .m || !deleg 0x302 0x303 then
    into 0x300 .m cause (h.rawSet 0x300 (putBits (putBits (putBits (putBits st 7 1 (st / 8)) 3 1 0) 11 2 h.mode.code) 39 1 (if h.virt then 1 else 0)))
  else if h.virt && deleg 0x602 0x603 then
    let v := h.rawCsr 0x200
    let cause := if irq then cause - 1 else cause
    into 0x200 .vs cause (h.rawSet 0x200 (putBits (putBits (putBits v 5 1 (v / 2)) 1 1 0) 8 1 h.mode.code))
  else
    into 0x100 .s cause ((h.rawSet 0x300 (putBits (putBits (putBits st 5 1 (st / 2)) 1 1 0) 8 1 h.mode.code)).rawSet 0x600
      (putBits (h.rawCsr 0x600) 7 1 (if h.virt then 1 else 0)))

/-- Whether an interrupt is taken now: it is pending and enabled, and the mode that takes it is above the core's, or is the
core's with its interrupts enabled. -/
def State.irqReady (s : State) (h : Hart) (code : Nat) : Bool :=
  let on (csr bit : Nat) : Bool := (h.rawCsr csr).testBit bit
  (s.mip h).testBit code && on 0x304 code &&
  (if !on 0x303 code then h.mode != .m || on 0x300 3
   else if !on 0x603 code then h.mode != .m && (h.mode != .s || on 0x300 1)
   else (h.mode == .vs && on 0x200 1) || h.mode == .vu)

/-- The return from the trap of the mode the core is in. -/
def Hart.returned (h : Hart) : Hart :=
  let st := h.rawCsr 0x300
  let from_ (code : Nat) (virt : Bool) : Priv :=
    if code = 3 then .m else if code = 1 then (if virt then .vs else .s) else if virt then .vu else .u
  match h.mode with
  | .m => { h.rawSet 0x300 (putBits (putBits (putBits (putBits st 3 1 (st / 128)) 7 1 1) 11 2 0) 39 1 0) with
      pc := BitVec.ofNat 64 (h.rawCsr 0x341), mode := from_ (st / 2 ^ 11 % 4) (st.testBit 39) }
  | .s => { (h.rawSet 0x300 (putBits (putBits (putBits st 1 1 (st / 32)) 5 1 1) 8 1 0)).rawSet 0x600 (putBits (h.rawCsr 0x600) 7 1 0) with
      pc := BitVec.ofNat 64 (h.rawCsr 0x141), mode := from_ (st / 2 ^ 8 % 2) ((h.rawCsr 0x600).testBit 7) }
  | .vs =>
    let v := h.rawCsr 0x200
    { h.rawSet 0x200 (putBits (putBits (putBits v 1 1 (v / 32)) 5 1 1) 8 1 0) with
      pc := BitVec.ofNat 64 (h.rawCsr 0x241), mode := from_ (v / 2 ^ 8 % 2) true }
  | _ => h.trapped 2 0

/-! ## IMSIC (R48) -/

/-- An MSI arrives at the IMSIC file with its address, where there is one. -/
def State.imsicAt (s : State) (addr : Nat) : Bool := s.harts.any fun h => h.files.any fun f => f.addr == addr
def Imsic.take (f : Imsic) (addr data : Nat) : Imsic :=
  if f.addr = addr && !f.pending.contains data then { f with pending := f.pending ++ [data] } else f
def Hart.takeMsi (h : Hart) (addr data : Nat) : Hart := { h with files := h.files.map fun f => f.take addr data }

/-- The value of a load's bytes: extended by its sign, or in a register of floating point boxed in ones. -/
def loadedAs (bytes : Nat) (signed : Bool) (dst : HReg) (v : Nat) : Nat :=
  match dst with
  | .f _ => v + 2 ^ 64 - 2 ^ (8 * Nat.min bytes 8)
  | .x _ => if signed && v.testBit (8 * bytes - 1) then v + 2 ^ 64 - 2 ^ (8 * bytes) else v
  | .v _ => v

/-- What a peer answers to the access that waits (R24, R30): its value, or an access fault. -/
def Hart.answered (h : Hart) (bytes : Option (List Byte)) : Hart :=
  match h.await with
  | none => h
  | some a =>
    match bytes with
    | some bs =>
      let h1 := ({ h with await := none }).put a.dst (loadedAs a.bytes a.signed a.dst (leNum ((if a.atomic then bs else bs.drop (a.addr % 128)).take a.bytes)))
      { h1 with pc := BitVec.ofNat 64 a.next }
    | none => { h with await := none }.trapped (if a.atomic then 7 else 5) a.addr

end Sys2Proof.Machine
end

