-- ==== Sys2Proof/Machine/Complete.lean ====
section
/-! DEFINITION. The queue control block and its device fields (R136, R139), completion of commands
(R141 to R146), interrupts (R160), the end of grids and teams, and the termination of a context with its
diagnostic record (R456 to R458). -/
namespace Sys2Proof.Machine

/-! ## Queue fields (R136, R137, R144) -/

/-- A command of the queue that has started and not completed. -/
def Queue.busy (q : Queue) : Bool := q.started.any fun c => !c.done

/-- Whether the queue fetches commands (R137, R143). -/
def Queue.fetching (q : Queue) : Bool := q.enable && !q.stopped && !q.ringFault && !q.draining

/-- QSTATUS.RUNNING (R136, R143). -/
def Queue.isRunning (q : Queue) : Bool := (q.enable && !q.stopped && !q.ringFault) || q.busy

/-- QSTATUS (R136). -/
def Queue.qstatus (q : Queue) : Nat :=
  (if q.isRunning then 1 else 0) + (if q.stopped then 2 else 0) + (if q.tamper then 4 else 0) +
    (if q.ringFault then 8 else 0) + q.lastErr * 256

/-- QSTAT of the notify page (R132). -/
def State.qstat (s : State) (vf q : Nat) : Nat :=
  match s.queue? vf q with
  | some x => x.qstatus + 2 ^ 31
  | none => 0

/-- Completed commands at the head of the started ones leave it and count in COMPLETED (R144). -/
def Queue.advance (q : Queue) : Queue :=
  let k := (q.started.takeWhile fun c => c.done).length
  { q with started := q.started.drop k, completed := (q.completed + k) % 2 ^ 32 }

/-- The ring slot of a command (R140). -/
def Queue.slot (q : Queue) (idx : Nat) : Nat := q.ringBase + 128 * (idx % 2 ^ q.ringLog)

/-- The queue's ring or QCB faulted (R139): RING_FAULT, and the queue stops; an event names the cause (R161). While
RING_FAULT is set no further event is posted (log 62). -/
def State.ringFaulted (s : State) (vf q cause : Nat) : State :=
  match s.queue? vf q with
  | none => s
  | some x =>
    if x.ringFault then s
    else (s.updQueue vf q fun x => { x with ringFault := true }).post vf 0x0505 q 255 cause []

/-- HEAD, TAIL, COMPLETED and QSTATUS written to the QCB as release stores (R139). -/
def State.writeQcb (s : State) (vf q : Nat) : State :=
  match s.queue? vf q with
  | none => s
  | some x =>
    match s.devWrite x.ctx (x.sh.qcbAddr.toNat + 0x10) (leList 4 x.head ++ leList 4 x.tail ++ leList 4 x.completed ++ leList 4 x.qstatus) with
    | some s1 => s1
    | none => s.ringFaulted vf q 2

/-- A ring fault, with the QCB told (R139). -/
def State.ringStop (s : State) (vf q cause : Nat) : State := (s.ringFaulted vf q cause).writeQcb vf q

/-! ## Interrupts (R143, R160) -/

/-- An MSI goes to the IMSIC file with its address, or out of the device (R48). -/
def State.deliverMsi (s : State) (addr data : Nat) : State :=
  if s.imsicAt addr then { s with harts := s.harts.map fun h => h.takeMsi addr data } else s.emit (.msi addr data)

/-- The MSI of a queue: the count and the age start again. -/
def State.sendMsi (s : State) (vf q : Nat) : State :=
  match s.queue? vf q with
  | none => s
  | some x => (s.deliverMsi x.sh.irqAddr.toNat x.sh.irqVec.toNat).updQueue vf q fun x => { x with irqPend := 0, irqSince := 0 }

/-- A completion counted toward the interrupt (R160), or signalled at once (R143). -/
def State.signalDone (s : State) (vf q code flags : Nat) : State :=
  match s.queue? vf q with
  | none => s
  | some x =>
    if !x.irqEn then s
    else if code ≠ 0 then s.sendMsi vf q
    else if flags % 2 = 0 then s
    else
      let s1 := s.updQueue vf q fun x => { x with irqPend := x.irqPend + 1, irqSince := if x.irqPend = 0 then (s.tick : Int) else x.irqSince }
      if Nat.max x.irqCount 1 ≤ x.irqPend + 1 then s1.sendMsi vf q else s1

/-! ## Completion of a command (R141 to R146) -/

/-- Ring and signal-area pages the device writes become dirty (R158). -/
def State.markDirty (s : State) (vf q bit : Nat) : State :=
  s.updQueue vf q fun x => { x with dirtyBits := x.dirtyBits ||| ((1 : BitVec 144) <<< bit) }

/-- The signal page of an address of the queue's signal area. -/
def Queue.signalPage (q : Queue) (a : Nat) : Option Nat :=
  if q.sigBase ≤ a && a + 8 ≤ q.sigBase + 4096 * q.sigPages then some ((a - q.sigBase) / 4096) else none

/-- A write of the device to a queue's signal area marks its page (R158). -/
def State.markSignal (s : State) (vf q a : Nat) : State :=
  match (s.queue? vf q).bind fun x => x.signalPage a with
  | some p => s.markDirty vf q (128 + p)
  | none => s

/-- A command completes: STATUS and DTICK into its slot of the ring latched last (log 62), the completed prefix, LASTERR and STOPPED, the QCB, the interrupt. -/
def State.completeCmd (s : State) (vf q idx code detail : Nat) : State :=
  match s.queue? vf q with
  | none => s
  | some x =>
    match x.started.find? fun c => c.idx == idx && !c.done with
    | none => s
    | some c =>
      let s1 := match s.devWrite x.ctx (x.slot idx + 0x78) (leList 4 (code + detail * 256) ++ leList 4 s.tick) with
        | some t => t.markDirty vf q ((idx % 2 ^ x.ringLog) / 32)
        | none => s.ringFaulted vf q 1
      let s2 := s1.updQueue vf q fun x => Queue.advance { x with
        started := x.started.map fun d => if d.idx = idx then { d with done := true } else d
        lastErr := if code = 0 then x.lastErr else code
        stopped := x.stopped || (code != 0 && c.flags / 4 % 2 == 0) }
      (s2.writeQcb vf q).signalDone vf q code c.flags

/-! ## The end of teams and grids -/

/-- What a team still has outside it: copies, and effects in an outbound hold. -/
def State.leftovers (s : State) (key : Nat) : Bool :=
  s.copies.any (fun c => c.team == key) || s.cores.any fun k => k.hold.any fun h => h.team == key

/-- Ended teams with nothing left, and ended grids without teams, are listed no more. -/
def State.sweep (s : State) : State :=
  let ts := s.teams.filter fun t => !(t.place == .gone && !s.leftovers t.key)
  { s with teams := ts, grids := s.grids.filter fun g => !(g.ended && !(ts.any fun t => t.grid == g.key)) }

/-- A lane of an ended team. -/
def Lane.ended (l : Lane) : Lane := { l with life := .finished, hcur := 0, wait := .none }

/-- A team ends where it is: it issues no more and its pending registers never fill; effects that have
committed stand (R456). -/
def State.endTeam (s : State) (key : Nat) : State :=
  let s1 := s.updTeam key fun t => { t with
    place := .gone, leaving := .none, mats := []
    warps := t.warps.map fun w => { w with lanes := w.lanes.map Lane.ended, masks := w.masks.map fun _ => 0 } }
  { s1 with
    pend := s1.pend.filter fun p => p.team != key
    waitcs := s1.waitcs.filter fun w => w.team != key
    cores := s1.cores.map fun k => { k with
      undo := k.undo.filter fun u => u.team != key
      matq := k.matq.filter fun o => o.team != key }
    clusters := s1.clusters.map fun c => { c with releases := c.releases.filter fun r => r.team != key } }

/-- The committed effects of an ended team are discarded too: teardown and flush (R124, R195). -/
def State.dropEffects (s : State) (key : Nat) : State :=
  let keys := (s.copies.filter fun c => c.team == key).map CopyOp.key
  { s with
    cores := s.cores.map fun k => { k with hold := k.hold.filter fun h => h.team != key }
    copies := s.copies.filter fun c => c.team != key
    owned := s.owned.filter fun o => !keys.contains o.key
    clusters := s.clusters.map fun c => { c with layq := c.layq.filter fun k => !keys.contains k } }

/-- The teams of a grid. -/
def State.teamsOf (s : State) (grid : Nat) : List Nat := (s.teams.filter fun t => t.grid == grid).map Team.key

/-- A grid ends: its launch completes with a status where a queue issued it (R146, R155, R456). -/
def State.endGrid (s : State) (g : Grid) (code detail : Nat) : State :=
  let s1 := (s.teamsOf g.key).foldl State.endTeam s
  let s2 := s1.updGrid g.key fun g => { g with ended := true, remaining := 0 }
  match g.origin with
  | .queue q cmd => s2.completeCmd g.vf q cmd code detail
  | .gate _ _ _ _ => s2

/-! ## Termination of a context (R456 to R458) -/

/-- The facts of a diagnostic record (R457). -/
structure Diag where
  cause : Nat
  flags : Nat
  grid : Nat
  team : Nat
  warp : Nat
  lane : Nat
  role : Nat
  pc : Word
  info : Word
  addr : Nat
  core : Nat
  /-- the cause part, from offset 0x40 -/
  part : List Byte
  deriving DecidableEq, Repr

/-- QUEUE and GATE of a record and of its events (R457, R458). -/
def Grid.queueByte (g : Grid) : Nat := match g.origin with
  | .queue q _ => q
  | .gate _ _ _ _ => 255
def Grid.gateByte (g : Grid) : Nat := match g.origin with
  | .queue _ _ => 255
  | .gate n _ _ _ => n

/-- The 256 bytes of a diagnostic record (R457). -/
def diagRecord (d : Diag) (queue gate recAddr tick : Nat) (serial : Word) : List Byte :=
  padTo 256 (leList 4 0x4F4E4447 ++ leList 1 d.cause ++ leList 1 d.flags ++ leList 1 queue ++ leList 1 gate ++ leList 8 tick ++
    leList 4 d.team ++ leList 1 d.warp ++ leList 1 d.lane ++ leList 1 d.role ++ [0] ++ leList 4 d.pc.toNat ++ leList 4 d.info.toNat ++
    leList 8 d.addr ++ leList 1 (d.core / 4) ++ leList 1 (d.core % 4) ++ leList 6 0 ++ leList 8 recAddr ++ leList 4 serial.toNat ++
    leList 4 0 ++ d.part)

/-- The QUEUE and GATE that a record of a grid names; 0xFF where the grid is gone. -/
def State.namesOf (s : State) (grid : Nat) : Nat × Nat :=
  (((s.grid? grid).map Grid.queueByte).getD 255, ((s.grid? grid).map Grid.gateByte).getD 255)

/-- A diagnostic record is written, with the tick of the termination; it is posted later (R456, R457, R481). -/
def State.writeDiag (s : State) (vf : Nat) (d : Diag) : State :=
  let serial := (s.vf vf).diagSerial
  let n := s.namesOf d.grid
  let r : DiagRec := { vf := vf, queue := n.1, gate := n.2, cause := d.cause, serial := serial
                       bytes := diagRecord d n.1 n.2 (((s.grid? d.grid).map Grid.recAddr).getD 0) s.tick serial }
  { s.updVf vf fun v => { v with diagSerial := v.diagSerial + 1 } with diags := s.diags ++ [r] }

/-- A record posted as 16 events, and CTX_TERM logged (R458, R479). -/
def State.postRec (s : State) (r : DiagRec) : State :=
  let s1 := (List.range 16).foldl (fun s i =>
    s.post r.vf 0x050C r.queue r.gate (r.serial.toNat % 65536 * 65536 + i) ((r.bytes.drop (16 * i)).take 16)) s
  let p := s.partOfVf r.vf
  s1.logEvent 0x0105 2 (sourceOf 1 (fwOf p)) p (leList 1 r.vf ++ leList 1 r.cause ++ leList 2 0 ++ leList 4 r.serial.toNat)

/-- The oldest record that is not posted yet is posted; when that happens is left open (R458, R481; log 71). -/
def State.postDiag (s : State) : State :=
  match s.diags with
  | [] => s
  | r :: rs => ({ s with diags := rs }).postRec r

/-- What a held effect of a terminated context still does: a hypothesis's writes and resolves are dropped. -/
def Eff.untag (e : Eff) (ctx : Nat) : Option Eff :=
  match e with
  | .store c tag _ _ => if c = ctx ∧ tag ≠ 0 then none else some e
  | .atom c h rel r => if c = ctx then some (.atom c h rel { r with parts := r.parts.map fun p => if p.tag ≠ 0 then { p with drop := true, tag := 0 } else p }) else some e
  | .resolve r => if r.ctx = ctx then none else some e
  | .node c _ => if c = ctx then none else some e
  | _ => some e

/-- The hypothesis state of a context is discarded, committed data apart; what copies under a hypothesis still write is
discarded (R276, R456). -/
def State.dropHypo (s : State) (ctx : Nat) : State :=
  let mine (c : CopyOp) : Bool := ((s.team? c.team).map Team.ctx) == some ctx
  { (s.updCtx ctx fun c => { c with nodes := [], reserved := [], resolves := 0, clamp := 0 }) with
    vers := s.vers.filter fun v => v.ctx != ctx
    lines := s.lines.filter fun l => !(l.ctx == ctx && l.tag != 0)
    owned := s.owned.filter fun o => !(o.ctx == ctx && o.tag != 0)
    resolving := s.resolving.filter fun r => r.ctx != ctx
    copies := s.copies.map fun (c : CopyOp) => if mine c && (s.ctx ctx).writeTag c.hcur != some 0 then { c with drop := true } else c
    cores := s.cores.map fun k => { k with
      dirty := k.dirty.filter fun d => !(d.ctx == ctx && d.tag != 0)
      hold := k.hold.filterMap fun h => (h.eff.untag ctx).map fun e => { h with eff := e } } }

/-- A context is terminated (R456). -/
def terminateCtx (s : State) (ctx : Nat) (d : Diag) : State :=
  let gs := s.grids.filter fun g => g.ctx == ctx && !g.ended
  let s1 := (gs.foldl (fun s g => s.endGrid g 3 d.cause) s).dropHypo ctx
  (s1.writeDiag (s.ctx ctx).vf d).sweep

end Sys2Proof.Machine
end

