-- ==== Sys2Proof/Machine/Ops.lean ====
section
/-! DEFINITION. The operations every instruction goes through: the commit of a warp instruction with its
undo-log entry and the ages of its warp (R188, R213), taking a trap (R454 to R456) and returning from
one (R453), lanes that wait, exits (R333), and the runners that put the tests in their order. -/
namespace Sys2Proof.Machine

/-! ## Ages and promotion -/

/-- Lanes of one quad at one pair take the greater of their ages (R331). -/
def joinAges (ls : List Lane) : List Lane :=
  (List.range ls.length).map fun i =>
    match ls[i]? with
    | some l =>
      if l.life == .live then
        { l with age := ([4 * (i / 4), 4 * (i / 4) + 1, 4 * (i / 4) + 2, 4 * (i / 4) + 3].foldl (fun m j =>
            match ls[j]? with
            | some k => if k.life == .live && k.pair == l.pair then max m k.age else m
            | none => m) l.age) }
      else l
    | none => {}

/-- Ages after an issue: 0 for the entry that issued, one more for every other live lane (R188). -/
def ageLanes (entry : List Nat) : Nat → List Lane → List Lane
  | _, [] => []
  | i, x :: xs =>
    (if x.life == .live then (if entry.contains i then { x with age := 0, mid := false } else { x with age := x.age + 1 }) else x)
      :: ageLanes entry (i + 1) xs

/-- The entry of quad `q` at the pair of lane `i`, as a promotion. -/
def Warp.promoOf (w : Warp) (i : Nat) : Promo :=
  let p := (w.lane i).pair
  { prio := p.1, pc := p.2, lanes := w.quadAt (i / 4) p, run := 0 }

/-- Whether lane `i` belongs to a queued entry: it was promoted with it, or stands with one of its lanes at their pair (R188). -/
def Warp.queued (w : Warp) (i : Nat) : Bool :=
  (w.promo ++ w.away).any fun p => p.lanes.contains i ||
    p.lanes.any fun j => j / 4 == i / 4 && (w.lane j).life == .live && (w.lane j).pair == (w.lane i).pair

/-- Entries of age FAIRN or more that are not queued join the queue, by quad (R188). -/
def Warp.promote (w : Warp) (fairn : Nat) : Warp :=
  (List.range 32).foldl (fun w i =>
    match w.lanes[i]? with
    | some l => if l.ready && decide (fairn ≤ l.age) && !w.queued i then { w with promo := w.promo ++ [w.promoOf i] } else w
    | none => w) w

/-- The promotion queue after an issue of `entry`: the head's run goes on, or ends at a transfer or its 32nd instruction
(R188); an entry behind it that gangs with it keeps its place. -/
def headRun (entry : List Nat) (transfer : Bool) : List Promo → List Promo
  | [] => []
  | p :: ps =>
    if p.lanes.any entry.contains then (if transfer || decide (32 ≤ p.run + 1) then ps else { p with run := p.run + 1 } :: ps)
    else p :: headRun entry transfer ps

/-- Whether a promoted entry has lanes that can issue, or lanes at all. -/
def Warp.runs (w : Warp) (p : Promo) : Bool := p.lanes.any fun i => (w.lane i).ready
def Warp.lives (w : Warp) (p : Promo) : Bool := p.lanes.any fun i => (w.lane i).life == .live

/-- Promoted entries whose lanes block leave the queue (R188). -/
def Warp.leaveQueue (w : Warp) : Warp :=
  { w with promo := w.promo.filter w.runs, away := w.away ++ (w.promo.filter fun p => !w.runs p && w.lives p).map fun p => { p with run := 0 } }

/-- Promoted entries whose lanes no longer block rejoin the queue at its tail, by quad (R188). -/
def Warp.rejoin (w : Warp) : Warp :=
  let back := w.away.filter w.runs
  { w with
    promo := w.promo ++ (List.range 8).flatMap fun q => back.filter fun p => (p.lanes.head?).getD 0 / 4 == q
    away := w.away.filter fun p => !w.runs p && w.lives p }

/-- The warp after an issue of `entry` (R188, R331). -/
def Warp.afterIssue (w : Warp) (entry : List Nat) (transfer : Bool) (fairn : Nat) : Warp :=
  if w.role == .movement then { w with lanes := w.lanes.map fun l => { l with mid := false } }
  else
    let w1 := { w with lanes := joinAges (ageLanes entry 0 w.lanes), promo := headRun entry transfer w.promo }
    w1.leaveQueue.rejoin.promote fairn

/-! ## Commit -/

/-- The undo-log entry of a commit: the team as it stands (R113, R213). -/
def undoOf (s : State) (t : Team) (scratch : List (Nat × Byte)) (tiles : List (Nat × Word)) : Undo :=
  { tick := s.tick, team := t.key, warps := t.warps, rings := t.rings, barriers := t.barriers, absent := t.absent,
    ops := t.ops, mmaCount := t.mmaCount, mmapCount := t.mmapCount, scratch := scratch, tiles := tiles, freed := t.freed }

/-- An undo-log entry pushed on each of the team's cores (R213). -/
def pushUndo (s : State) (t : Team) (u : Undo) : State :=
  t.cores.foldl (fun s c => s.updCore c fun k => { k with undo := u :: k.undo }) s

/-- The scratchpad bytes a write will replace, as they are (R113). -/
def oldBytes (t : Team) (cells : List (Nat × Byte)) : List (Nat × Byte) :=
  cells.map fun c => (c.1, sget (0 : Byte) t.scratch c.1)

/-- FAIRN of the partition that owns a core (R190): the clusters of gallery g are 2g and 2g + 1 (R19). -/
def partOfCore (s : State) (core : Nat) : Nat :=
  match s.parts.find? (fun p => p.galleries.getLsbD (core / 8)) with
  | some p => p.num
  | none => 255

def fairnOf (s : State) (core : Nat) : Nat := (s.part (partOfCore s core)).fairn.toNat

/-- The commit of a warp instruction: `w` is the warp with its results and its lanes moved; `scratch`
and `tiles` list the scratchpad bytes and tile words it replaces. The undo entry keeps the team as it was (R213); ages and the
promotion queue follow (R188); walk mode counts down and the mismatch streaks of its lanes end (R108). -/
def commit (s : State) (i : Iss) (w : Warp) (transfer : Bool) (scratch : List (Nat × Byte) := [])
    (tiles : List (Nat × Word) := []) : State :=
  let w' := { w.afterIssue i.entry transfer (fairnOf s i.core) with
    streak := w.streak.filter fun k => !(k.2.2.1.any i.entry.contains), walk := w.walk - 1, walk2 := w.walk2 - 1, dual := false }
  let s1 := pushUndo s i.team (undoOf s i.team scratch tiles)
  s1.updTeam i.team.key fun t => { t.updWarp i.warp.id (fun _ => w') with lastCommit := s.tick }

/-- Whether the undo log has no room (R213). -/
def undoFull (s : State) (i : Iss) : Bool := i.team.cores.any fun c => decide (2048 ≤ (s.core c).undo.length)

/-- A lane past its instruction: the next word index, two under an IMX, and one instruction of its
predicate block used (R316, R317). -/
def Lane.step (l : Lane) (n : Nat) : Lane :=
  { l with
    pc := l.pc + BitVec.ofNat 32 n
    blk := if l.blk.left = 0 then l.blk else { l.blk with left := l.blk.left - 1, pat := l.blk.pat >>> 1 } }

/-- Words of the instruction in progress. -/
def State.len (s : State) : Nat := if s.ext.isSome then 2 else 1

/-- The lanes of the entry past the instruction; active lanes changed by `f` first. -/
def Iss.next (i : Iss) (n : Nat) (f : Nat → Lane → Lane) : Warp :=
  (i.warp.updLanes i.active f).updLanes i.entry fun _ l => l.step n

/-- The lanes of the entry wait at the instruction, which is tried again (R312). -/
def markWait (s : State) (i : Iss) : State :=
  s.updTeam i.team.key fun t => t.updWarp i.warp.id fun w =>
    (w.updLanes i.entry fun _ l => { l with wait := .retry }).leaveQueue

/-- Lanes that stay wait at the instruction, the others go on; when all stay nothing commits (R312). -/
def Iss.commitOrStay (i : Iss) (s : State) (w : Warp) (stay : Nat → Bool) (wait : Nat → Wait) : State :=
  let w' := w.updLanes i.entry fun l k => if stay l then { k with wait := wait l } else k.step s.len
  if i.entry.all stay then s.updTeam i.team.key fun t => t.updWarp i.warp.id fun _ => w'.leaveQueue else commit s i w' false

/-- The lanes of the entry wait at the instruction for the registers that are empty (R312). -/
def markEmpty (s : State) (i : Iss) (need : List (Nat × Nat)) : State :=
  s.updTeam i.team.key fun t => t.updWarp i.warp.id fun w =>
    (w.updLanes i.entry fun _ l => { l with wait := .empty need }).leaveQueue

/-- Whether a register is full. -/
def Warp.fullAt (w : Warp) (lr : Nat × Nat) : Bool :=
  match ((w.lane lr.1).cell lr.2).fill with
  | .empty _ => false
  | _ => true

/-- Whether a waiting lane is to try its instruction again (R312). -/
def Warp.tries (w : Warp) : Wait → Bool
  | .retry => true
  | .empty need => need.any w.fullAt
  | _ => false

/-- Lanes that wait to try again become ready (R312). -/
def Warp.wake (w : Warp) : Warp :=
  { w with lanes := w.lanes.map fun l => if w.tries l.wait then { l with wait := .none } else l }

/-- Lanes of a team that wait to try again become ready (R185, R312). -/
def Team.wake (t : Team) : Team := { t with warps := t.warps.map Warp.wake }

def wakeTeam (s : State) (k : Nat) : State := s.updTeam k Team.wake

/-- Every team's retrying lanes become ready. -/
def wakeAll (s : State) : State := { s with teams := s.teams.map Team.wake }

/-! ## Exit (R333) -/

/-- Lane `l` exits: a helper while another lane of its quad lives, else it and its quad's helpers finish;
it leaves every mask and holds no hypothesis. -/
def Warp.exitLane (w : Warp) (l : Nat) : Warp :=
  let quad := [4 * (l / 4), 4 * (l / 4) + 1, 4 * (l / 4) + 2, 4 * (l / 4) + 3]
  let other := quad.any fun j => j != l && (match w.lanes[j]? with
    | some k => k.life == .live
    | none => false)
  let m : Word := ~~~((1 : Word) <<< l)
  let w1 := { w with masks := w.masks.map (· &&& m), mwait := w.mwait.map (· &&& m) }
  if other then w1.updLane l fun k => { k with life := .helper, hcur := 0, wait := .none, blk := {} }
  else w1.updLanes (quad.filter fun j => j == l || (match w.lanes[j]? with
    | some k => k.life == .helper
    | none => false)) fun _ k => { k with life := .finished, hcur := 0, wait := .none, blk := {} }

/-- Several lanes exit, ascending. -/
def Warp.exitLanes (w : Warp) (ls : List Nat) : Warp := ls.foldl Warp.exitLane w

/-! ## Traps (R454 to R456) -/

/-- The lane that enters its handler (R455); a TRAP has used its place in a predicate block, as RFT resumes after it (R317, R452). -/
def Lane.enter (l : Lane) (t : Trap) (pc : Word) (entry : Nat) : Lane :=
  { l with
    trap := { cause := BitVec.ofNat 8 t.cause, pc := pc, addr := BitVec.ofNat 32 t.addr,
              addrh := BitVec.ofNat 32 (t.addr / 2 ^ 32), info := t.info }
    handler := some { prio := l.prio, blk := if t.cause = causeTRAP then (l.step 1).blk else l.blk }
    pc := BitVec.ofNat 32 entry
    blk := {}
    wait := .none }

/-- The code of a role in sr.ROLE and in the diagnostic record (R450, R457). -/
def Role.code : Role → Nat
  | .vector => 0
  | .matrix => 1
  | .movement => 2

/-- The diagnostic facts of a trap (R457): words of the instruction, lane, PC. -/
def trapDiag (i : Iss) (t : Trap) (pc : Word) (inHandler : Bool) (w0 w1 : Word) : Diag :=
  { cause := t.cause
    flags := (if inHandler then 1 else 0) + (if i.grid.record.trapEntry = 0 then 2 else 0) + (if i.movement then 4 else 0)
    grid := i.grid.key, team := i.team.index, warp := i.warp.id, lane := t.lane, role := i.warp.role.code
    pc := pc, info := t.info, addr := t.addr, core := i.core
    part := leList 4 w0.toNat ++ leList 4 w1.toNat ++ leList 1 (i.warp.lane t.lane).hcur.toNat }

/-- The TRAPPC of a trap: the instruction's own index, or the next one for TRAP (R452). -/
def trapPc (i : Iss) (t : Trap) : Word := if t.cause = causeTRAP then i.pc + 1 else i.pc

/-- Taking a trap: with a handler the lanes of the entry enter it; without one the context ends, but
HORPH makes its lane exit; a trap of a lane in its handler ends the context (R455, R456). `w0`, `w1`
are the instruction's words; `lanes` are the lanes that enter. -/
def takeTrap (s : State) (i : Iss) (t : Trap) (w0 w1 : Word) (lanes : List Nat) : State :=
  let inH := (i.warp.lane t.lane).handler.isSome
  if i.grid.record.trapEntry ≠ 0 && !inH then
    commit s i (i.warp.updLanes lanes fun _ l => l.enter t (trapPc i t) i.grid.record.trapEntry) true
  else if t.cause = causeHORPH && !inH then
    (settleTeam (commit s i (i.warp.exitLanes lanes) true) i.core i.team.key i.warp.id).freeIds i.team.ctx
  else terminateCtx s i.team.ctx (trapDiag i t (trapPc i t) inH w0 w1)

/-- The return from a trap of one lane (R453). -/
def Lane.ret (l : Lane) : Lane :=
  match l.handler with
  | some h => { l with pc := l.trap.pc, prio := h.prio, blk := h.blk, handler := none }
  | none => l

/-! ## Runners -/

/-- The words a trap of instruction `ins` reports: for an IMX pair the IMX first (R457). -/
def State.words (s : State) (ins : Instr) : Word × Word :=
  match s.ext with
  | some i => (wordOf (.imx ⟨i⟩), wordOf ins)
  | none => (wordOf ins, 0)

/-- The outcome of a verdict: a trap is taken, a wait marked, a stall changes nothing. -/
def settle (s : State) (i : Iss) (ins : Instr) : Verdict State → State
  | .go s' => s'
  | .trap t => takeTrap s i t (s.words ins).1 (s.words ins).2 (if t.cause = causeHORPH then [t.lane] else i.entry)
  | .wait => markWait s i
  | .stall => s

/-- The handle reads of R424 that trap: the cell is read once, then plain. -/
def markRead (s : State) (i : Iss) (l row : Nat) : State :=
  s.updTeam i.team.key fun t => t.updWarp i.warp.id fun w => w.updLane l fun k =>
    k.setCell row { (k.cell row) with fill := .full }

/-- The issue with one lane's handle register read (R424). -/
def Iss.markRead (i : Iss) (l row : Nat) : Iss :=
  { i with warp := i.warp.updLane l fun k => k.setCell row { (k.cell row) with fill := .full } }

/-- The trap of the lowest lane, with the cause of highest rank in it (R454): `e` of an empty source, `m` of a
failed handle, `v` of the instruction's own tests. -/
def settleRanked (s : State) (i : Iss) (ins : Instr) (e : Option Trap) (m : Option (Nat × Nat × Word)) (v : Verdict State) :
    State :=
  let own : Option Trap := match v with
    | .trap t => some t
    | _ => none
  let best (a b : Option Trap) : Option Trap := match a, b with
    | some x, some y => if y.lane < x.lane then some y else some x
    | some x, none => some x
    | none, y => y
  match best e own, m with
  | some t, none => settle s i ins (.trap t)
  | some t, some (l, row, info) =>
    if l < t.lane then
      settle (markRead s i l row) (i.markRead l row) ins (.trap { cause := causeMMAF, info := info, lane := l })
    else settle s i ins (.trap t)
  | none, some (l, row, info) =>
    match v with
    | .go _ => settle (markRead s i l row) (i.markRead l row) ins (.trap { cause := causeMMAF, info := info, lane := l })
    | _ => settle s i ins v
  | none, none => settle s i ins v

/-- The order of the tests of one warp instruction (R319, R454): with no active non-helper lane it passes;
then legality (R318), then the registers named (R309 to R312), then what `body` decides, and last the
handle trap of R424. -/
def checked (s : State) (i : Iss) (ins : Instr) (e : Bool) (us : List Use)
    (body : State → Iss → Verdict State) : State :=
  if undoFull s i then s
  else if i.act = [] then commit s i (i.next s.len fun _ l => l) false
  else if !i.roleLegal ins || i.blockIll ins || !i.declares ins then settle s i ins (.trap (ill i (wordOf ins)))
  else
    match i.operands (wordOf ins) e us with
    | .wait => markEmpty s i (i.emptyRows us)
    | .stall => s
    | .trap t =>
      if t.cause ≠ causeEMPTY then settle s i ins (.trap t)
      else settleRanked s i ins (some t) (i.failedRead us) (body s i)
    | .go () => settleRanked s i ins none (i.failedRead us) (body s i)

/-- An instruction under the selected issue; with none the step changes nothing (log 2). -/
def runWith (s : State) (ins : Instr) (e : Bool) (us : List Use) (body : State → Iss → Verdict State) :
    Host.Outcome State Fault Refusal :=
  match s.issue with
  | none => .next s
  | some i => .next (checked s i ins e us body)

/-- A plain instruction: each active lane changes alone and the entry moves on. -/
def runLanes (s : State) (ins : Instr) (e : Bool) (us : List Use) (f : State → Iss → Nat → Lane → Lane) :
    Host.Outcome State Fault Refusal :=
  runWith s ins e us fun s i => .go (commit s i (i.next s.len (f s i)) false)

/-- Whether the selected issue passes every test of a plain instruction, so that it completes (R318, R416, R422, R449,
R309 to R312, R424): the hypothesis of the completion statements. -/
def readyFor (s : State) (ins : Instr) (e : Bool) (us : List Use) (i : Iss) : Prop :=
  s.issue = some i ∧ undoFull s i = false ∧ i.act ≠ [] ∧ i.roleLegal ins = true ∧ i.blockIll ins = false ∧
  i.declares ins = true ∧ i.operands (wordOf ins) e us = .go () ∧ i.failedRead us = none

end Sys2Proof.Machine
end

