-- ==== Sys2Proof/Machine/LoadStore.lean ====
section
/-! DEFINITION. Loads, stores, prefetch, presence test, fences, cache control and space queries: 0xA0 to
0xAC (R378 to R391). -/
namespace Sys2Proof.Machine

/-! ## Sizes (R378) -/

def szBytes : Sz → Nat
  | .b8 => 1
  | .s8 => 1
  | .b16 => 2
  | .s16 => 2
  | .b32 => 4
  | .b64 => 8
  | .b128 => 16

def szSigned : Sz → Bool
  | .s8 => true
  | .s16 => true
  | _ => false

/-- Data registers of an access. -/
def szRegs (z : Sz) : Nat := (szBytes z + 3) / 4

/-- A value of `n` bytes as a load writes it: extended to a word, or in words of a group (R378). -/
def extend (n : Nat) (signed : Bool) (v : Nat) : Nat :=
  if n = 1 then (if signed then ((BitVec.ofNat 8 v).signExtend 32).toNat else v % 256)
  else if n = 2 then (if signed then ((BitVec.ofNat 16 v).signExtend 32).toNat else v % 65536)
  else v

/-- `n` words of a number in rows from `row` on, lowest first (R310, R378). -/
def Lane.setWords (k : Lane) (row v : Nat) : Nat → Lane
  | 0 => k
  | n + 1 => (k.setReg row (BitVec.ofNat 32 v)).setWords (row + 1) (v / 2 ^ 32) n

/-- `n` rows marked empty (R311). -/
def Lane.emptyRows (k : Lane) (row : Nat) (p : Producer) : Nat → Lane
  | 0 => k
  | n + 1 => (k.setEmpty row p).emptyRows (row + 1) p n

/-- The words of a register group as a number. -/
def Iss.rdWords (i : Iss) (l : Nat) (r : RegNo) : Nat → Nat
  | 0 => 0
  | n + 1 => i.rdWords l r n + (i.rdN l r n).toNat * 2 ^ (32 * n)

/-! ## Tests and waits -/

/-- The address part of an instruction: the address reported in a lane, and how it is answered. -/
structure Reach where
  addr : Nat → Nat
  ans : Nat → Answer

/-- The trap of the lowest active lane whose test fails (R380); PAGE toward a peer names it in TRAPINFO[15:8] (R24; log 59). -/
def Iss.reachTrap (i : Iss) (r : Reach) : Option Trap :=
  i.act.findSome? fun l => match r.ans l with
    | .trap c => some { cause := c, info := BitVec.ofNat 32 l, addr := r.addr l, lane := l }
    | .noPeer p => some { cause := causePAGE, info := BitVec.ofNat 32 (l + 256 * p), addr := r.addr l, lane := l }
    | _ => none

/-- A load's read of a poisoned line (R117): of a scratchpad, one that the core holds poisoned, or one it reads at L2. -/
def State.poisoned (s : State) (i : Iss) (l n : Nat) (a : Answer) : Bool :=
  match a with
  | .own off => i.team.poison.contains (off / 128)
  | .hall t off => ((s.team? t).map fun u => u.poison.contains (off / 128)).getD false
  | .phys u => (s.core i.core).poison.contains (lineOf u.loc) || (s.poison.contains (lineOf u.loc) &&
      (List.range n).any fun j => (s.core i.core).undecided i.team.ctx ((s.ctx i.team.ctx).path (i.tag l)) (u.loc + j))
  | _ => false

def State.poisonTrap (s : State) (i : Iss) (n : Nat) (r : Reach) : Option Trap :=
  i.act.findSome? fun l =>
    if s.poisoned i l n (r.ans l) then
      some { cause := causeECCU, info := BitVec.ofNat 32 l, addr := r.addr l - r.addr l % 128, lane := l }
    else none

/-- The lower lane of two traps; the first on a tie. -/
def lowerTrap (a b : Option Trap) : Option Trap :=
  match a, b with
  | some x, some y => if y.lane < x.lane then some y else some x
  | some x, none => some x
  | none, y => y

/-- Whether the hold of a core has an effect of the warp on a team's scratchpad: hall accesses of one warp to one core are
performed in issue order (R222). -/
def State.hallHeld (s : State) (i : Iss) (team : Nat) : Bool :=
  (s.core i.core).hold.any fun h => h.team == i.team.key && h.warp == i.warp.id && (match h.eff with
    | .hall t _ _ => t == team
    | .atom _ (some t) _ _ => t == team
    | _ => false)

/-- Whether a lane's access must wait: an absent line (R221), an engine-owned line (R269), a release of the
scratchpad's core that is not published yet (R384), an earlier hall access of its warp (R222), a fence, acquiring atomic
or load from a peer before it (R33, R259, R260). -/
def State.mustWait (s : State) (i : Iss) (l : Nat) (load : Bool) (a : Answer) : Bool :=
  match a with
  | .own off => i.team.absentAt off || s.fenced i l
  | .hall t off =>
    (load && s.fenced i l) ||
    (match s.team? t with
      | some u => u.absentAt off || (match u.core? with
        | some c => load && (s.relOpen c || s.hallHeld i t)
        | none => false)
      | none => false)
  | .phys u => load && (s.fenced i l || s.ownedOn i.team.ctx ((s.ctx i.team.ctx).path (i.tag l)) u.loc)
  | _ => false

/-- The lanes of a list that park (R248), with address and stage. -/
def parkedOf (r : Reach) (ls : List Nat) : List (Nat × Nat × Nat) :=
  ls.filterMap fun l => match r.ans l with
    | .park st => some (l, r.addr l, st)
    | _ => none

/-- Whether a lane's access is answered with a place. -/
def Answer.placed : Answer → Bool
  | .trap _ => false
  | .park _ => false
  | _ => true

/-- The uses of the accesses answered in physical memory. -/
def usesOf (r : Reach) (ls : List Nat) : List Use1 :=
  ls.filterMap fun l => match r.ans l with
    | .phys u => some u
    | _ => none

/-! ## Loads -/

/-- The value a lane's load returns (R208, R254, R255, R272). -/
def State.loadValue (s : State) (i : Iss) (l n : Nat) (a : Answer) : Nat :=
  match a with
  | .own off => leNum ((List.range n).map fun j => sget (0 : Byte) i.team.scratch (off + j))
  | .hall t off => leNum ((List.range n).map fun j => sget (0 : Byte) (((s.team? t).map Team.scratch).getD []) (off + j))
  | .phys u => s.loadLoc i.core i.team.ctx ((s.ctx i.team.ctx).path (i.tag l)) u.loc n
  | _ => 0

/-- What a load publishes on other cores before it reads: an acquire its own lines (R258), a hall read the
lines of the scratchpad's core that a release covers (R384). -/
def State.loadForce (s : State) (i : Iss) (acq : Bool) (as : List Answer) : State :=
  let s1 := if acq then s.forceOthers (some i.core) (as.filterMap fun a => match a with
    | .phys u => some u.loc
    | _ => none) else s
  as.foldl (fun s a => match a with
    | .hall t _ => match (s.team? t).bind Team.core? with
      | some c => s.forceCore c []
      | none => s
    | _ => s) s1

/-- The bytes of a lane's load that are decided on this device (R255, R272). -/
def State.decided (s : State) (i : Iss) (l n loc : Nat) : List (Option Byte) :=
  (List.range n).map fun j => s.decidedByte (s.core i.core) i.team.ctx (loc + j) ((s.ctx i.team.ctx).path (i.tag l))

/-- Where a lane's load reads from a peer (R32): its location and what is decided here. -/
def State.awayAt (s : State) (i : Iss) (l n : Nat) (a : Answer) : Option (Nat × List (Option Byte)) :=
  match a with
  | .phys u => if isPeer u.loc && (s.decided i l n u.loc).any Option.isNone then some (u.loc, s.decided i l n u.loc) else none
  | _ => none

/-- The lanes of a load that complete later: those that read from a peer, whose values come with its answer, and all of
them where the checker's read returns later (R32, R208, R311). -/
def State.laterLanes (s : State) (i : Iss) (n row : Nat) (signed : Bool) (r : Reach) (ls : List Nat) : List PendLane :=
  ls.filterMap fun l => match s.awayAt i l n (r.ans l) with
    | some a => some { lane := l, row := row, val := none, loc := a.1, fixed := a.2 }
    | none => if s.env.slow then some { lane := l, row := row, val := some (extend n signed (s.loadValue i l n (r.ans l))) } else none

/-- A load's pending access and its requests to peers (R32, R311). -/
def State.pendLoad (s : State) (i : Iss) (n : Nat) (signed : Bool) (ls : List PendLane) : State :=
  if ls = [] then s
  else
    let p : Pend := { key := s.nextKey, team := i.team.key, warp := i.warp.id, bytes := n, signed := signed, atomic := false, tick := s.tick, lanes := ls }
    ({ s.takeKey with pend := s.pend ++ [p] }).askLines (.thread i.core i.team.key i.warp.id s.nextKey) (ls.map PendLane.loc)

/-- A load (R378 to R383): `n` bytes into `d`. An acquire waits for nothing that its own core still holds (R259), so release stores
and acquire loads of different locations may pass each other; guarantee 1 of R263 would forbid that of programs it calls free of
races, and the model follows R254, R259 and R261 (log 75). -/
def loadBody (s : State) (i : Iss) (n : Nat) (signed : Bool) (d : RegNo) (ord : MemOrd) (scp : Scope) (r : Reach) : Verdict State :=
  match lowerTrap (i.reachTrap r) (s.poisonTrap i n r) with
  | some t => .trap t
  | none =>
    let help := i.helpers.filter fun l => (r.ans l).placed
    if i.act.any (fun l => s.mustWait i l true (r.ans l)) || help.any (fun l => s.mustWait i l true (r.ans l)) then .wait
    else
      let fs := parkedOf r i.act
      let done := i.act.filter fun l => (r.ans l).placed
      let wide := releases ord && scopeWide (i.scope scp)
      if done = [] then .go (s.parkLanes i .read fs)
      else if wide && !s.holdRoom i.core 1 then .stall
      else
        let s1 := (s.loadForce i (acquires ord) (done.map r.ans)).useAll (usesOf r (done ++ help))
        let row := i.row d.toNat
        let regs := (n + 3) / 4
        let later := s1.laterLanes i n row signed r (done ++ help)
        let key := s1.nextKey
        let val (l : Nat) : Nat := if done.contains l || help.contains l then extend n signed (s1.loadValue i l n (r.ans l)) else 0
        let w := (i.warp.updLanes (done ++ i.helpers) fun l k =>
          let k := if releases ord && done.contains l then { k with relF := true } else k
          let k := if acquires ord && later.any (fun p => p.lane == l && p.val.isNone) then { k with fence := key :: k.fence } else k
          if later.any (fun p => p.lane == l) then k.emptyRows row (.access key) regs else k.setWords row (val l) regs)
        let w := w.updLanes (i.entry.filter fun l => !(fs.map (·.1)).contains l) fun _ k => k.step s.len
        let s3 := ((commit s1 i w false).takeNonce).pendLoad i n signed later
        let s4 := if wide then (s3.takeKey).pushHold i [.fence s3.nextKey true (i.scope scp)] else s3
        .go ((s4.countClamp i ord scp).parkLanes i .read fs)

/-- The loads of a lane from peers that are not answered (R33, R259). -/
def State.loadsOut (s : State) (i : Iss) (l : Nat) : List Nat :=
  (s.pend.filter fun p => p.team == i.team.key && p.warp == i.warp.id && !p.atomic && p.lanes.any fun q => q.lane == l && q.val.isNone).map Pend.key

/-! ## Stores -/

/-- The bytes a lane's store writes, at offsets of its place. -/
def Iss.storeBytes (i : Iss) (l : Nat) (d : RegNo) (n : Nat) : List Byte := leList n (i.rdWords l d ((n + 3) / 4))

/-- The cells of the lanes for which `f` names a place, lanes ascending: a later lane's byte stands (R381). -/
def Iss.cellsFor (i : Iss) (ls : List Nat) (d : RegNo) (n : Nat) (f : Nat → Option Nat) : List (Nat × Byte) :=
  ls.flatMap fun l => match f l with
    | some a => layAt a (i.storeBytes l d n)
    | none => []

/-- Whether cells cover a whole line: such a write clears its poison (R117). -/
def coversLine (cells : List (Nat × Byte)) (line : Nat) : Bool := (List.range 128).all fun j => cells.any fun c => c.1 == 128 * line + j

/-- Cells written to a team's scratchpad; a line written whole is poisoned no more (R117). -/
def Team.writeScratch (t : Team) (cells : List (Nat × Byte)) : Team :=
  { t with scratch := ssetAll (0 : Byte) t.scratch cells, poison := t.poison.filter fun l => !coversLine cells l }

/-- The distinct elements of the places of lanes. -/
def distinctOf (ls : List Nat) (f : Nat → Option Nat) : List Nat := (ls.filterMap f).eraseDups

/-- A release to the own scratchpad (R257, R262, R384): at system scope peers must acknowledge it. What the core has stored is marked, and what its hold has yet to
release comes before it, so that a hall access sees neither of them missing. -/
def State.markOwnRelease (s : State) (core : Nat) (sc : Scope) : State :=
  let s1 := s.updCore core fun k => { k with
    stsRel := k.hold.length, stsSys := k.stsSys || sc == .system, dirty := k.dirty.map fun d => { d with before := true } }
  if sc == .system && (s.core core).hold.isEmpty then s1.publishAll core else s1

/-- The release side of a write: its own order, or the release that a fence before it left (R257, R260). -/
def Iss.relOf (i : Iss) (ls : List Nat) (ord : MemOrd) (scp : Scope) : Option Scope :=
  if releases ord then some (i.scope scp) else if ls.any fun l => (i.warp.lane l).relF then some .core else none

/-- The hypothesis tag a lane's write carries (R253, R275, R276). -/
def State.tagOf (s : State) (i : Iss) (l : Nat) : Option Nat := (s.ctx i.team.ctx).writeTag (i.warp.lane l).hcur.toNat

/-- A store (R378 to R383): `n` bytes of `d`. An acquire order is a fence after it: later loads wait for the lane's loads
from peers, and at cluster scope or wider it takes an entry of the hold (R379, R389). One effect in the sense of R214 is what one
instruction stores under one hypothesis tag, or to one team of the hall (log 74). -/
def storeBody (s : State) (i : Iss) (n : Nat) (d : RegNo) (ord : MemOrd) (scp : Scope) (r : Reach) : Verdict State :=
  let fs := parkedOf r i.act
  let done := i.act.filter fun l => (r.ans l).placed
  let physOf (l : Nat) : Option Nat := match r.ans l with
    | .phys u => some u.loc
    | _ => none
  let ownOf (l : Nat) : Option Nat := match r.ans l with
    | .own off => some off
    | _ => none
  let hallOf (l : Nat) : Option Nat := match r.ans l with
    | .hall t _ => some t
    | _ => none
  let full := (s.slotFull i (done.filterMap fun l => match physOf l, s.tagOf i l with
      | some a, some t => some (l, t, lineOf a)
      | _, _ => none)).map fun l => { cause := causeHFULL, info := BitVec.ofNat 32 l, addr := r.addr l, lane := l }
  match lowerTrap (i.reachTrap r) full with
  | some t => .trap t
  | none =>
    if i.act.any fun l => s.mustWait i l false (r.ans l) then .wait
    else if done = [] then .go (s.parkLanes i .write fs)
    else
      let rel := i.relOf done ord scp
      -- what counts as one effect of the instruction: an entry for each tag and for each team of the hall (log 74)
      let tags := distinctOf (done.filter fun l => (physOf l).isSome) fun l => s.tagOf i l
      let lost := if done.any (fun l => (physOf l).isSome && (s.tagOf i l).isNone) then [Eff.store i.team.ctx 0 [] rel] else []
      let stores := tags.map fun t => Eff.store i.team.ctx t (i.cellsFor (done.filter fun l => s.tagOf i l == some t) d n physOf) rel
      let halls := (distinctOf done hallOf).map fun t => Eff.hall t (i.cellsFor done d n fun l => match r.ans l with
        | .hall u off => if u = t then some off else none
        | _ => none) rel
      let tail := if acquires ord && scopeWide (i.scope scp) then [Eff.fence s.nextKey false (i.scope scp)] else []
      let effs := stores ++ lost ++ halls ++ tail
      if !s.holdRoom i.core effs.length then .stall
      else
        let own := i.cellsFor done d n ownOf
        let w := i.warp.updLanes (if acquires ord then done else []) fun l k => { k with fence := s.loadsOut i l ++ k.fence }
        let w := w.updLanes (i.entry.filter fun l => !(fs.map (·.1)).contains l) fun _ k => k.step s.len
        let s1 := commit (s.useAll (usesOf r done)) i w false (oldBytes i.team own)
        let s2 := (if tail = [] then s1 else s1.takeKey).updTeam i.team.key fun t => t.writeScratch own
        let s3 := if own ≠ [] then rel.elim s2 fun sc => s2.markOwnRelease i.core sc else s2
        .go (((s3.pushHold i effs).countClamp i ord scp).parkLanes i .write fs)

/-! ## The instructions -/

/-- The IMX offset in force, sign-extended to `n` bits' worth (R316). -/
def State.off (s : State) : Nat :=
  match s.ext with
  | some x => (x.signExtend 64).toNat
  | none => 0

/-- The 64-bit address of a lane (R383). -/
def State.addr64 (s : State) (i : Iss) (a : RegNo) (l : Nat) : Nat := ((i.rd64 l a).toNat + s.off) % 2 ^ 64

/-- The scratchpad offset of a lane (R384). -/
def State.addr32 (s : State) (i : Iss) (a : RegNo) (l : Nat) : Nat := ((i.rd l a).toNat + s.off) % 2 ^ 32

/-- Generic addresses. -/
def genericReach (s : State) (i : Iss) (k : Kind) (a : RegNo) (n : Nat) (ch : Ch) : Reach :=
  { addr := s.addr64 i a, ans := fun l => s.generic i k l n (ch != .def_) (s.addr64 i a l) }

/-- Scratchpad offsets. -/
def scratchReach (s : State) (i : Iss) (a : RegNo) (n : Nat) : Reach :=
  { addr := s.addr32 i a, ans := fun l => s.scratchAt i n (s.addr32 i a l) }

/-- Private offsets. -/
def privateReach (s : State) (i : Iss) (a : RegNo) (n : Nat) : Reach :=
  { addr := s.addr64 i a, ans := fun l => s.privateAt i l n (s.addr64 i a l) }

/-- LD (R383). -/
def execLd (f : FmtMem) (s : State) : Host.Outcome State Fault Refusal :=
  runWith s (.ld f) f.e [srcN f.a 2, dstN f.d (szRegs f.sz)] fun s i =>
    loadBody s i (szBytes f.sz) (szSigned f.sz) f.d f.ord f.scp (genericReach s i .read f.a (szBytes f.sz) f.ch)

/-- ST (R383). -/
def execSt (f : FmtMem) (s : State) : Host.Outcome State Fault Refusal :=
  runWith s (.st f) f.e [srcN f.a 2, srcN f.d (szRegs f.sz)] fun s i =>
    storeBody s i (szBytes f.sz) f.d f.ord f.scp (genericReach s i .write f.a (szBytes f.sz) f.ch)

/-- LDS (R384). -/
def execLds (f : FmtMemL) (s : State) : Host.Outcome State Fault Refusal :=
  runWith s (.lds f) f.e [srcU f.a, dstN f.d (szRegs f.sz)] fun s i =>
    loadBody s i (szBytes f.sz) (szSigned f.sz) f.d f.ord f.scp (scratchReach s i f.a (szBytes f.sz))

/-- STS (R384). -/
def execSts (f : FmtMemL) (s : State) : Host.Outcome State Fault Refusal :=
  runWith s (.sts f) f.e [srcU f.a, srcN f.d (szRegs f.sz)] fun s i =>
    storeBody s i (szBytes f.sz) f.d f.ord f.scp (scratchReach s i f.a (szBytes f.sz))

/-- LDL (R385). -/
def execLdl (f : FmtMemL) (s : State) : Host.Outcome State Fault Refusal :=
  runWith s (.ldl f) f.e [srcN f.a 2, dstN f.d (szRegs f.sz)] fun s i =>
    loadBody s i (szBytes f.sz) (szSigned f.sz) f.d f.ord f.scp (privateReach s i f.a (szBytes f.sz))

/-- STL (R385). -/
def execStl (f : FmtMemL) (s : State) : Host.Outcome State Fault Refusal :=
  runWith s (.stl f) f.e [srcN f.a 2, srcN f.d (szRegs f.sz)] fun s i =>
    storeBody s i (szBytes f.sz) f.d f.ord f.scp (privateReach s i f.a (szBytes f.sz))

/-- The answer of a parameter offset (R386). -/
def paramTest (i : Iss) (n o : Nat) : Option Nat :=
  if o % n ≠ 0 then some causeALN else if i.grid.record.paramBytes < o + n then some causePROT else none

/-- LDP (R386): the parameters as the launch copied them, at once or later (R311). -/
def execLdp (f : FmtLdp) (s : State) : Host.Outcome State Fault Refusal :=
  runWith s (.ldp f) f.e [srcN f.a 2, dstN f.d (szRegs f.sz)] fun s i =>
    let n := szBytes f.sz
    match i.act.findSome? fun l => (paramTest i n (s.addr64 i f.a l)).map fun c =>
        ({ cause := c, info := BitVec.ofNat 32 l, addr := s.addr64 i f.a l, lane := l } : Trap) with
    | some t => .trap t
    | none =>
      let row := i.row f.d.toNat
      let val (l : Nat) : Nat :=
        let o := s.addr64 i f.a l
        match paramTest i n o with
        | none => extend n (szSigned f.sz) (fieldAt i.grid.params o n)
        | some _ => 0
      if s.env.slow then
        .go ((commit s i (i.next s.len fun _ k => k.emptyRows row (.access s.nextKey) (szRegs f.sz)) false).pendLoad i n (szSigned f.sz)
          (i.active.map fun l => { lane := l, row := row, val := some (val l) }))
      else .go (commit s i (i.next s.len fun l k => k.setWords row (val l) (szRegs f.sz)) false)

/-- PRF (R387): no architectural effect. -/
def execPrf (f : FmtPrf) (s : State) : Host.Outcome State Fault Refusal :=
  runLanes s (.prf f) false [lookN f.a 2] fun _ _ _ k => k

/-- Whether the line of a scratchpad offset is present. -/
def State.presentAt (s : State) (i : Iss) (l : Nat) (a : Answer) : Bool :=
  match a with
  | .own off => !i.team.absentAt off
  | .hall t off => match s.team? t with
    | some u => !u.absentAt off
    | none => true
  | _ => Config.freeBool (s.nonce + l)

/-- SPRES (R388). -/
def execSpres (f : FmtCP) (s : State) : Host.Outcome State Fault Refusal :=
  runWith s (.spres f) f.e [srcU f.a] fun s i =>
    let r : Reach := { addr := fun l => (i.rd l f.a).toNat, ans := fun l => s.scratchAt i 1 (i.rd l f.a).toNat }
    match i.reachTrap r with
    | some t => .trap t
    | none => .go (commit s i (i.next s.len fun l k => k.setPred f.pd (s.presentAt i l (r.ans l))) false |>.takeNonces 32)

/-- FENCE (R260, R389): an acquire waits for the lane's loads from peers. -/
def execFence (f : FmtFence) (s : State) : Host.Outcome State Fault Refusal :=
  runWith s (.fence f) false [] fun s i =>
    let scp := i.scope f.scp
    let mark (l : Nat) (k : Lane) : Lane :=
      if !i.act.contains l then k
      else { k with relF := k.relF || releases f.ord, fence := if acquires f.ord then s.loadsOut i l ++ k.fence else k.fence }
    if f.ord == .rlx || !scopeWide scp then .go ((commit s i (i.next s.len mark) false).countClamp i f.ord f.scp)
    else if !s.holdRoom i.core 1 then .stall
    else
      let w := i.next s.len fun l k =>
        if f.ord == .acqrel && i.act.contains l then { mark l k with fence := s.nextKey :: (mark l k).fence } else mark l k
      .go (((commit s i w false).takeKey.pushHold i [.fence s.nextKey (releases f.ord) scp]).countClamp i f.ord f.scp)

/-- CCTL (R390): `lines` lists the lines named, none for all. -/
def cacheControl (s : State) (i : Iss) (lines : Option (List Nat)) : Verdict State :=
  if !s.holdRoom i.core 1 then .stall
  else .go ((commit s i (i.next s.len fun _ k => k) false).pushHold i [.cctl lines])

/-- The lines the active lanes name; a window or faulting address names none (R390). -/
def State.cctlLines (s : State) (i : Iss) (a : RegNo) : List Nat :=
  (i.act.filterMap fun l => match spaceOf (s.addr64 i a l) with
    | .global => match s.translate i.team.ctx i.grid.clamped .read (s.addr64 i a l) with
      | .phys u => some (lineOf u.loc)
      | _ => none
    | _ => none).eraseDups

/-- CCTL.CLEAN. -/
def execCctlClean (f : FmtCctl) (s : State) : Host.Outcome State Fault Refusal :=
  runWith s (.cctlClean f) false [srcN f.a 2] fun s i => cacheControl s i (some (s.cctlLines i f.a))

/-- CCTL.INVAL: as CLEAN; dropping the line changes no value (R390). -/
def execCctlInval (f : FmtCctl) (s : State) : Host.Outcome State Fault Refusal :=
  runWith s (.cctlInval f) false [srcN f.a 2] fun s i => cacheControl s i (some (s.cctlLines i f.a))

/-- CCTL.CLEANALL. -/
def execCctlCleanAll (f : FmtCctlAll) (s : State) : Host.Outcome State Fault Refusal :=
  runWith s (.cctlCleanAll f) false [] fun s i => cacheControl s i none

/-- The private offset of an address in the private window. -/
def privOffset (a : Nat) : Option Nat :=
  match spaceOf a with
  | .priv off => some off
  | _ => none

/-- A pair of rows written, low word first (R310). -/
def Lane.setPair64 (k : Lane) (row v : Nat) : Lane := k.setWords row v 2

/-- GPRIV (R391). A helper lane's offset at or beyond PRIVATE_BYTES has no stated result (log 7). -/
def execGpriv (f : FmtR1) (s : State) : Host.Outcome State Fault Refusal :=
  runWith s (.gpriv f) f.e [srcN f.a 2, dstN f.d 2] fun s i =>
    let a (l : Nat) : Nat := (i.rd64 l f.a).toNat
    let bad (l : Nat) : Bool := match privOffset (a l) with
      | some off => i.grid.record.privateBytes ≤ off
      | none => false
    match i.act.find? bad with
    | some l => .trap { cause := causePROT, info := BitVec.ofNat 32 l, addr := a l, lane := l }
    | none =>
      .go (commit s i (i.next s.len fun l k => k.setPair64 (i.row f.d.toNat)
        (match privOffset (a l) with
          | some off => if bad l then (Config.freeWord (s.nonce + 2 * l)).toNat + (Config.freeWord (s.nonce + 2 * l + 1)).toNat * 2 ^ 32
              else aliasOf i.team i.grid i.warp.id l off
          | none => a l)) false |>.takeNonces 64)

/-- ISPACE (R391). -/
def execIspace (f : FmtR1) (s : State) : Host.Outcome State Fault Refusal :=
  runLanes s (.ispace f) f.e [srcN f.a 2, dstU f.d] fun _ i l k =>
    k.setReg (i.row f.d.toNat) (BitVec.ofNat 32 (spaceOf (i.rd64 l f.a).toNat).code)

end Sys2Proof.Machine
end

