-- ==== Sys2Proof/Machine/Atomics.lean ====
section
/-! DEFINITION. Atomic operations 0xB0 to 0xB2 (R267, R268, R392 to R395). -/
namespace Sys2Proof.Machine

/-! ## One lane's action (R393) -/

/-- A number of `n` bytes as a signed integer. -/
def signedOf (n v : Nat) : Int := if v % 2 ^ (8 * n) < 2 ^ (8 * n - 1) then (v % 2 ^ (8 * n) : Nat) else (v % 2 ^ (8 * n) : Nat) - 2 ^ (8 * n)

/-- The new value of a location of `n` bytes: current `c`, operand `x`, compare word `cmp` (R393). -/
def atomNew (aop : Aop) (n c x cmp : Nat) : Nat :=
  match aop with
  | .add => (c + x) % 2 ^ (8 * n)
  | .min => if signedOf n x < signedOf n c then x else c
  | .max => if signedOf n c < signedOf n x then x else c
  | .minu => if x < c then x else c
  | .maxu => if c < x then x else c
  | .and => Nat.land c x
  | .or => Nat.lor c x
  | .xor => Nat.xor c x
  | .xchg => x
  | .fadd => (addF fp32 .rne c x).1
  | .cas => if c = cmp then x else c

/-! ## Registers (R392) -/

/-- Bytes of the access. -/
def atBytes (w64 : Bool) : Nat := if w64 then 8 else 4

/-- Registers read at D. -/
def atReads (f : FmtAt) : Nat := (if f.aop = .cas then 2 else 1) * (if f.w64 then 2 else 1)

/-- Registers written at D. -/
def atWrites (w64 : Bool) : Nat := if w64 then 2 else 1

/-- The uses of D: read and, with a return, written. -/
def atUse (f : FmtAt) (ret : Bool) : Use := { r := f.d.toNat, n := atReads f, src := true, dst := ret }

/-- A lane's operand: for CAS the new word. -/
def Iss.atX (i : Iss) (f : FmtAt) (l : Nat) : Nat :=
  let n := atWrites f.w64
  if f.aop = .cas then i.rdWords l f.d (2 * n) / 2 ^ (32 * n) else i.rdWords l f.d n

/-- A lane's compare word. -/
def Iss.atCmp (i : Iss) (f : FmtAt) (l : Nat) : Nat := i.rdWords l f.d (atWrites f.w64)

/-- The groups of an instruction's parts: the lanes of one address and one HTag() are one indivisible action, in lane order
(R267, R394). -/
def atomGroups (ps : List AtomLane) : List (List AtomLane) :=
  ((ps.map fun p => (p.loc, p.group)).eraseDups).map fun g => ps.filter fun p => p.loc == g.1 && p.group == g.2

/-! ## Scratchpad atomics -/

/-- Atomics applied one after another to a scratchpad: the old value of each lane (R267, R395). -/
def scratchAtoms (aop : Aop) (n : Nat) : List AtomLane → List (Nat × Byte) → List (Nat × Nat) × List (Nat × Byte)
  | [], m => ([], m)
  | p :: ps, m =>
    let c := leNum ((List.range n).map fun j => sget (0 : Byte) m (p.loc + j))
    let r := scratchAtoms aop n ps (ssetAll (0 : Byte) m (layAt p.loc (leList n (atomNew aop n c p.x p.cmp))))
    ((p.lane, c) :: r.1, r.2)

/-- Atomics of an instruction on a scratchpad: group after group (R267, R394, R395). -/
def scratchGroups (aop : Aop) (n : Nat) (ps : List AtomLane) (m : List (Nat × Byte)) : List (Nat × Nat) × List (Nat × Byte) :=
  scratchAtoms aop n (atomGroups ps).flatten m

/-- The tag a lane reads under: its nearest unmerged, unrefuted ancestor (R275, R276). -/
def Ctx.readTag (c : Ctx) (h : Nat) : Nat := ((c.path h).head?).getD 0

/-- The part of a lane at a place. -/
def State.atomLane (s : State) (i : Iss) (f : FmtAt) (l loc : Nat) : AtomLane :=
  let h := (i.warp.lane l).hcur.toNat
  { lane := l, loc := loc, x := i.atX f l, cmp := i.atCmp f l, tag := (s.ctx i.team.ctx).readTag h
    drop := (s.tagOf i l).isNone, group := h }

/-! ## Atomics at L2 -/

/-- One lane's action at the directory; the old value (R254, R267, R272). -/
def State.atomAt (s : State) (ctx : Nat) (aop : Aop) (n : Nat) (p : AtomLane) : State × Nat :=
  let c := leNum ((List.range n).map fun j => s.dirByte ctx (p.loc + j) ((s.ctx ctx).path p.tag))
  if p.drop then (s, c) else (s.writeAll ctx p.tag (layAt p.loc (leList n (atomNew aop n c p.x p.cmp))), c)

/-- Lanes in order: the state and the old values. -/
def State.atomLanes (s : State) (ctx : Nat) (aop : Aop) (n : Nat) : List AtomLane → State × List (Nat × Nat)
  | [] => (s, [])
  | p :: ps =>
    let r := s.atomAt ctx aop n p
    let q := r.1.atomLanes ctx aop n ps
    (q.1, (p.lane, r.2) :: q.2)

/-- The groups of a request, one after another. -/
def State.atomAll (s : State) (ctx : Nat) (aop : Aop) (n : Nat) (ps : List AtomLane) : State × List (Nat × Nat) :=
  (atomGroups ps).foldl (fun r g =>
    let q := r.1.atomLanes ctx aop n g
    (q.1, r.2 ++ q.2)) (s, [])

/-- Old values put into a pending access. -/
def State.putOld (s : State) (key : Nat) (olds : List (Nat × Nat)) : State :=
  { s with pend := s.pend.map fun p => if p.key = key then
      { p with lanes := p.lanes.map fun l => match olds.find? (fun o => o.1 == l.lane) with
        | some o => { l with val := some o.2 }
        | none => l }
      else p }

/-- Whether a part acts on a peer's committed data: it goes there in a request. -/
def AtomLane.away (p : AtomLane) : Bool := isPeer p.loc && p.tag == 0 && !p.drop

/-- The requests of atomics on peer lines: one for each line, its parts in lane order (R32, R267). -/
def State.askAtoms (s : State) (core team warp : Nat) (q : AtomReq) : State :=
  let out := q.parts.filter AtomLane.away
  (peerLines (out.map AtomLane.loc)).foldl (fun s l =>
    let ps := out.filter fun p => lineOf p.loc == l
    s.ask 4 l (.thread core team warp q.key) (ps.map AtomLane.lane) fun t =>
      .atom Config.identity t q.bytes q.aop (ps.map fun p => (localOf p.loc, p.x, p.cmp))) s

/-- A request performed at L2: lines held core-dirty are published first (R258, R268); the old values wait
for their return, those of peers for the peers' answers. -/
def State.performAtom (s : State) (core team warp ctx : Nat) (q : AtomReq) : State :=
  let s1 := s.forceOthers none (q.parts.map AtomLane.loc)
  let r := s1.atomAll ctx q.aop q.bytes (q.parts.filter fun p => !p.away)
  ((r.1.putOld q.key r.2).askAtoms core team warp q).takeNonce

/-- A request performed at another core's scratchpad, whose core publishes first what a release there covers (R254, R262,
R384). -/
def State.performHallAtom (s : State) (team : Nat) (q : AtomReq) : State :=
  match s.team? team with
  | none => s
  | some t =>
    let s0 := match t.core? with
      | some c => s.forceCore c []
      | none => s
    let r := scratchGroups q.aop q.bytes q.parts t.scratch
    (s0.updTeam team fun t => { t with scratch := r.2 }).putOld q.key r.1

/-! ## The instructions (R394) -/

/-- An atomic of the active lanes: own-scratchpad lanes act at commit, the others leave through the hold; destinations
are empty until the old values return (R210). -/
def atomBody (s : State) (i : Iss) (f : FmtAt) (ret : Bool) (r : Reach) : Verdict State :=
  let n := atBytes f.w64
  let fs := parkedOf r i.act
  let done := i.act.filter fun l => (r.ans l).placed
  let full := (s.slotFull i (done.filterMap fun l => match r.ans l, s.tagOf i l with
      | .phys u, some t => some (l, t, lineOf u.loc)
      | _, _ => none)).map fun l => ({ cause := causeHFULL, info := BitVec.ofNat 32 l, addr := r.addr l, lane := l } : Trap)
  match lowerTrap (i.reachTrap r) full with
  | some t => .trap t
  | none =>
    if i.act.any fun l => s.mustWait i l false (r.ans l) then .wait
    else if done = [] then .go (s.parkLanes i .atomic fs)
    else
      let own := done.filterMap fun l => match r.ans l with
        | .own off => some (s.atomLane i f l off)
        | _ => none
      let phys := done.filterMap fun l => match r.ans l with
        | .phys u => some (s.atomLane i f l u.loc)
        | _ => none
      let halls := (distinctOf done fun l => match r.ans l with
        | .hall t _ => some t
        | _ => none).map fun t => (t, done.filterMap fun l => match r.ans l with
          | .hall u off => if u = t then some (s.atomLane i f l off) else none
          | _ => none)
      let row := i.row f.d.toNat
      let rel := i.relOf done f.ord f.scp
      let groups : List (Option Nat × List AtomLane) :=
        (if phys = [] then [] else [(none, phys)]) ++ halls.map fun h => (some h.1, h.2)
      let req (k : Nat) (ps : List AtomLane) : AtomReq := { key := s.nextKey + k, aop := f.aop, bytes := n, ret := ret, row := row, parts := ps }
      let out := groups.zipIdx.map fun g => (g.1.1, req g.2 g.1.2)
      let here := if own = [] then [] else [req out.length own]
      let reqs := out.map (·.2) ++ here
      if !s.holdRoom i.core out.length then .stall
      else
        let res := scratchGroups f.aop n own i.team.scratch
        let keyOf (l : Nat) : Option Nat := (reqs.find? fun q => q.parts.any fun p => p.lane == l).map AtomReq.key
        let w := i.warp.updLanes done fun l k => match keyOf l with
          | some key =>
            let k := if acquires f.ord then { k with fence := key :: k.fence } else k
            if ret then k.emptyRows row (.access key) (atWrites f.w64) else k
          | none => k
        let w := w.updLanes (i.entry.filter fun l => !(fs.map (·.1)).contains l) fun _ k => k.step s.len
        let cells := own.flatMap fun p => layAt p.loc (leList n 0)
        let s1 := commit (s.useAll (usesOf r done)) i w false (oldBytes i.team cells)
        let s2 := s1.updTeam i.team.key fun t => { t with scratch := res.2 }
        let s3 := if own ≠ [] then rel.elim s2 fun sc => s2.markOwnRelease i.core sc else s2
        let pends : List Pend := if !ret then [] else reqs.map fun q =>
          { key := q.key, team := i.team.key, warp := i.warp.id, bytes := n, signed := false, atomic := true
            tick := s.tick, lanes := q.parts.map fun p => { lane := p.lane, row := row, val := (res.1.find? fun o => o.1 == p.lane).map (·.2) } }
        let s4 := { s3 with nextKey := s3.nextKey + reqs.length, pend := s3.pend ++ pends }
        .go (((s4.pushHold i (out.map fun q => .atom i.team.ctx q.1 rel q.2)).countClamp i f.ord f.scp).parkLanes i .atomic fs)

/-- ATOM (R394). -/
def execAtom (f : FmtAt) (s : State) : Host.Outcome State Fault Refusal :=
  runWith s (.atom f) f.e [srcN f.a 2, atUse f true] fun s i =>
    atomBody s i f true (genericReach s i .atomic f.a (atBytes f.w64) .def_)

/-- RED (R394): no return. -/
def execRed (f : FmtAt) (s : State) : Host.Outcome State Fault Refusal :=
  runWith s (.red f) f.e [srcN f.a 2, atUse f false] fun s i =>
    atomBody s i f false (genericReach s i .atomic f.a (atBytes f.w64) .def_)

/-- ATOMS (R395). -/
def execAtoms (f : FmtAt) (s : State) : Host.Outcome State Fault Refusal :=
  runWith s (.atoms f) f.e [srcU f.a, atUse f true] fun s i =>
    atomBody s i f true (scratchReach s i f.a (atBytes f.w64))

end Sys2Proof.Machine
end

