-- ==== Sys2Proof/Machine/Control.lean ====
section
/-! DEFINITION. Control flow, 0x00 to 0x0E except IMX: R336 to R345, R452, R453. -/
namespace Sys2Proof.Machine

/-- The commit of a transfer: `move` places each active non-helper lane; the others of the entry go on
(R331); helper lanes only have their own registers changed (R334). -/
def transferTo (s : State) (i : Iss) (link : Nat → Lane → Lane) (move : Nat → Lane → Lane) (taken : Bool) : State :=
  let w1 := i.warp.updLanes i.active link
  let w2 := w1.updLanes i.entry fun l k => if i.act.contains l then move l k else k.step s.len
  commit s i w2 taken

/-- The index after the instruction plus a signed offset (R315). -/
def targetOf (pc : Word) (off : Word) : Word := pc + 1 + off

/-- A lane at a target with a priority; a movement context keeps its own (R323). -/
def Lane.go (k : Lane) (t : Word) (prio : Option (BitVec 4)) : Lane :=
  { k with pc := t, prio := prio.getD k.prio }

/-- The priority an instruction sets: none on the movement sequencer (R323). -/
def Iss.prioOf (i : Iss) (p : BitVec 4) : Option (BitVec 4) := if i.movement then none else some p

/-- NOP (R336). -/
def execNop (s : State) : Host.Outcome State Fault Refusal := runLanes s .nop false [] fun _ _ _ k => k

/-- YIELD (R345): for one issuing warp at a time it only moves on. -/
def execYield (s : State) : Host.Outcome State Fault Refusal := runLanes s .yield false [] fun _ _ _ k => k

/-- PBLK (R317, R337): each lane computes c. -/
def execPblk (f : FmtPB) (s : State) : Host.Outcome State Fault Refusal :=
  runWith s (.pblk f) false [] fun s i =>
    .go (transferTo s i (fun _ k => k) (fun _ k =>
      { k with pc := k.pc + 1, blk := { left := f.len.toNat + 1, pat := f.pat, c := k.pred f.p != f.n } }) false)

/-- BRA (R339). -/
def execBra (f : FmtB) (s : State) : Host.Outcome State Fault Refusal :=
  runWith s (.bra f) false [] fun s i =>
    .go (transferTo s i (fun _ k => k) (fun _ k =>
      if k.pred f.p != f.n then k.go (targetOf k.pc (f.off.signExtend 32)) (i.prioOf f.prio) else k.go (k.pc + 1) none)
      (i.act.any fun l => (i.warp.lane l).pred f.p != f.n))

/-- JMP (R340). -/
def execJmp (f : FmtJ) (s : State) : Host.Outcome State Fault Refusal :=
  runWith s (.jmp f) false [] fun s i =>
    .go (transferTo s i (fun _ k => k) (fun _ k => k.go (targetOf k.pc (f.off.signExtend 32)) none) true)

/-- The link register of CALL: v127, or x63 on the movement sequencer (R340). -/
def Iss.linkReg (i : Iss) : RegNo := if i.movement then 63 else 127

/-- CALL (R340). -/
def execCall (f : FmtJ) (s : State) : Host.Outcome State Fault Refusal :=
  match s.issue with
  | none => .next s
  | some i =>
    .next (checked s i (.call f) false [dstU i.linkReg] fun s i =>
      .go (transferTo s i (fun _ k => k.setReg (i.row i.linkReg.toNat) (i.pc + 1))
        (fun _ k => k.go (targetOf k.pc (f.off.signExtend 32)) none) true))

/-- JMPI (R341). -/
def execJmpi (f : FmtJmpi) (s : State) : Host.Outcome State Fault Refusal :=
  runWith s (.jmpi f) false [srcU f.a] fun s i =>
    .go (transferTo s i (fun _ k => k) (fun l k => k.go (i.rd l f.a) (i.prioOf f.prio)) true)

/-- CALLI (R341): the target is read before the link is written. -/
def execCalli (f : FmtCalli) (s : State) : Host.Outcome State Fault Refusal :=
  runWith s (.calli f) false [srcU f.a, dstU f.d] fun s i =>
    .go (transferTo s i (fun _ k => k.setReg (i.row f.d.toNat) (i.pc + 1))
      (fun l k => k.go (i.rd l f.a) (i.prioOf f.prio)) true)

/-- SETPRIO (R342). -/
def execSetprio (f : FmtPrio) (s : State) : Host.Outcome State Fault Refusal :=
  runWith s (.setprio f) false [] fun s i =>
    .go (transferTo s i (fun _ k => k) (fun _ k => { (k.step s.len) with prio := (i.prioOf f.prio).getD k.prio }) false)

/-- EXIT (R333, R343): on the movement sequencer it ends the program. -/
def execExit (s : State) : Host.Outcome State Fault Refusal :=
  runWith s .exit false [] fun s i =>
    .go ((settleTeam (commit s i ((i.warp.updLanes (i.entry.filter fun l => !i.act.contains l) fun _ k =>
      k.step s.len).exitLanes i.act) true) i.core i.team.key i.warp.id).freeIds i.team.ctx)

/-- Lanes that wait for registers name them anew through a window that has moved (R344). -/
def Warp.renamed (w : Warp) : Warp :=
  { w with lanes := w.lanes.map fun l => match l.wait with
      | .empty _ => { l with wait := .none }
      | _ => l }

/-- WINB (R344): WIN when no register of the window could be named. -/
def execWinb (f : FmtWinb) (s : State) : Host.Outcome State Fault Refusal :=
  runWith s (.winb f) false [] fun s i =>
    if i.allot ≤ 16 * f.base.toNat then
      .trap { cause := causeWIN, info := f.base.zeroExtend 32, lane := i.lead }
    else .go (commit s i { (i.next s.len fun _ k => k).renamed with winBase := f.base } false)

/-- BRK (R452). -/
def execBrk (f : FmtCode) (s : State) : Host.Outcome State Fault Refusal :=
  runWith s (.brk f) false [] fun _ i => .trap { cause := causeBRK, info := f.code.zeroExtend 32, lane := i.lead }

/-- TRAP (R452). -/
def execTrap (f : FmtCode) (s : State) : Host.Outcome State Fault Refusal :=
  runWith s (.trap f) false [] fun _ i => .trap { cause := causeTRAP, info := f.code.zeroExtend 32, lane := i.lead }

/-- RFT (R453): each active lane returns; outside a handler it is ILL. -/
def execRft (s : State) : Host.Outcome State Fault Refusal :=
  runWith s .rft false [] fun s i =>
    match i.act.find? fun l => (i.warp.lane l).handler.isNone with
    | some l => .trap { cause := causeILL, info := wordOf .rft, lane := l }
    | none => .go (transferTo s i (fun _ k => k) (fun _ k => k.ret) true)

end Sys2Proof.Machine
end

