-- ==== Sys2Proof/Machine/Integer.lean ====
section
/-! DEFINITION. Integer instructions 0x10 to 0x3F (R307, R346 to R357). -/
namespace Sys2Proof.Machine

/-! ## Results -/

/-- Bits [63:32] of an exact product (R348). -/
def mulHigh (x y : Int) : Word := BitVec.ofInt 32 (x * y / 2 ^ 32)

/-- A shift by the low five bits of the amount (R307, R348). -/
def shift (k : ShKind) (a b : Word) : Word :=
  let n := b.toNat % 32
  match k with
  | .shl => a <<< n
  | .shr => a >>> n
  | .sar => a.sshiftRight n
  | .rotl => a.rotateLeft n

/-- Byte `i` of a word. -/
def byteOf (w : Word) (i : Nat) : Byte := w.extractLsb' (8 * i) 8

/-- A byte as an integer, signed or not. -/
def byteInt (sg : Bool) (b : Byte) : Int := if sg then b.toInt else (b.toNat : Int)

/-- The sum of four byte products (R348). -/
def dot4 (sg : Bool) (a b : Word) : Word :=
  BitVec.ofInt 32 ((List.range 4).map fun i => byteInt sg (byteOf a i) * byteInt sg (byteOf b i)).sum

/-- Quotient toward zero; all ones for a zero divisor (R349). -/
def divS (a b : Word) : Word := if b = 0 then 0xFFFFFFFF else BitVec.ofInt 32 (a.toInt.tdiv b.toInt)
def divU (a b : Word) : Word := if b = 0 then 0xFFFFFFFF else BitVec.ofNat 32 (a.toNat / b.toNat)
/-- Remainder with the sign of the dividend; the dividend for a zero divisor (R349). -/
def remS (a b : Word) : Word := if b = 0 then a else BitVec.ofInt 32 (a.toInt.tmod b.toInt)
def remU (a b : Word) : Word := if b = 0 then a else BitVec.ofNat 32 (a.toNat % b.toNat)

/-- The number of 1 bits (R350). -/
def popc (a : Word) : Word := BitVec.ofNat 32 ((List.range 32).countP fun i => a.getLsbD i)
/-- The number of leading 0 bits; 32 for 0 (R350). -/
def clz (a : Word) : Word := if a = 0 then 32 else BitVec.ofNat 32 (31 - Nat.log2 a.toNat)

/-- `2 ^ n − 1`; all ones from 32 on (R352). -/
def maskW (n : Nat) : Word := BitVec.ofNat 32 (2 ^ (Nat.min n 32) - 1)

/-- BFE (R352): position b[4:0], length b[13:8], sign bit b[15]. -/
def bfe (a b : Word) : Word :=
  let pos := b.toNat % 32
  let len := Nat.min (b.toNat / 256 % 64) 32
  let f := (a >>> pos) &&& maskW len
  let width := if pos + len ≤ 32 then len else 32 - pos
  if b.getLsbD 15 && len ≠ 0 && f.getLsbD (width - 1) then f ||| ~~~(maskW width) else f

/-- BFI (R352). -/
def bfi (a b d : Word) : Word :=
  let pos := b.toNat % 32
  let m := maskW (Nat.min (b.toNat / 256 % 64) 32) <<< pos
  (d &&& ~~~m) ||| ((a <<< pos) &&& m)

/-- One result byte of BPICK from its selector byte (R353). -/
def pickByte (a b : Word) (c : Byte) : Byte :=
  let n := c.toNat % 8
  let x := if n < 4 then byteOf a n else byteOf b (n - 4)
  match c.toNat / 8 % 4 with
  | 0 => x
  | 1 => 0x00
  | 2 => if x.msb then 0xFF else 0x00
  | _ => 0xFF

/-- BPICK with selector `d` (R353). -/
def bpick (a b d : Word) : Word :=
  pickByte a b (byteOf d 3) ++ pickByte a b (byteOf d 2) ++ pickByte a b (byteOf d 1) ++ pickByte a b (byteOf d 0)

/-- The comparisons of ISETP (R354). -/
def icmp (c : ICond) (a b : Word) : Bool :=
  match c with
  | .eq => a == b
  | .ne => a != b
  | .lt => a.slt b
  | .le => a.sle b
  | .gt => b.slt a
  | .ge => b.sle a
  | .ltu => a.ult b
  | .leu => a.ule b
  | .gtu => b.ult a
  | .geu => b.ule a

/-! ## Shared forms -/

/-- Registers of a two-source form (R347). -/
def usesBin (f : FmtR) : List Use := [srcU f.a, srcU f.b, dstU f.d]
/-- Registers of a form that also reads D (R348). -/
def usesTri (f : FmtR) : List Use := [srcU f.a, srcU f.b, rwU f.d]
/-- Registers of a one-source form (R350). -/
def usesUn (f : FmtR1) : List Use := [srcU f.a, dstU f.d]

/-- A two-source 32-bit form: D := op(a, b) in each active lane (R348). -/
def runBin (s : State) (ins : Instr) (f : FmtR) (op : Word → Word → Word) : Host.Outcome State Fault Refusal :=
  runLanes s ins f.e (usesBin f) fun _ i l k => k.setReg (i.row f.d.toNat) (op (i.rd l f.a) (i.rd l f.b))

/-- A form that also reads D: D := op(a, b, d) (R348). -/
def runTri (s : State) (ins : Instr) (f : FmtR) (op : Word → Word → Word → Word) : Host.Outcome State Fault Refusal :=
  runLanes s ins f.e (usesTri f) fun _ i l k => k.setReg (i.row f.d.toNat) (op (i.rd l f.a) (i.rd l f.b) (i.rd l f.d))

/-- A one-source form: D := op(a) (R350). -/
def runUn (s : State) (ins : Instr) (f : FmtR1) (op : Word → Word) : Host.Outcome State Fault Refusal :=
  runLanes s ins f.e (usesUn f) fun _ i l k => k.setReg (i.row f.d.toNat) (op (i.rd l f.a))

/-- A pair written, low word first (R310). -/
def Lane.setPair (k : Lane) (row : Nat) (v : DWord) : Lane :=
  (k.setReg row (v.extractLsb' 0 32)).setReg (row + 1) (v.extractLsb' 32 32)

/-- Registers of a 64-bit form with pairs A, B and D (R351). -/
def uses64 (f : FmtR) : List Use := [srcN f.a 2, srcN f.b 2, dstN f.d 2]
/-- Registers of LEA: pair A, single B, pair D (R351). -/
def usesLea (f : FmtR) : List Use := [srcN f.a 2, srcU f.b, dstN f.d 2]

/-- A 64-bit form: pair D := op(pair A, pair B) (R351). -/
def run64 (s : State) (ins : Instr) (f : FmtR) (op : DWord → DWord → DWord) : Host.Outcome State Fault Refusal :=
  runLanes s ins f.e (uses64 f) fun _ i l k => k.setPair (i.row f.d.toNat) (op (i.rd64 l f.a) (i.rd64 l f.b))

/-- LEA: pair D := A + (SignExt(b) << n) (R351). -/
def runLea (s : State) (ins : Instr) (f : FmtR) (n : Nat) : Host.Outcome State Fault Refusal :=
  runLanes s ins f.e (usesLea f) fun _ i l k =>
    k.setPair (i.row f.d.toNat) (i.rd64 l f.a + ((i.rd l f.b).signExtend 64 <<< n))

/-- The product of the two words of a pair, signed or not, added to A (R351). -/
def mad64 (sg : Bool) (a b : DWord) : DWord :=
  let x := b.extractLsb' 0 32
  let y := b.extractLsb' 32 32
  if sg then a + x.signExtend 64 * y.signExtend 64 else a + x.zeroExtend 64 * y.zeroExtend 64

/-- The immediate of an I form: sign-extended, or IMM22 << 10 | IMM10 after an IMX (R316, R356). -/
def immOf (ext : Option (BitVec 22)) (imm : BitVec 10) : Word :=
  match ext with
  | some x => x ++ imm
  | none => imm.signExtend 32

/-- An I form: D := op(a, imm) (R356). -/
def runImm (s : State) (ins : Instr) (f : FmtI) (op : Word → Word → Word) : Host.Outcome State Fault Refusal :=
  runLanes s ins false [srcU f.a, dstU f.d] fun s i l k =>
    k.setReg (i.row f.d.toNat) (op (i.rd l f.a) (immOf s.ext f.imm))

/-! ## The instructions -/

/-- IADD (R348). -/
def execIadd (f : FmtR) (s : State) : Host.Outcome State Fault Refusal :=
  runBin s (.iadd f) f fun a b => a + b

/-- ISUB (R348). -/
def execIsub (f : FmtR) (s : State) : Host.Outcome State Fault Refusal :=
  runBin s (.isub f) f fun a b => a - b

/-- IMUL (R348). -/
def execImul (f : FmtR) (s : State) : Host.Outcome State Fault Refusal :=
  runBin s (.imul f) f fun a b => a * b

/-- IMULH (R348). -/
def execImulh (f : FmtR) (s : State) : Host.Outcome State Fault Refusal :=
  runBin s (.imulh f) f fun a b => mulHigh a.toInt b.toInt

/-- IMULHU (R348). -/
def execImulhu (f : FmtR) (s : State) : Host.Outcome State Fault Refusal :=
  runBin s (.imulhu f) f fun a b => mulHigh a.toNat b.toNat

/-- MIN (R348). -/
def execMin (f : FmtR) (s : State) : Host.Outcome State Fault Refusal :=
  runBin s (.min f) f fun a b => if a.slt b then a else b

/-- MAX (R348). -/
def execMax (f : FmtR) (s : State) : Host.Outcome State Fault Refusal :=
  runBin s (.max f) f fun a b => if a.slt b then b else a

/-- MINU (R348). -/
def execMinu (f : FmtR) (s : State) : Host.Outcome State Fault Refusal :=
  runBin s (.minu f) f fun a b => if a.ult b then a else b

/-- MAXU (R348). -/
def execMaxu (f : FmtR) (s : State) : Host.Outcome State Fault Refusal :=
  runBin s (.maxu f) f fun a b => if a.ult b then b else a

/-- AND (R348). -/
def execAnd (f : FmtR) (s : State) : Host.Outcome State Fault Refusal :=
  runBin s (.and f) f fun a b => a &&& b

/-- OR (R348). -/
def execOr (f : FmtR) (s : State) : Host.Outcome State Fault Refusal :=
  runBin s (.or f) f fun a b => a ||| b

/-- XOR (R348). -/
def execXor (f : FmtR) (s : State) : Host.Outcome State Fault Refusal :=
  runBin s (.xor f) f fun a b => a ^^^ b

/-- ANDN (R348). -/
def execAndn (f : FmtR) (s : State) : Host.Outcome State Fault Refusal :=
  runBin s (.andn f) f fun a b => a &&& ~~~b

/-- SHL (R348). -/
def execShl (f : FmtR) (s : State) : Host.Outcome State Fault Refusal :=
  runBin s (.shl f) f fun a b => shift .shl a b

/-- SHR (R348). -/
def execShr (f : FmtR) (s : State) : Host.Outcome State Fault Refusal :=
  runBin s (.shr f) f fun a b => shift .shr a b

/-- SAR (R348). -/
def execSar (f : FmtR) (s : State) : Host.Outcome State Fault Refusal :=
  runBin s (.sar f) f fun a b => shift .sar a b

/-- ROTL (R348). -/
def execRotl (f : FmtR) (s : State) : Host.Outcome State Fault Refusal :=
  runBin s (.rotl f) f fun a b => shift .rotl a b

/-- IDOT4 (R348). -/
def execIdot4 (f : FmtR) (s : State) : Host.Outcome State Fault Refusal :=
  runBin s (.idot4 f) f fun a b => dot4 true a b

/-- IDOT4U (R348). -/
def execIdot4u (f : FmtR) (s : State) : Host.Outcome State Fault Refusal :=
  runBin s (.idot4u f) f fun a b => dot4 false a b

/-- IDIV (R349). -/
def execIdiv (f : FmtR) (s : State) : Host.Outcome State Fault Refusal :=
  runBin s (.idiv f) f fun a b => divS a b

/-- IDIVU (R349). -/
def execIdivu (f : FmtR) (s : State) : Host.Outcome State Fault Refusal :=
  runBin s (.idivu f) f fun a b => divU a b

/-- IREM (R349). -/
def execIrem (f : FmtR) (s : State) : Host.Outcome State Fault Refusal :=
  runBin s (.irem f) f fun a b => remS a b

/-- IREMU (R349). -/
def execIremu (f : FmtR) (s : State) : Host.Outcome State Fault Refusal :=
  runBin s (.iremu f) f fun a b => remU a b

/-- BFE (R352). -/
def execBfe (f : FmtR) (s : State) : Host.Outcome State Fault Refusal :=
  runBin s (.bfe f) f fun a b => bfe a b

/-- IMAD (R348). -/
def execImad (f : FmtR) (s : State) : Host.Outcome State Fault Refusal :=
  runTri s (.imad f) f fun a b d => a * b + d

/-- BFI (R352). -/
def execBfi (f : FmtR) (s : State) : Host.Outcome State Fault Refusal :=
  runTri s (.bfi f) f fun a b d => bfi a b d

/-- BPICK (R353). -/
def execBpick (f : FmtR) (s : State) : Host.Outcome State Fault Refusal :=
  runTri s (.bpick f) f fun a b d => bpick a b d

/-- ABS (R350). -/
def execAbs (f : FmtR1) (s : State) : Host.Outcome State Fault Refusal :=
  runUn s (.abs f) f fun a => if a.msb then 0 - a else a

/-- POPC (R350). -/
def execPopc (f : FmtR1) (s : State) : Host.Outcome State Fault Refusal :=
  runUn s (.popc f) f fun a => popc a

/-- CLZ (R350). -/
def execClz (f : FmtR1) (s : State) : Host.Outcome State Fault Refusal :=
  runUn s (.clz f) f fun a => clz a

/-- BREV (R350). -/
def execBrev (f : FmtR1) (s : State) : Host.Outcome State Fault Refusal :=
  runUn s (.brev f) f fun a => a.reverse

/-- MOV (R350). -/
def execMov (f : FmtR1) (s : State) : Host.Outcome State Fault Refusal :=
  runUn s (.mov f) f fun a => a

/-- IMAD64 (R351). -/
def execImad64 (f : FmtR) (s : State) : Host.Outcome State Fault Refusal :=
  run64 s (.imad64 f) f fun a b => mad64 true a b

/-- IMAD64U (R351). -/
def execImad64u (f : FmtR) (s : State) : Host.Outcome State Fault Refusal :=
  run64 s (.imad64u f) f fun a b => mad64 false a b

/-- IADD64 (R351). -/
def execIadd64 (f : FmtR) (s : State) : Host.Outcome State Fault Refusal :=
  run64 s (.iadd64 f) f fun a b => a + b

/-- ISUB64 (R351). -/
def execIsub64 (f : FmtR) (s : State) : Host.Outcome State Fault Refusal :=
  run64 s (.isub64 f) f fun a b => a - b

/-- LEA.X1 (R351). -/
def execLeaX1 (f : FmtR) (s : State) : Host.Outcome State Fault Refusal := runLea s (.leaX1 f) f 0

/-- LEA.X2 (R351). -/
def execLeaX2 (f : FmtR) (s : State) : Host.Outcome State Fault Refusal := runLea s (.leaX2 f) f 1

/-- LEA.X4 (R351). -/
def execLeaX4 (f : FmtR) (s : State) : Host.Outcome State Fault Refusal := runLea s (.leaX4 f) f 2

/-- LEA.X8 (R351). -/
def execLeaX8 (f : FmtR) (s : State) : Host.Outcome State Fault Refusal := runLea s (.leaX8 f) f 3

/-- ISETP (R354). -/
def execIsetp (f : FmtCI) (s : State) : Host.Outcome State Fault Refusal :=
  runLanes s (.isetp f) f.e [srcU f.a, srcU f.b] fun _ i l k => k.setPred f.pd (icmp f.cond (i.rd l f.a) (i.rd l f.b))

/-- SEL (R355). -/
def execSel (f : FmtRK) (s : State) : Host.Outcome State Fault Refusal :=
  runLanes s (.sel f) false [srcU f.a, srcU f.b, dstU f.d] fun _ i l k =>
    k.setReg (i.row f.d.toNat) (if (i.warp.lane l).pred f.k then i.rd l f.a else i.rd l f.b)

/-- MOVI (R356). -/
def execMovi (f : FmtMovi) (s : State) : Host.Outcome State Fault Refusal :=
  runLanes s (.movi f) false [dstU f.d] fun s i _ k => k.setReg (i.row f.d.toNat) (immOf s.ext f.imm)

/-- IADDI (R356). -/
def execIaddi (f : FmtI) (s : State) : Host.Outcome State Fault Refusal := runImm s (.iaddi f) f fun a m => a + m

/-- ANDI (R356). -/
def execAndi (f : FmtI) (s : State) : Host.Outcome State Fault Refusal := runImm s (.andi f) f fun a m => a &&& m

/-- ORI (R356). -/
def execOri (f : FmtI) (s : State) : Host.Outcome State Fault Refusal := runImm s (.ori f) f fun a m => a ||| m

/-- XORI (R356). -/
def execXori (f : FmtI) (s : State) : Host.Outcome State Fault Refusal := runImm s (.xori f) f fun a m => a ^^^ m

/-- SHI (R357). -/
def execShi (f : FmtSh) (s : State) : Host.Outcome State Fault Refusal :=
  runLanes s (.shi f) false [srcU f.a, dstU f.d] fun _ i l k =>
    k.setReg (i.row f.d.toNat) (shift f.kind (i.rd l f.a) (f.amount.zeroExtend 32))

end Sys2Proof.Machine
end

