-- ==== Sys2Proof/Machine/Fetch.lean ====
section
/-! DEFINITION. Instruction fetch (R245, R315, R332) and IMX with the word it extends (R316, R338). -/
namespace Sys2Proof.Machine

/-- The byte address of a word index (R315). -/
def codeAddr (g : Grid) (pc : Word) : Nat := g.record.codeBase + 4 * pc.toNat

/-- A byte of code at a physical location, as it was when the launch read its record (R245); of a peer, as its line was sent. -/
def codeByte (g : Grid) (loc : Nat) : Byte :=
  if isPeer loc then (lineByte g.lines loc).getD (Config.peerByte loc g.key) else memByte g.code loc

/-- The word at an index and what its translation uses; none where the fetch raises PAGE (R332). -/
def State.fetchAt (s : State) (i : Iss) (pc : Word) : Option (Nat × Use1) :=
  let a := codeAddr i.grid pc
  if 0x01F0000000000000 ≤ a then none
  else match s.translate i.team.ctx i.grid.clamped .fetch a with
    | .phys u => some (leNum ((List.range 4).map fun j => codeByte i.grid (u.loc + j)), u)
    | _ => none

/-- The lines of a peer that the word at an index lies on and that the peer has not sent for this grid yet (R31, R245). -/
def State.fetchAway (s : State) (i : Iss) (pc : Word) : List Nat :=
  match s.translate i.team.ctx i.grid.clamped .fetch (codeAddr i.grid pc) with
  | .phys u => if codeAddr i.grid pc < 0x01F0000000000000 && isPeer u.loc && (lineByte i.grid.lines u.loc).isNone then [u.loc] else []
  | _ => []

/-- The fetch waits for its line, which the peer is asked for (R31, R32). -/
def State.awaitCode (s : State) (i : Iss) (ls : List Nat) : State := markWait (s.askOnce (.code i.grid.key) ls) i

/-- The peer that the word at an index lies on where no link toward it is up, 0 for any other fault (R24; log 59). -/
def State.fetchPeer (s : State) (i : Iss) (pc : Word) : Nat :=
  match s.translate i.team.ctx i.grid.clamped .fetch (codeAddr i.grid pc) with
  | .noPeer p => if codeAddr i.grid pc < 0x01F0000000000000 then p else 0
  | _ => 0

/-- PAGE at a fetched instruction (R24, R248, R332): the words of the record are those fetched. -/
def fetchPage (s : State) (i : Iss) (pc w0 w1 : Word) : State :=
  let l := if i.act = [] then (i.entry.head?).getD 0 else i.lead
  takeTrap s i { cause := causePAGE, info := BitVec.ofNat 32 (l + 256 * s.fetchPeer i pc), addr := codeAddr i.grid pc, lane := l } w0 w1 i.entry

/-- An issue whose word is no instruction: the entry passes where nothing is active, else ILL (R318, R319). -/
def badWord (s : State) (i : Iss) (n : Nat) (info w0 w1 : Word) : State :=
  if i.act = [] then commit s i (i.next n fun _ l => l) false
  else takeTrap s i (ill i info) w0 w1 i.entry

/-- Whether a word's opcode is one that IMX extends (R316). -/
def extendsOpc (w : Nat) : Bool :=
  let o := w / 2 ^ 24
  (decide (0x3A ≤ o) && decide (o ≤ 0x3E)) || (decide (0xA0 ≤ o) && decide (o ≤ 0xA7)) || o == 0xAA ||
  (decide (0xB0 ≤ o) && decide (o ≤ 0xB2))

/-- The meaning of a word that IMX extends; any other word is left to the caller. -/
def execExtended (ins : Instr) (s : State) : Option (Host.Outcome State Fault Refusal) :=
  match ins with
  | .movi f => some (execMovi f s)
  | .iaddi f => some (execIaddi f s)
  | .andi f => some (execAndi f s)
  | .ori f => some (execOri f s)
  | .xori f => some (execXori f s)
  | .ld f => some (execLd f s)
  | .st f => some (execSt f s)
  | .lds f => some (execLds f s)
  | .sts f => some (execSts f s)
  | .ldl f => some (execLdl f s)
  | .stl f => some (execStl f s)
  | .ldp f => some (execLdp f s)
  | .prf f => some (execPrf f s)
  | .cctlClean f => some (execCctlClean f s)
  | .cctlInval f => some (execCctlInval f s)
  | .cctlCleanAll f => some (execCctlCleanAll f s)
  | .atom f => some (execAtom f s)
  | .red f => some (execRed f s)
  | .atoms f => some (execAtoms f s)
  | _ => none

/-- The extension in force ends. -/
def endExt : Host.Outcome State Fault Refusal → Host.Outcome State Fault Refusal
  | .next s => .next { s with ext := none }
  | .fault r => .fault r
  | .refused r => .refused r

/-- IMX (R316, R338): with the next word one instruction. -/
def execImx (f : FmtX) (s : State) : Host.Outcome State Fault Refusal :=
  match s.issue with
  | none => .next s
  | some i =>
    let w0 := wordOf (.imx f)
    if undoFull s i then .next s
    else if i.act = [] then .next (commit s i (i.next 2 fun _ l => l) false)
    else if i.blockIll (.imx f) then .next (takeTrap s i (ill i w0) w0 0 i.entry)
    else if s.fetchAway i (i.pc + 1) ≠ [] then .next (s.awaitCode i (s.fetchAway i (i.pc + 1)))
    else match s.fetchAt i (i.pc + 1) with
      | none => .next (fetchPage (s.takeNonce) i (i.pc + 1) w0 (Config.freeWord s.nonce))
      | some (w, u) =>
        let s1 := s.useAll [u]
        match decode w with
        | .error _ =>
          .next (takeTrap s1 i (ill i (if extendsOpc w then BitVec.ofNat 32 w else w0)) w0 (BitVec.ofNat 32 w) i.entry)
        | .ok ins =>
          match execExtended ins { s1 with ext := some f.imm } with
          | some o => endExt o
          | none => .next (takeTrap s1 i (ill i w0) w0 (BitVec.ofNat 32 w) i.entry)

end Sys2Proof.Machine
end

