-- ==== Sys2Proof/Machine/Fills.lean ====
section
/-! DEFINITION. Filling registers that operations left empty (R311), in the committed state and in the undo
log's copies of it (R113, R313), and the records of a team's engine operations (R423, R424). -/
namespace Sys2Proof.Machine

/-- The cell a filler leaves in a row that its producer left empty. -/
abbrev FillBy := Nat → Nat → Cell → Cell

/-- A lane's rows changed where producer `p` left them empty; a finished lane's fills are dropped (R335, R343). -/
def Lane.fillRows (k : Lane) (p : Producer) (f : Nat → Cell → Cell) : Lane :=
  if k.life = .finished then k
  else k.regs.foldl (fun k rc => if rc.2.fill = .empty p then k.setCell rc.1 (f rc.1 rc.2) else k) k

/-- The lanes of a warp from lane `l` on. -/
def fillLanes (p : Producer) (f : FillBy) : Nat → List Lane → List Lane
  | _, [] => []
  | l, k :: ks => k.fillRows p (f l) :: fillLanes p f (l + 1) ks

def Warp.fillBy (w : Warp) (p : Producer) (f : FillBy) : Warp := { w with lanes := fillLanes p f 0 w.lanes }

/-- Warp `n` of a list of warps changed. -/
def onWarp (n : Nat) (f : Warp → Warp) (ws : List Warp) : List Warp := ws.map fun w => if w.id = n then f w else w

/-- A change of a team's warps, made also in the undo log's copies (R113). -/
def State.patchWarps (s : State) (team : Nat) (f : List Warp → List Warp) : State :=
  let s1 := s.updTeam team fun t => { t with warps := f t.warps }
  { s1 with cores := s1.cores.map fun k =>
      { k with undo := k.undo.map fun u => if u.team = team then { u with warps := f u.warps } else u } }

/-- A change of a team's operation records, made also in the undo log's copies. -/
def State.patchOps (s : State) (team : Nat) (f : List EngOp → List EngOp) : State :=
  let s1 := s.updTeam team fun t => { t with ops := f t.ops }
  { s1 with cores := s1.cores.map fun k =>
      { k with undo := k.undo.map fun u => if u.team = team then { u with ops := f u.ops } else u } }

/-- Rows filled in a warp, and its team woken (R311, R312). -/
def State.fillCells (s : State) (team warp : Nat) (p : Producer) (f : FillBy) : State :=
  wakeTeam (s.patchWarps team (onWarp warp fun w => w.fillBy p f)) team

/-- The value a pending access gives a row of a lane: the words of its value, lowest row first (R378). -/
def Pend.cell (p : Pend) : FillBy := fun l row c =>
  match p.lanes.find? fun q => q.lane == l with
  | some q => { val := BitVec.ofNat 32 (q.val.getD 0 / 2 ^ (32 * (row - q.row))), fill := .full }
  | none => c

/-- A pending access whose values are known fills its registers (R311). -/
def State.fillPend (s : State) (p : Pend) : State :=
  ({ s with pend := s.pend.filter fun q => q.key != p.key }).fillCells p.team p.warp (.access p.key) p.cell

/-! ## Operation records (R423) -/

/-- The engine of an identity. -/
def engineOf (id : Nat) : Nat := id / 2 ^ 24 % 16

/-- The last `n` elements of a list that a test picks are kept, with every other element. -/
def keepLast (p : α → Bool) (n : Nat) (l : List α) : List α :=
  (l.foldl (fun (r : Nat × List α) x =>
    if p x then (if 0 < r.1 then (r.1 - 1, r.2) else (0, r.2 ++ [x])) else (r.1, r.2 ++ [x])) (l.countP p - n, [])).2

/-- A team's records with one more: 256 of each engine are kept (R423). -/
def pushOp (ops : List EngOp) (o : EngOp) : List EngOp :=
  keepLast (fun x => engineOf x.id == engineOf o.id) 256 (ops ++ [o])

/-- The record of an identity: the youngest. -/
def Team.op? (t : Team) (id : Nat) : Option EngOp := t.ops.reverse.find? fun o => o.id == id

/-- A handle value (R423). -/
def handleValue (status id : Nat) : Word := BitVec.ofNat 32 (status * 2 ^ 28 + id)

def statusOK : Nat := 0
def statusCANCELLED : Nat := 1
def statusFAULT : Nat := 2
def statusPAIRFAIL : Nat := 3
def statusBADFMT : Nat := 4
def statusUNKNOWN : Nat := 15

/-- Whether a failed status makes the issuing lane take MMAF (R424). -/
def mmafStatus (status id : Nat) : Bool := (engineOf id == 1 || engineOf id == 2) && (status == 2 || status == 3)

/-- The TRAPINFO of MMAF (R424). -/
def mmafInfo (status id block : Nat) : Word := BitVec.ofNat 32 (block % 65536 + status * 2 ^ 16 + engineOf id * 2 ^ 20)

/-- Lanes that wait for an operation run their FWAIT again (R425). -/
def wakeFwait (id : Nat) (w : Warp) : Warp :=
  { w with lanes := w.lanes.map fun l => if l.wait = .fwait id then { l with wait := .none } else l }

/-- An operation completes: its record, its handle register, and what waits on it (R423 to R425). `block` is
the index of the first K-block not added. -/
def State.completeOp (s : State) (team warp id status block : Nat) : State :=
  let v := handleValue status id
  let cell : Cell := { val := v, fill := if mmafStatus status id then .failed (mmafInfo status id block) else .full }
  let s1 := s.patchOps team fun ops => ops.map fun o => if o.id = id then { o with final := some v } else o
  let s2 := s1.fillCells team warp (.engine id) fun _ _ _ => cell
  s2.patchWarps team fun ws => ws.map (wakeFwait id)

end Sys2Proof.Machine
end

