-- ==== Sys2Proof/Machine/Hypo.lean ====
section
/-! DEFINITION. The hypothesis instructions 0xB8 to 0xBD (R396 to R403) and the return of ids (R277). -/
namespace Sys2Proof.Machine

/-- The code of a state (R396). -/
def NodeState.code : NodeState → Nat
  | .free => 0
  | .open_ => 1
  | .resolving => 2
  | .merged => 3
  | .refuted => 4

/-- The state of an id; the root is always OPEN (R396). -/
def Ctx.stateOf (c : Ctx) (h : Nat) : NodeState :=
  if h = 0 then .open_ else match c.node? h with
    | some n => n.st
    | none => .free

def Ctx.depthOf (c : Ctx) (h : Nat) : Nat := ((c.node? h).map Node.depth).getD 0
def Ctx.parentOf (c : Ctx) (h : Nat) : Nat := ((c.node? h).map Node.parent).getD 0

/-- A context's tree as the copy of a core has it: a node created on another core is FREE there until its creation reaches
the directory (R396, R397), and one that is resolved and held by no thread is FREE (R277). -/
def Ctx.seenBy (c : Ctx) (core : Nat) : Ctx := { c with nodes := c.nodes.filter fun n => (n.atDir || n.core == core) && !n.loose }

/-- The ids in the context's pool: FREE and reserved by no core (R397). -/
def Ctx.pool (c : Ctx) : List Nat :=
  (List.range 256).filter fun h => h != 0 && (c.node? h).isNone && !(c.reserved.any fun r => r.2 == h)

/-- The ids a core has reserved. -/
def Ctx.idsOf (c : Ctx) (core : Nat) : List Nat := (c.reserved.filter fun r => r.1 == core).map (·.2)

/-- A core draws up to `n` ids from the pool; which ones is open (R397; log 7). -/
def Ctx.drawPool (c : Ctx) (core nonce : Nat) : Nat → Ctx
  | 0 => c
  | n + 1 =>
    match c.pool with
    | [] => c
    | p => ({ c with reserved := c.reserved ++ [(core, p.getD (Config.freeNat (nonce + n) % p.length) 0)] }).drawPool core nonce n

/-- The directory has run short: it takes one id back from another core's reservation for this one (R397; log 67). -/
def Ctx.takeBack (c : Ctx) (core nonce : Nat) : Ctx :=
  match c.reserved with
  | [] => c
  | rs => match rs[Config.freeNat nonce % rs.length]? with
    | some r => { c with reserved := (rs.filter fun x => x != r) ++ [(core, r.2)] }
    | none => c

/-- A core whose reservation has run out draws 8 ids, or one that is taken back where the pool is empty (R397, R398). -/
def Ctx.draw (c : Ctx) (core nonce : Nat) : Ctx := if c.pool = [] then c.takeBack core nonce else c.drawPool core nonce 8

/-- The lowest of a list of ids. -/
def lowest : List Nat → Option Nat
  | [] => none
  | x :: xs => some (xs.foldl min x)

/-! ## Refutation at the directory (R276, R398, R401) -/

/-- A node of the tree under `id`, itself included, within `n` steps upward (R276). -/
def Ctx.under (c : Ctx) (id : Nat) : Nat → Nat → Bool
  | 0, _ => false
  | n + 1, h => h != 0 && (h == id || (match c.node? h with
    | some k => c.under id n k.parent
    | none => false))

/-- A held effect's writes under tags that a test picks are discarded (R276, R401). -/
def Eff.discard (ctx up : Nat) (p : Nat → Bool) : Eff → Eff
  | .store c t cells rel => if c = ctx && p t then .store c 0 [] rel else .store c t cells rel
  | .atom c h rel r => .atom c h rel (if c = ctx then
      { r with parts := r.parts.map fun q => if p q.tag then { q with tag := up, drop := true } else q } else r)
  | e => e

/-- The hypothesis tag that engine operations and waits of a context carry, changed (R271, R275, R276). -/
def State.retagOps (s : State) (ctx : Nat) (f : Nat → Nat) (drop : Nat → Bool) : State :=
  let mine (key : Nat) : Bool := ((s.team? key).map Team.ctx) == some ctx
  let mat (o : MatOp) : MatOp := if mine o.team then { o with hcur := f o.hcur } else o
  { s with
    copies := s.copies.map fun (c : CopyOp) => if mine c.team then { c with hcur := f c.hcur, drop := c.drop || drop c.hcur } else c
    waitcs := s.waitcs.map fun (w : WaitC) => if mine w.team then { w with hcur := f w.hcur } else w
    cores := s.cores.map fun (k : Core) => { k with matq := k.matq.map mat }
    teams := s.teams.map fun (t : Team) => { t with mats := t.mats.map mat } }

/-- HREF at the directory: every version under `id` is discarded, and what is merged into it is refuted with it (R276, R401). -/
def State.refuteId (s : State) (ctx id up : Nat) : State :=
  let c := s.ctx ctx
  let p (t : Nat) : Bool := c.under id 256 t
  let g (n : Node) : Node :=
    if p n.id then { n with fate := some false, up := up } else n
  let s := s.retagOps ctx (fun t => if p t then up else t) p
  { (s.updCtx ctx fun c => { c with nodes := c.nodes.map g }) with
    vers := s.vers.filter fun v => !(v.ctx == ctx && p v.id)
    owned := s.owned.filter fun o => !(o.ctx == ctx && p o.tag)
    cores := s.cores.map fun (k : Core) => { k with
      dirty := k.dirty.filter fun d => !(d.ctx == ctx && p d.tag)
      hold := k.hold.map fun h => { h with eff := h.eff.discard ctx up p } } }

/-- A node's creation reaches the directory: under a refuted parent it is REFUTED at once, with what its threads have under way
(R398, R401). -/
def State.arrive (s : State) (ctx id : Nat) : State :=
  let c := s.ctx ctx
  match c.node? id with
  | none => s
  | some n =>
    let up : Option Nat := if n.fate == some false then some n.up
      else match c.node? n.parent with
        | some p => if p.fate == some false then some p.up else none
        | none => none
    let put (st : NodeState) : State := s.updCtx ctx fun c => { c with nodes := c.nodes.map fun k => if k.id = id then { k with atDir := true, st := st } else k }
    match up with
    | some u => (put .refuted).refuteId ctx id u
    | none => put n.st

/-! ## HOPEN (R398) -/

/-- One lane's HOPEN: the context, what it created, its result. -/
def openOne (c : Ctx) (core nonce : Nat) (hcur sel : Nat) : Ctx × Option Nat × Nat :=
  let parent := if sel / 256 % 2 = 1 then 0 else if sel % 256 = 0 then hcur else sel % 256
  if (c.seenBy core).stateOf parent != .open_ && parent != 0 then (c, none, 3 * 2 ^ 28)
  else if c.depthOf parent = 15 then (c, none, 2 * 2 ^ 28)
  else
    let c1 := if c.idsOf core = [] then c.draw core nonce else c
    match lowest (c1.idsOf core) with
    | none => (c1, none, 2 ^ 28)
    | some h =>
      let d := c.depthOf parent + 1
      ({ c1 with
          reserved := c1.reserved.filter fun r => !(r.1 == core && r.2 == h)
          nodes := c1.nodes ++ [{ id := h, st := .open_, parent := parent, depth := d, atDir := false, core := core }] },
        some h, d * 256 + h)

/-- The lanes of an HOPEN in ascending order: context, nodes created, results. -/
def openAll (i : Iss) (f : FmtR1) (nonce : Nat) : List Nat → Ctx → Ctx × List Nat × List (Nat × Nat)
  | [], c => (c, [], [])
  | l :: ls, c =>
    let r := openOne c i.core nonce (i.warp.lane l).hcur.toNat (i.rd l f.a).toNat
    let q := openAll i f (nonce + 8) ls r.1
    (q.1, r.2.1.toList ++ q.2.1, (l, r.2.2) :: q.2.2)

/-- HOPEN (R397, R398): each node takes a position in the hold, no entry. -/
def execHopen (f : FmtR1) (s : State) : Host.Outcome State Fault Refusal :=
  runWith s (.hopen f) f.e [srcU f.a, dstU f.d] fun s i =>
    let r := openAll i f s.nonce i.act (s.ctx i.team.ctx)
    let w := (i.warp.updLanes i.act fun l k =>
      k.setReg (i.row f.d.toNat) (BitVec.ofNat 32 (((r.2.2.find? fun x => x.1 == l).map (·.2)).getD 0))).updLanes i.entry
        fun _ k => k.step s.len
    let s1 := commit s i w false
    let s2 := { s1.updCtx i.team.ctx fun _ => r.1 with nonce := s1.nonce + 8 * i.act.length }
    .go (s2.pushHold i (r.2.1.map fun h => .node i.team.ctx h))

/-! ## HSET, HGET (R399) -/

/-- HSET. -/
def execHset (f : FmtSrc) (s : State) : Host.Outcome State Fault Refusal :=
  runWith s (.hset f) f.e [srcU f.a] fun s i =>
    let c := (s.ctx i.team.ctx).seenBy i.core
    let id (l : Nat) : Nat := (i.rd l f.a).toNat % 256
    let bad (l : Nat) : Bool := c.stateOf (id l) == .free || c.stateOf (id l) == .refuted
    match i.act.find? bad with
    | some l =>
      .trap { cause := causeHORPH, info := BitVec.ofNat 32 (id l + 256 * (c.stateOf (id l)).code), lane := l }
    | none =>
      let w := (i.warp.updLanes i.act fun l k => { k with hcur := BitVec.ofNat 8 (id l) }).updLanes i.entry fun _ k => k.step s.len
      .go ((commit s i w false).freeIds i.team.ctx)

/-- HGET. -/
def execHget (f : FmtDst) (s : State) : Host.Outcome State Fault Refusal :=
  runLanes s (.hget f) f.e [dstU f.d] fun _ i l k => k.setReg (i.row f.d.toNat) ((i.warp.lane l).hcur.zeroExtend 32)

/-! ## HCONF, HREF (R400) -/

/-- A resolve: each active lane, ascending, issues one; its D becomes empty. -/
def resolveBody (s : State) (i : Iss) (d a : RegNo) (confirm : Bool) : Verdict State :=
  if !s.holdRoom i.core i.act.length then .stall
  else
    let n := (s.ctx i.team.ctx).resolves
    let rs : List Resolve := i.act.zipIdx.map fun p =>
      { key := s.nextKey + p.2, ctx := i.team.ctx, id := (i.rd p.1 a).toNat % 256, confirm := confirm, team := i.team.key
        warp := i.warp.id, lane := p.1, row := i.row d.toNat, serial := (n + p.2) % 2 ^ 24 }
    let w := (i.warp.updLanes i.act fun l k => match rs.find? fun r => r.lane == l with
      | some r => k.setEmpty r.row (.engine (6 * 2 ^ 24 + r.serial))
      | none => k).updLanes i.entry fun _ k => k.step s.len
    let s1 := commit s i w false
    let s2 := s1.updCtx i.team.ctx fun c => { c with resolves := c.resolves + rs.length }
    let s3 := s2.updTeam i.team.key fun t => { t with ops := rs.foldl (fun ops r =>
      pushOp ops { id := 6 * 2 ^ 24 + r.serial, warp := r.warp, lane := r.lane, row := r.row }) t.ops }
    .go (({ s3 with nextKey := s3.nextKey + rs.length }).pushHold i (rs.map .resolve))

/-- HCONF. -/
def execHconf (f : FmtR1) (s : State) : Host.Outcome State Fault Refusal :=
  runWith s (.hconf f) f.e [srcU f.a, dstU f.d] fun s i => resolveBody s i f.d f.a true

/-- HREF. -/
def execHref (f : FmtR1) (s : State) : Host.Outcome State Fault Refusal :=
  runWith s (.href f) f.e [srcU f.a, dstU f.d] fun s i => resolveBody s i f.d f.a false

/-! ## HSTAT (R402) -/

/-- The word HSTAT writes. -/
def Ctx.statWord (c : Ctx) (h : Nat) : Nat := (c.stateOf h).code + c.parentOf h * 256 + c.depthOf h * 65536

/-- HSTAT. -/
def execHstat (f : FmtR1) (s : State) : Host.Outcome State Fault Refusal :=
  runLanes s (.hstat f) f.e [srcU f.a, dstU f.d] fun s i l k =>
    k.setReg (i.row f.d.toNat) (BitVec.ofNat 32 (((s.ctx i.team.ctx).seenBy i.core).statWord ((i.rd l f.a).toNat % 256)))

end Sys2Proof.Machine
end

