-- ==== Sys2Proof/Machine/Masks.lean ====
section
/-! DEFINITION. Masks, quads, warps, predicates, barriers and stage rings: 0xC0 to 0xC2, 0xC4, 0xC5, 0xC9,
0xD0 to 0xDF (R404 to R417, R422). -/
namespace Sys2Proof.Machine

/-! ## Masks -/

/-- The active non-helper lanes as a set: S of R406. -/
def Iss.set (i : Iss) : Word := maskOf i.act

/-- A mask changed at commit; what waits on it is re-tested (R406). -/
def runMask (s : State) (ins : Instr) (f : FmtQm) (op : Word → Word → Word) : Host.Outcome State Fault Refusal :=
  runWith s ins f.e [] fun s i =>
    let w := i.next s.len fun _ k => k
    .go (settleTeam (commit s i { w with masks := updAt w.masks f.m.toNat fun m => op m i.set } false)
      i.core i.team.key i.warp.id)

/-- MJOIN (R406). -/
def execMjoin (f : FmtQm) (s : State) : Host.Outcome State Fault Refusal := runMask s (.mjoin f) f fun m x => m ||| x
/-- MLEAVE (R406). -/
def execMleave (f : FmtQm) (s : State) : Host.Outcome State Fault Refusal := runMask s (.mleave f) f fun m x => m &&& ~~~x
/-- MACT (R406). -/
def execMact (f : FmtQm) (s : State) : Host.Outcome State Fault Refusal := runMask s (.mact f) f fun _ x => x

/-- MLD (R406). -/
def execMld (f : FmtQd) (s : State) : Host.Outcome State Fault Refusal :=
  runLanes s (.mld f) f.e [dstU f.d] fun _ i _ k => k.setReg (i.row f.d.toNat) (i.warp.mask f.m.toNat)

/-- MST (R406): the lowest active lane's word, less the lanes that are not live. -/
def execMst (f : FmtQa) (s : State) : Host.Outcome State Fault Refusal :=
  runWith s (.mst f) f.e [srcU f.a] fun s i =>
    let w := i.next s.len fun _ k => k
    let v := i.rd i.lead f.a &&& maskOf i.warp.live
    .go (settleTeam (commit s i { w with masks := updAt w.masks f.m.toNat fun _ => v } false)
      i.core i.team.key i.warp.id)

/-- MWAIT (R407): members arrive and wait, others go on; then the round is tested. -/
def execMwait (f : FmtQm) (s : State) : Host.Outcome State Fault Refusal :=
  runWith s (.mwait f) f.e [] fun s i =>
    let m := f.m.toNat
    let member (l : Nat) : Bool := i.act.contains l && (i.warp.mask m).getLsbD l
    let w := i.warp.updLanes i.entry fun l k => if member l then { k with wait := .mwait m } else k.step s.len
    let w := { w with mwait := updAt w.mwait m fun x => x ||| maskOf (i.act.filter member) }
    .go (settleTeam (commit s i w false) i.core i.team.key i.warp.id)

/-! ## Collectives (R405) -/

/-- Whether a collective is over quads. -/
def quadColl : Instr → Bool
  | .qswp _ => true
  | .qbc _ => true
  | _ => false

/-- The arrival of lane `l`: it reads its sources now; an inactive lane reads nothing. -/
def Iss.arrival (i : Iss) (d a : RegNo) (l : Nat) : Arrival :=
  let act := i.active.contains l
  { lane := l, active := act, a := if act then i.rd l a else 0, d := if act then i.rd l d else 0, row := i.row d.toNat }

/-- The collective at this word for a group, with the arrivals added. -/
def addArrivals (cs : List Coll) (pc : Word) (ins : Instr) (m : Nat) (q : Option Nat) (as : List Arrival) : List Coll :=
  if as = [] then cs
  else if cs.any (fun c => c.pc == pc && c.ins == ins && c.quad == q) then
    cs.map fun c => if c.pc == pc && c.ins == ins && c.quad == q then { c with arr := c.arr ++ as } else c
  else cs ++ [{ pc := pc, ins := ins, mask := m, quad := q, arr := as }]

/-- The groups an issue touches: one per issuing quad, or the warp's. -/
def Iss.groups (i : Iss) (ins : Instr) : List (Option Nat) :=
  if quadColl ins then (quads.filter fun q => i.entry.any fun l => l / 4 == q).map some else [none]

/-- The warp after an issue of a collective: members arrive and wait, non-members go on with their own
result, helpers act as non-members of a warp collective (R405). -/
def Iss.collArrive (i : Iss) (n : Nat) (ins : Instr) (d a : RegNo) (m : Nat) : Warp :=
  let member (l : Nat) : Bool := (i.warp.mask m).getLsbD l
  let w1 := i.warp.updLanes (i.active.filter fun l => !member l && !(quadColl ins && i.helpers.contains l)) fun l k =>
    k.setReg (i.row d.toNat) (nonMember ins (i.rd l a))
  let w2 := w1.updLanes i.entry fun l k => if member l then { k with wait := .coll } else k.step n
  { w2 with colls := (i.groups ins).foldl (fun cs q =>
      addArrivals cs i.pc ins m q ((i.entry.filter fun l => member l && (match q with
        | some q => l / 4 == q
        | none => true)).map (i.arrival d a))) w2.colls }

/-- Groups that this issue completes finish, a quad's with its active helpers (R405). -/
def Iss.collClose (i : Iss) (ins : Instr) (d a : RegNo) (w : Warp) : Warp :=
  w.colls.foldl (fun w c =>
    if w.collDone c then
      w.collFinish c (match c.quad with
        | some q => if c.pc == i.pc && c.ins == ins then (i.helpers.filter fun l => l / 4 == q).map (i.arrival d a) else []
        | none => [])
    else w) w

/-- A collective (R405): lanes of a warp that a predicate block leaves inactive arrive as well. -/
def runColl (s : State) (ins : Instr) (f : FmtQ) (us : List Use) : Host.Outcome State Fault Refusal :=
  match s.issue with
  | none => .next s
  | some i =>
    let body (s : State) (i : Iss) : State :=
      settleTeam (commit s i (i.collClose ins f.d f.a (i.collArrive s.len ins f.d f.a f.m.toNat)) false)
        i.core i.team.key i.warp.id
    if i.act = [] && !i.movement then .next (if undoFull s i then s else body s i)
    else .next (checked s i ins f.e us fun s i => .go (body s i))

/-- The Q form of an exchange with more fields. -/
def qQswp (f : FmtQswp) : FmtQ := ⟨f.d, f.a, f.m, f.e⟩
def qQbc (f : FmtQbc) : FmtQ := ⟨f.d, f.a, f.m, f.e⟩
def qVote (f : FmtVote) : FmtQ := ⟨f.d, f.a, f.m, f.e⟩
def qRed (f : FmtRed) : FmtQ := ⟨f.d, f.a, f.m, f.e⟩

/-- QSWP (R408). -/
def execQswp (f : FmtQswp) (s : State) : Host.Outcome State Fault Refusal := runColl s (.qswp f) (qQswp f) [srcU f.a, dstU f.d]
/-- QBC (R408). -/
def execQbc (f : FmtQbc) (s : State) : Host.Outcome State Fault Refusal := runColl s (.qbc f) (qQbc f) [srcU f.a, dstU f.d]
/-- WSHFL (R410): D holds the index. -/
def execWshfl (f : FmtQ) (s : State) : Host.Outcome State Fault Refusal := runColl s (.wshfl f) f [srcU f.a, rwU f.d]
/-- WVOTE (R411). -/
def execWvote (f : FmtVote) (s : State) : Host.Outcome State Fault Refusal := runColl s (.wvote f) (qVote f) [srcU f.a, dstU f.d]
/-- WRED (R412, R413). -/
def execWred (f : FmtRed) (s : State) : Host.Outcome State Fault Refusal := runColl s (.wred f) (qRed f) [srcU f.a, dstU f.d]
/-- WSCAN (R412, R413). -/
def execWscan (f : FmtRed) (s : State) : Host.Outcome State Fault Refusal := runColl s (.wscan f) (qRed f) [srcU f.a, dstU f.d]

/-- QHLP (R409). -/
def execQhlp (f : FmtDst) (s : State) : Host.Outcome State Fault Refusal :=
  runLanes s (.qhlp f) f.e [dstU f.d] fun _ i l k => k.setReg (i.row f.d.toNat) (if i.helpers.contains l then 1 else 0)

/-- Elect(m): the lowest lane in the mask and active in this warp instruction (R330, R414). -/
def Iss.elect (i : Iss) (m : Nat) : Option Nat := i.active.find? fun l => (i.warp.mask m).getLsbD l

/-- ELECT (R414). -/
def execElect (f : FmtQd) (s : State) : Host.Outcome State Fault Refusal :=
  runLanes s (.elect f) f.e [dstU f.d] fun _ i l k =>
    k.setReg (i.row f.d.toNat) (if i.elect f.m.toNat = some l then 1 else 0)

/-! ## Predicates (R415) -/

/-- PSET. -/
def execPset (f : FmtP) (s : State) : Host.Outcome State Fault Refusal :=
  runLanes s (.pset f) false [] fun _ i l k =>
    let p := i.warp.lane l
    k.setPred f.pd (f.lut.getLsbD (2 * (p.pred f.pa).toNat + (p.pred f.pb).toNat))

/-- PLD. -/
def execPld (f : FmtSrc) (s : State) : Host.Outcome State Fault Refusal :=
  runLanes s (.pld f) f.e [srcU f.a] fun _ i l k => { k with preds := (i.rd l f.a).extractLsb' 0 7 }

/-- PST. -/
def execPst (f : FmtDst) (s : State) : Host.Outcome State Fault Refusal :=
  runLanes s (.pst f) f.e [dstU f.d] fun _ i l k =>
    k.setReg (i.row f.d.toNat) (((1 : BitVec 1) ++ (i.warp.lane l).preds).zeroExtend 32)

/-! ## Barriers (R416, R417) -/

/-- Whether the arrival of the active lanes would be the warp's third (R417). -/
def Iss.thirdArrival (i : Iss) (b : BitVec 4) : Bool :=
  let x := i.team.bar b.toNat
  arrivesWith i.warp (x.part i.warp.id ||| i.set) && !x.room i.warp.id

/-- An arrival of the active lanes, which then wait (`stay`) or go on (R417). -/
def barArrival (s : State) (i : Iss) (b : BitVec 4) (stay : Bool) : State :=
  let w := i.warp.updLanes i.entry fun l k =>
    if stay && i.act.contains l then { k with wait := .barPart b.toNat } else k.step s.len
  let s1 := commit s i w false
  barSettle (s1.updTeam i.team.key fun t => t.barArrive b.toNat i.warp.id i.set) i.core i.team.key

/-- Waiting for the phase of the warp's latest arrival (R417). A warp that has never arrived has nothing
to wait for (log 12). -/
def barWaiting (s : State) (i : Iss) (b : BitVec 4) : State :=
  let x := i.team.bar b.toNat
  let stay : Option Wait :=
    if x.part i.warp.id ≠ 0 then some (.barPart b.toNat)
    else match x.latestOf i.warp.id with
      | some p => if p < x.phase then none else some (.bar b.toNat p)
      | none => none
  let w := i.warp.updLanes i.entry fun l k =>
    match stay with
    | some v => if i.act.contains l then { k with wait := v } else k.step s.len
    | none => k.step s.len
  barSettle (commit s i w false) i.core i.team.key

/-- Lanes that would give their warp a third arrival wait until the phase opens, and count for the watchdog (R417, R418). -/
def barHold (s : State) (i : Iss) (b : BitVec 4) : State :=
  (i.commitOrStay s i.warp (fun l => i.act.contains l) fun _ => .barHeld b.toNat).updTeam i.team.key fun t => t.barWatch b.toNat s.tick

/-- The verdict of an arriving barrier instruction. -/
def barArrives (s : State) (i : Iss) (b : BitVec 4) (stay : Bool) : Verdict State :=
  if i.thirdArrival b then .go (barHold s i b) else .go (barArrival s i b stay)

/-- BAR. -/
def execBar (f : FmtBar) (s : State) : Host.Outcome State Fault Refusal :=
  runWith s (.bar f) false [] fun s i => barArrives s i f.b true

/-- BARA. -/
def execBara (f : FmtBar) (s : State) : Host.Outcome State Fault Refusal :=
  runWith s (.bara f) false [] fun s i => barArrives s i f.b false

/-- BARW. -/
def execBarw (f : FmtBar) (s : State) : Host.Outcome State Fault Refusal :=
  runWith s (.barw f) false [] fun s i => .go (barWaiting s i f.b)

/-! ## Stage rings (R422) -/

/-- A slot index modulo the ring's slot count (R422). -/
def Iss.slotOf (i : Iss) (n : Nat) : Nat := n % 2 ^ i.grid.record.ringLog
/-- The phase of a slot. -/
def Team.phaseOf (t : Team) (ring slot : Nat) : Bool := (((t.rings[ring]?).getD [])[slot]?).getD false
/-- STGW: each active lane waits until the slot's phase equals the one it names (R422). -/
def stageWait (s : State) (i : Iss) (ring : BitVec 2) (slot : Nat → Nat) (phase : Nat → Bool) : State :=
  i.commitOrStay s i.warp
    (fun l => i.act.contains l && i.team.phaseOf ring.toNat (i.slotOf (slot l)) != phase l)
    fun l => .stgw ring.toNat (i.slotOf (slot l)) (phase l)

/-- STGW, immediate form. -/
def execStgwImm (f : FmtStgw) (s : State) : Host.Outcome State Fault Refusal :=
  runWith s (.stgwImm f) false [] fun s i =>
    .go (stageWait s i f.ring (fun _ => f.slot.toNat) fun _ => f.phase)

/-- STGW, register form: slot in [3:0], phase in [4]. -/
def execStgwReg (f : FmtStgR) (s : State) : Host.Outcome State Fault Refusal :=
  runWith s (.stgwReg f) false [srcU f.a] fun s i =>
    .go (stageWait s i f.ring (fun l => (i.rd l f.a).toNat % 16) fun l => (i.rd l f.a).getLsbD 4)

/-- Lanes that wait for a slot's phase go on (R422). -/
def Team.stageWake (t : Team) (ring slot : Nat) (phase : Bool) : Team :=
  { t with warps := t.warps.map fun w =>
      { w with lanes := w.lanes.map fun l => if l.wait = .stgw ring slot phase then l.past else l } }

/-- STGA flips the slot's phase at commit (R422). -/
def stageFlip (s : State) (i : Iss) (ins : Instr) (ring : BitVec 2) (slot : Nat) : Verdict State :=
  if !i.ringLegal ring then .trap (ill i (wordOf ins))
  else
    let n := i.slotOf slot
    let ph := !i.team.phaseOf ring.toNat n
    let s1 := commit s i (i.next s.len fun _ k => k) false
    .go (s1.updTeam i.team.key fun t =>
      ({ t with rings := updAt t.rings ring.toNat fun r => updAt r n fun _ => ph }).stageWake ring.toNat n ph)

/-- STGA, immediate form. -/
def execStgaImm (f : FmtStga) (s : State) : Host.Outcome State Fault Refusal :=
  runWith s (.stgaImm f) false [] fun s i => stageFlip s i (.stgaImm f) f.ring f.slot.toNat

/-- STGA, register form: the slot of the lowest active lane. -/
def execStgaReg (f : FmtStgR) (s : State) : Host.Outcome State Fault Refusal :=
  runWith s (.stgaReg f) false [srcU f.a] fun s i =>
    stageFlip s i (.stgaReg f) f.ring ((i.rd i.lead f.a).toNat % 16)

end Sys2Proof.Machine
end

