-- ==== Sys2Proof/Machine/Sync.lean ====
section
/-! DEFINITION. Waiting on conditions and on operations: WAITC (R420, R421), FTEST, FID, FWAIT, FCAN (R423 to
R425), TIME and CLK (R451). -/
namespace Sys2Proof.Machine

/-! ## WAITC: the condition block (R420) -/

/-- The lowest set bit of a number, over at most `n` bits. -/
def lowBit (v : Nat) : Nat → Nat
  | 0 => 0
  | n + 1 => if v % 2 = 1 then 0 else 1 + lowBit (v / 2) n

/-- The offset of the first byte of a field with a bit outside its mask; `keep` is the value with the
permitted bits cleared. -/
def firstBad (off keep : Nat) : Option Nat := if keep = 0 then none else some (off + lowBit keep 64 / 8)

/-- The offset of the first offending byte of entry `k` (R420): kind, control, argument, value, address. -/
def condBad (r : LRec) (blk : List Byte) (k : Nat) : Option Nat :=
  let o := 16 * k
  let kind := fieldAt blk o 1
  let ctl := fieldAt blk (o + 1) 1
  let arg := fieldAt blk (o + 2) 2
  let val := fieldAt blk (o + 4) 4
  let addr := fieldAt blk (o + 8) 8
  let mem := kind = 1 || kind = 2
  if 7 ≤ kind then some o
  else if ctl / 4 % 32 ≠ 0 || (k ≠ 0 && ctl / 128 ≠ 0) then some (o + 1)
  else if kind = 5 && (r.ringCount ≤ arg % 4 || 2 ^ r.ringLog ≤ arg / 4 % 16) then some (o + 2)
  else match firstBad (o + 2) (if kind = 4 then arg / 256 * 256 else if kind = 5 then arg / 64 * 64 else arg) with
    | some x => some x
    | none => match firstBad (o + 4) (if mem then 0 else if kind = 3 then val / 2 ^ 28 * 2 ^ 28 else if kind = 5 then val / 2 * 2 else val) with
      | some x => some x
      | none => firstBad (o + 8) (if mem then addr % 4 else if kind = 6 then 0 else addr)

/-- The conditions of a block, by entry; unused entries keep their place with KIND 0. -/
def condsOf (blk : List Byte) : List Cond :=
  (List.range 4).map fun k =>
    { kind := fieldAt blk (16 * k) 1, scope := fieldAt blk (16 * k + 1) 1 % 4, arg := fieldAt blk (16 * k + 2) 2
      value := fieldAt blk (16 * k + 4) 4, addr := fieldAt blk (16 * k + 8) 8 }

/-- Whether a condition reads memory. -/
def Cond.reads (c : Cond) : Bool := c.kind == 1 || c.kind == 2

/-! ## Evaluation (R421) -/

/-- The issue under which a lane's watched words are read: of its team wherever it stands. -/
def State.watcher (s : State) (team warp lane : Nat) : Option Iss :=
  match s.team? team with
  | none => none
  | some t => match s.grid? t.grid, t.warpAt warp with
    | some g, some w => some { team := t, grid := g, warp := w, core := (t.core?).getD 384, entry := [lane], act := [lane], helpers := [] }
    | _, _ => none

/-- The byte of a watched word: as the thread sees it, of a peer as the peer last sent it for this WAITC (R31, R421). -/
def State.watchByte (s : State) (i : Iss) (lines : List (Nat × List Byte)) (path : List Nat) (loc : Nat) : Option Byte :=
  match s.decidedByte (s.core i.core) i.team.ctx loc path with
  | some b => some b
  | none => if isPeer loc then lineByte lines loc else some (s.baseByte loc)

/-- A number from bytes that are all there. -/
def numOf (bs : List (Option Byte)) : Option Nat := if bs.any Option.isNone then none else some (leNum (bs.map fun b => b.getD 0))

/-- Whether a word of a hall scratchpad cannot be read yet: its line is absent (R221), a release there waits (R384), or an
earlier access of the warp to that core has not been performed (R222). -/
def State.hallWaits (s : State) (i : Iss) (team off : Nat) : Bool :=
  match s.team? team with
  | some u => u.absentAt off || (u.core?.map s.relOpen).getD false || s.hallHeld i team
  | none => false

/-- A watched word as it lies before the core, with the HCUR of the commit: none while it cannot be read. -/
def State.peekWord (s : State) (i : Iss) (lines : List (Nat × List Byte)) (lane hcur addr : Nat) : Option Nat :=
  match s.generic i .read lane 4 false addr with
  | .own off => if i.team.absentAt off then none else some (s.loadValue i lane 4 (.own off))
  | .hall t off => if (s.team? t).isNone || s.hallWaits i t off then none else some (s.loadValue i lane 4 (.hall t off))
  | .phys u =>
    let path := (s.ctx i.team.ctx).path hcur
    if s.ownedOn i.team.ctx path u.loc then none
    else numOf ((List.range 4).map fun j => s.watchByte i lines path (u.loc + j))
  | _ => none

/-- The publication that reading a watched word as an acquire brings about (R258, R384). -/
def State.watchForce (s : State) (i : Iss) (lane hcur addr : Nat) : State :=
  match s.generic i .read lane 4 false addr with
  | .hall t off => if s.hallWaits i t off then s else s.loadForce i true [.hall t off]
  | .phys u => if s.ownedOn i.team.ctx ((s.ctx i.team.ctx).path hcur) u.loc then s
      else ((s.forceOthers (some i.core) [u.loc]).useAll [u]).takeNonce
  | _ => s

/-- A word watched by a WAITC, read as an acquire with the HCUR of the commit: none while it cannot be read. -/
def State.watchWord (s : State) (i : Iss) (lines : List (Nat × List Byte)) (lane hcur addr : Nat) : State × Option Nat :=
  let s1 := s.watchForce i lane hcur addr
  (s1, s1.peekWord i lines lane hcur addr)

/-- The lines of peers that a memory condition reads and that nothing here decides (R31). -/
def State.watchLines (s : State) (i : Iss) (lane hcur : Nat) (c : Cond) : List Nat :=
  if c.kind != 1 && c.kind != 2 then []
  else match s.generic i .read lane 4 false c.addr with
    | .phys u => (List.range 4).filterMap fun j =>
        if isPeer (u.loc + j) && (s.decidedByte (s.core i.core) i.team.ctx (u.loc + j) ((s.ctx i.team.ctx).path hcur)).isNone
        then some (u.loc + j) else none
    | _ => []

/-- Whether an operation counts as complete: finished, or UNKNOWN to FWAIT (R421, R425). -/
def Team.opDone (t : Team) (id : Nat) : Bool :=
  match t.op? id with
  | some o => o.final.isSome
  | none => true

/-- Whether a condition that reads no memory is satisfied (R421). -/
def State.satisfied (s : State) (i : Iss) (c : Cond) : Bool :=
  match c.kind with
  | 3 => i.team.opDone (c.value % 2 ^ 28)
  | 4 => (match ((s.ctx i.team.ctx).seenBy i.core).stateOf (c.arg % 256) with
      | .merged => true
      | .refuted => true
      | .free => true
      | _ => false)
  | 5 => i.team.phaseOf (c.arg % 4) (c.arg / 4 % 16) == (c.value % 2 == 1)
  | 6 => decide (c.addr ≤ s.tick)
  | _ => false

/-- Whether a condition with the word it read is satisfied (R421). -/
def State.holdsFor (s : State) (i : Iss) (c : Cond) (word : Option Nat) : Bool :=
  match c.kind with
  | 1 => word == some c.value
  | 2 => word.isSome && word != some c.value
  | _ => s.satisfied i c

/-- Whether a condition holds as things lie before the core. -/
def State.peekCond (s : State) (i : Iss) (lines : List (Nat × List Byte)) (lane hcur : Nat) (c : Cond) : Bool :=
  s.holdsFor i c (if c.reads then s.peekWord i lines lane hcur c.addr else none)

/-- The bits of the conditions of a list that a test picks, from bit `k` on. -/
def condMask (p : Cond → Bool) : List Cond → Nat → Nat
  | [], _ => 0
  | c :: cs, k => condMask p cs (k + 1) + if p c then 2 ^ k else 0

/-- The bits of the satisfied conditions of a list that starts at bit `k`, each memory word read as an acquire. -/
def State.condBits (s : State) (i : Iss) (lines : List (Nat × List Byte)) (lane hcur : Nat) : List Cond → Nat → State × Nat
  | [], _ => (s, 0)
  | c :: cs, k =>
    let r := if c.reads then s.watchWord i lines lane hcur c.addr else (s, none)
    let q := r.1.condBits i lines lane hcur cs (k + 1)
    (q.1, q.2 + if r.1.holdsFor i c r.2 then 2 ^ k else 0)

/-- The bits of the used conditions. -/
def usedBits (cs : List Cond) : Nat := condMask (fun c => c.kind != 0) cs 0

/-- Whether the mode of a WAITC holds: ALL or ANY; with nothing used it holds at once (R421). -/
def modeHolds (all : Bool) (used got : Nat) : Bool := used == 0 || (if all then got == used else got != 0)

/-- Whether the checker's read of a memory condition's word waits: its scratchpad line is absent, or an access of the hall must
come first (R208, R222, R384). -/
def State.watchAbsent (s : State) (i : Iss) (lane : Nat) (c : Cond) : Bool :=
  c.reads && match s.generic i .read lane 4 false c.addr with
    | .own off => i.team.absentAt off
    | .hall t off => s.hallWaits i t off
    | _ => false

/-- A WAITC changed. -/
def State.updWait (s : State) (key : Nat) (f : WaitC → WaitC) : State :=
  { s with waitcs := s.waitcs.map fun (x : WaitC) => if x.key = key then f x else x }

/-- A WAITC ends: its D fills with a value. -/
def State.fillWait (s : State) (w : WaitC) (v : Nat) : State :=
  ({ s with waitcs := s.waitcs.filter fun x => x.key != w.key }).fillCells w.team w.warp (.waitc w.key) fun _ _ _ => { val := BitVec.ofNat 32 v }

/-- One evaluation of a WAITC: its D fills when the mode holds (R421); it waits while a line it reads is absent (R208). -/
def State.evalWait (s : State) (w : WaitC) : State :=
  match s.watcher w.team w.warp w.lane with
  | none => s
  | some i =>
    if w.conds.any (s.watchAbsent i w.lane) then s
    else
    let r := s.condBits i w.lines w.lane w.hcur w.conds 0
    if modeHolds w.all (usedBits w.conds) r.2 then r.1.fillWait w r.2
    else r.1.updWait w.key fun x => { x with lastEval := s.tick }

/-- The lines of peers that a WAITC watches are asked for, for its next evaluation (R31, R32). -/
def State.askWait (s : State) (w : WaitC) : State :=
  match s.watcher w.team w.warp w.lane with
  | none => s
  | some i => s.askOnce (.waitc i.core w.key) (w.conds.flatMap (s.watchLines i w.lane w.hcur))

/-- An evaluation at a commit or at a tick: it asks peers for the lines it will read next. -/
def State.evalAsk (s : State) (w : WaitC) : State :=
  let s1 := s.evalWait w
  match s1.waitcs.find? fun x => x.key == w.key with
  | some x => s1.askWait x
  | none => s1

/-- Whether a WAITC's mode holds as things lie before the core: a change has come that it watches (R421). -/
def State.wouldFill (s : State) (w : WaitC) : Bool :=
  match s.watcher w.team w.warp w.lane with
  | some i => !(w.conds.any (s.watchAbsent i w.lane)) &&
      modeHolds w.all (usedBits w.conds) (condMask (s.peekCond i w.lines w.lane w.hcur) w.conds 0)
  | none => false

/-- The WAITCs whose mode holds are evaluated (R421). -/
def State.settleWaits (s : State) : State := s.waitcs.foldl (fun s w => if s.wouldFill w then s.evalWait w else s) s

/-- The timeout of a WAITC: bit 7, and the conditions satisfied (R421). -/
def State.timeoutWait (s : State) (w : WaitC) : State :=
  match s.watcher w.team w.warp w.lane with
  | none => s
  | some i =>
    let r := s.condBits i w.lines w.lane w.hcur w.conds 0
    r.1.fillWait w (if modeHolds w.all (usedBits w.conds) r.2 then r.2 else r.2 + 128)

/-! ## The instruction -/

/-- The block a lane names. -/
def Iss.condBlock (i : Iss) (o : Nat) : List Byte := (List.range 64).map fun j => sget (0 : Byte) i.team.scratch (o + j)

/-- How a memory condition's word is answered, its low address bits apart, which DESC covers (R420). -/
def State.condAt (s : State) (i : Iss) (lane : Nat) (c : Cond) : Answer := s.generic i .read lane 4 false (c.addr - c.addr % 4)

/-- Whether a lane's block lies where a block can be read (R420). -/
def Iss.blockIn (i : Iss) (o : Nat) : Bool := o / 2 ^ 22 % 2 == 0 && decide (o + 64 ≤ i.grid.record.scratchBytes) && o % 64 == 0

/-- The trap of a lane's memory conditions that `pick` selects of their answers. -/
def waitAt (s : State) (i : Iss) (o lane : Nat) (pick : Answer → Option (Nat × Nat)) : Option Trap :=
  ((condsOf (i.condBlock o)).filter Cond.reads).findSome? fun c => (pick (s.condAt i lane c)).map fun k =>
    { cause := k.1, info := BitVec.ofNat 32 (lane + 256 * k.2), addr := c.addr, lane := lane }

/-- A memory condition whose line is poisoned, read at commit (R117, R208). -/
def waitPoison (s : State) (i : Iss) (o lane : Nat) : Option Trap :=
  ((condsOf (i.condBlock o)).filter Cond.reads).findSome? fun c =>
    if s.poisoned i lane 4 (s.condAt i lane c) then
      some { cause := causeECCU, info := BitVec.ofNat 32 lane, addr := c.addr - c.addr % 128, lane := lane }
    else none

/-- The trap of a lane's WAITC (R420): the causes of its addresses, then DESC, ECCU and PAGE (R454). -/
def waitTrap (s : State) (i : Iss) (o lane : Nat) : Option Trap :=
  let desc (x : Nat) : Trap := { cause := causeDESC, info := BitVec.ofNat 32 x, lane := lane }
  if o / 2 ^ 22 % 2 = 1 then some (desc 0)
  else if i.grid.record.scratchBytes < o + 64 then some { cause := causeSCRB, info := BitVec.ofNat 32 lane, addr := o, lane := lane }
  else if o % 64 ≠ 0 then some (desc 0)
  else
    (waitAt s i o lane fun a => match a with
      | .trap k => some (k, 0)
      | _ => none).orElse fun _ =>
    (((List.range 4).findSome? (condBad i.grid.record (i.condBlock o))).map desc).orElse fun _ =>
    (waitPoison s i o lane).orElse fun _ =>
    waitAt s i o lane fun a => match a with
      | .noPeer p => some (causePAGE, p)
      | _ => none

/-- The first memory read of a lane's block that faults (R421). -/
def waitPark (s : State) (i : Iss) (o lane : Nat) : Option (Nat × Nat × Nat) :=
  ((condsOf (i.condBlock o)).filter Cond.reads).findSome? fun c => match s.generic i .read lane 4 false c.addr with
    | .park st => some (lane, c.addr, st)
    | _ => none

/-- Whether a block has a system-scope memory condition (R279). -/
def waitSystem (i : Iss) (o : Nat) : Bool := (condsOf (i.condBlock o)).any fun c => c.reads && c.scope == 3

/-- WAITC (R420, R421). A helper lane's bad block has no stated result and watches nothing (log 7). -/
def execWaitc (f : FmtR) (s : State) : Host.Outcome State Fault Refusal :=
  runWith s (.waitc f) f.e [srcU f.a, srcU f.b, dstU f.d] fun s i =>
    let o (l : Nat) : Nat := (i.rd l f.a).toNat
    if (i.act ++ i.helpers).any fun l => i.blockIn (o l) && i.team.absentAt (o l) then .wait
    else
    match i.act.findSome? fun l => waitTrap s i (o l) l with
    | some t => .trap t
    | none =>
      let help := i.helpers.filter fun l => (waitTrap s i (o l) l).isNone && (waitPark s i (o l) l).isNone
      if (i.act ++ help).any fun l => s.fenced i l || (condsOf (i.condBlock (o l))).any (s.watchAbsent i l) then .wait
      else
        let fs := i.act.filterMap fun l => waitPark s i (o l) l
        let done := (i.act.filter fun l => (waitPark s i (o l) l).isNone) ++ help
        if (i.act.filter fun l => (waitPark s i (o l) l).isNone) = [] then .go (s.parkLanes i .read fs)
        else
          let ws : List WaitC := done.zipIdx.map fun p =>
            let b := i.condBlock (o p.1)
            { key := s.nextKey + p.2, team := i.team.key, warp := i.warp.id, lane := p.1, row := i.row f.d.toNat
              all := 128 ≤ fieldAt b 1 1, conds := condsOf b, hcur := i.tag p.1
              deadline := if i.rd p.1 f.b = 0 then none else some (s.tick + (i.rd p.1 f.b).toNat), lastEval := s.tick }
          let w := i.warp.updLanes i.active fun l k =>
            match ws.find? fun x => x.lane == l with
            | some x => k.setEmpty x.row (.waitc x.key)
            | none => if i.helpers.contains l then k.setReg (i.row f.d.toNat) (Config.freeWord (s.nonce + l)) else k
          let w := w.updLanes (i.entry.filter fun l => !(fs.map (·.1)).contains l) fun _ k => k.step s.len
          let s1 := (commit s i w false).takeNonces 32
          let s2 := { s1 with nextKey := s1.nextKey + ws.length, waitcs := s1.waitcs ++ ws }
          let s3 := if i.grid.clamped && done.any (fun l => waitSystem i (o l)) then
              s2.updCtx i.team.ctx fun c => { c with clamp := satInc c.clamp }
            else s2
          .go ((ws.foldl State.evalAsk s3).parkLanes i .read fs)

/-! ## Handles (R424, R425) -/

/-- FTEST. -/
def execFtest (f : FmtCP) (s : State) : Host.Outcome State Fault Refusal :=
  runLanes s (.ftest f) false [peekU f.a] fun _ i l k => k.setPred f.pd (!i.isEmpty l f.a.toNat)

/-- What FID writes. -/
def fidWord (c : Cell) : Word :=
  match c.fill with
  | .empty (.engine id) => BitVec.ofNat 32 (id % 2 ^ 28)
  | .empty _ => 0xFFFFFFFF
  | _ => c.val &&& 0x0FFFFFFF

/-- FID. -/
def execFid (f : FmtR1) (s : State) : Host.Outcome State Fault Refusal :=
  runLanes s (.fid f) false [peekU f.a, dstU f.d] fun _ i l k =>
    k.setReg (i.row f.d.toNat) (fidWord ((i.warp.lane l).cell (i.row f.a.toNat)))

/-- The identity a lane names. -/
def Iss.identity (i : Iss) (l : Nat) (a : RegNo) : Nat := (i.rd l a).toNat % 2 ^ 28

/-- A lane whose FWAIT names its own failed operation while its handle register still holds it (R424): lane,
row, TRAPINFO. -/
def Iss.failedWait (i : Iss) (a : RegNo) : Option (Nat × Nat × Word) :=
  i.act.findSome? fun l => match i.team.op? (i.identity l a) with
    | some o =>
      if o.warp = i.warp.id ∧ o.lane = l then
        match ((i.warp.lane l).cell o.row).fill with
        | .failed info => if ((i.warp.lane l).cell o.row).val.toNat % 2 ^ 28 = o.id then some (l, o.row, info) else none
        | _ => none
      else none
    | none => none

/-- FWAIT: each active lane writes the handle value, or waits (R425). -/
def execFwait (f : FmtR1) (s : State) : Host.Outcome State Fault Refusal :=
  runWith s (.fwait f) f.e [srcU f.a, dstU f.d] fun s i =>
    match i.failedWait f.a with
    | some (l, row, info) =>
      .go (settle (markRead s i l row) (i.markRead l row) (.fwait f) (.trap { cause := causeMMAF, info := info, lane := l }))
    | none =>
      let value (l : Nat) : Option Word := match i.team.op? (i.identity l f.a) with
        | some o => o.final
        | none => some (handleValue statusUNKNOWN (i.identity l f.a))
      let w := i.warp.updLanes i.active fun l k => match value l with
        | some v => k.setReg (i.row f.d.toNat) v
        | none => k
      .go (i.commitOrStay s w (fun l => i.act.contains l && (value l).isNone) fun l => .fwait (i.identity l f.a))

/-! ## FCAN (R425) -/

/-- The other team of a core pair (R178, R179). -/
def State.pairTeam (s : State) (t : Team) : Option Team :=
  match s.grid? t.grid with
  | some g =>
    let pair (n : Nat) : Nat × Nat := if g.record.hall then (n / g.record.hallTeams, n % g.record.hallTeams / 2) else (0, n / 2)
    if g.record.paired then s.teams.find? fun u => u.grid == t.grid && u.key != t.key && pair u.index == pair t.index && u.place != .gone
    else none
  | none => none

/-- A matrix operation of a team by its identity. -/
def State.matOp? (s : State) (team id : Nat) : Option (Nat × MatOp) :=
  s.cores.findSome? fun k => (k.matq.find? fun o => o.team == team && o.id == id).map fun o => (k.num, o)

/-- A matrix operation taken off its queue and completed (R423). -/
def State.endMat (s : State) (core : Nat) (o : MatOp) (status block : Nat) : State :=
  let s1 := s.updCore core fun k => { k with matq := k.matq.filter fun x => !(x.team == o.team && x.id == o.id) }
  wakeTeam (s1.completeOp o.team o.warp o.id status block) o.team

/-- The partner half of a started MMAP: the pair team's MMAP that is started (R432). -/
def State.partnerOp (s : State) (o : MatOp) : Option (Nat × MatOp) :=
  if engineOf o.id ≠ 2 then none
  else match (s.team? o.team).bind s.pairTeam with
    | none => none
    | some t => s.cores.findSome? fun k =>
        (k.matq.find? fun x => x.team == t.key && engineOf x.id == 2 && (x.started || x.nextK != 0)).map fun x => (k.num, x)

/-- FCAN on one identity. -/
def State.cancel (s : State) (team id : Nat) : State :=
  match s.matOp? team id with
  | none => s
  | some (core, o) =>
    let halves : List (Nat × MatOp) := (core, o) :: (s.partnerOp o).toList
    if o.started then
      halves.foldl (fun s h => s.updCore h.1 fun k =>
        { k with matq := k.matq.map fun x => if x.team = h.2.team ∧ x.id = h.2.id then { x with cancel := true } else x }) s
    else if o.nextK = 0 then s.endMat core o statusCANCELLED 0
    else halves.foldl (fun s h => s.endMat h.1 h.2 statusCANCELLED h.2.nextK) s

/-- FCAN: once for each distinct identity (R425). -/
def execFcan (f : FmtSrc) (s : State) : Host.Outcome State Fault Refusal :=
  runWith s (.fcan f) f.e [srcU f.a] fun s i =>
    .go (((i.act.map fun l => i.identity l f.a).eraseDups).foldl (fun s id => s.cancel i.team.key id)
      (commit s i (i.next s.len fun _ k => k) false))

/-! ## Clocks (R451) -/

/-- TIME: the tick count, the same in every lane; every core's copy is the device's (log 61). -/
def execTime (f : FmtD) (s : State) : Host.Outcome State Fault Refusal :=
  runLanes s (.time f) false [dstN f.d 2] fun s i _ k => k.setPair64 (i.row f.d.toNat) s.tick

/-- CLK: the cluster's cycle count. -/
def execClk (f : FmtD) (s : State) : Host.Outcome State Fault Refusal :=
  runLanes s (.clk f) false [dstN f.d 2] fun s i _ k =>
    k.setPair64 (i.row f.d.toNat) ((s.cluster (i.core / 4)).kcyc / 1000)

end Sys2Proof.Machine
end

