-- ==== Sys2Proof/Machine/MatrixInstr.lean ====
section
/-! DEFINITION. The instructions of the matrix engine and the accumulator tiles, 0xE0 to 0xE5 (R226, R227, R426
to R428, R434, R435). -/
namespace Sys2Proof.Machine

/-! ## Tiles (R226) -/

/-- The key of a tile word. -/
def tileKey (tile row col : Nat) : Nat := 32768 * tile + 256 * row + col

/-- A tile word; a word not listed is 0 (R181). -/
def Team.tileWord (t : Team) (tile row col : Nat) : Word := sget (0 : Word) t.tiles (tileKey tile row col)

/-- The tile a matrix operation writes (R427). -/
def MatOp.tile (o : MatOp) : Nat := fieldAt o.block 0 4 / 1024 % 4

/-- Whether an earlier MMA or MMAP of the team on a tile has not completed (R226). -/
def State.tileBusy (s : State) (team tile : Nat) : Bool :=
  s.cores.any fun k => k.matq.any fun o => o.team == team && o.tile == tile

/-! ## MMA, MMAP (R426) -/

/-- The trap of a lane's block offset: ALN, then SCRB (R380, R426). -/
def blockTrap (i : Iss) (o lane : Nat) : Option Trap :=
  if o % 64 ≠ 0 then some { cause := causeALN, info := BitVec.ofNat 32 lane, addr := o, lane := lane }
  else if i.grid.record.scratchBytes < o + 64 then some { cause := causeSCRB, info := BitVec.ofNat 32 lane, addr := o, lane := lane }
  else none

/-- The operations the active lanes issue, ascending (R423, R426). -/
def matOps (s : State) (i : Iss) (f : FmtR1) (engine count : Nat) : List MatOp :=
  i.act.zipIdx.map fun p =>
    { team := i.team.key, warp := i.warp.id, lane := p.1, row := i.row f.d.toNat
      id := engine * 2 ^ 24 + (count + p.2) % 2 ^ 24, tick := s.tick, hcur := (i.warp.lane p.1).hcur.toNat
      block := i.condBlock (i.rd p.1 f.a).toNat, pc := i.pc }

/-- An operation issued by each active lane (R227, R426); its handle register becomes empty. The first eight stand in the
engine's queue; those behind wait in place, and hold the warp (`State.matHolds`). -/
def matIssue (s : State) (i : Iss) (f : FmtR1) (engine : Nat) : Verdict State :=
  match i.act.findSome? fun l => blockTrap i (i.rd l f.a).toNat l with
  | some t => .trap t
  | none =>
    let q := (s.core i.core).matq.length
    if i.act.any (fun l => i.team.absentAt (i.rd l f.a).toNat) || decide (8 ≤ q) then .wait
    else
      let os := matOps s i f engine (if engine = 1 then i.team.mmaCount else i.team.mmapCount)
      let w := (i.warp.updLanes i.act fun l k => match os.find? fun o => o.lane == l with
        | some o => k.setEmpty o.row (.engine o.id)
        | none => k).updLanes i.entry fun _ k => k.step s.len
      let s1 := (commit s i w false).updTeam i.team.key fun t =>
        { t with
          ops := os.foldl (fun ops o => pushOp ops { id := o.id, warp := o.warp, lane := o.lane, row := o.row }) t.ops
          mmaCount := if engine = 1 then t.mmaCount + os.length else t.mmaCount
          mmapCount := if engine = 1 then t.mmapCount else t.mmapCount + os.length }
      .go (s1.updCore i.core fun k => { k with matq := k.matq ++ os })

/-- MMA. -/
def execMma (f : FmtR1) (s : State) : Host.Outcome State Fault Refusal :=
  runWith s (.mma f) f.e [srcU f.a, dstU f.d] fun s i => matIssue s i f 1

/-- MMAP. -/
def execMmap (f : FmtR1) (s : State) : Host.Outcome State Fault Refusal :=
  runWith s (.mmap f) f.e [srcU f.a, dstU f.d] fun s i => matIssue s i f 2

/-! ## TLD, TST (R434) -/

/-- Tile, row and first column of a selector for a lane. -/
def selTile (v : Word) : Nat := v.toNat % 4
def selRow (v : Word) (lane : Nat) : Nat := 32 * (v.toNat / 4 % 4) + lane
def selCol (v : Word) : Nat := 8 * (v.toNat / 16 % 32)

/-- The trap or the wait of the tiles the lanes name. -/
def tileTest (s : State) (i : Iss) (ins : Instr) (tile : Nat → Nat) : Verdict Unit :=
  match i.act.find? fun l => i.grid.record.accTiles ≤ tile l with
  | some l => .trap { cause := causeILL, info := wordOf ins, lane := l }
  | none => if i.active.any fun l => s.tileBusy i.team.key (tile l) then .wait else .go ()

/-- The eight words a lane's TLD reads, as one number; a helper lane's bad tile gives 0 (R319). -/
def tldValue (i : Iss) (v : Word) (lane : Nat) : Nat :=
  if i.grid.record.accTiles ≤ selTile v then 0
  else ((List.range 8).map fun j => (i.team.tileWord (selTile v) (selRow v lane) (selCol v + j)).toNat * 2 ^ (32 * j)).sum

/-- TLD: its registers are empty from its commit until the tile read completes (R311, R434, log 8). -/
def execTld (f : FmtR1) (s : State) : Host.Outcome State Fault Refusal :=
  runWith s (.tld f) f.e [srcU f.a, dstN f.d 8] fun s i =>
    match tileTest s i (.tld f) fun l => selTile (i.rd l f.a) with
    | .trap t => .trap t
    | .wait => .wait
    | .stall => .stall
    | .go () =>
      let row := i.row f.d.toNat
      let s1 := commit s i (i.next s.len fun _ k => k.emptyRows row (.access s.nextKey) 8) false
      let ls : List PendLane := i.active.map fun l => { lane := l, row := row, val := some (tldValue i (i.rd l f.a) l) }
      let p : Pend := { key := s.nextKey, team := i.team.key, warp := i.warp.id, bytes := 32, signed := false, atomic := false, tick := s.tick, lanes := ls }
      .go { s1.takeKey with pend := s1.pend ++ [p] }

/-- Tile words written; the tiles they lie in are live again (R435). -/
def Team.writeTiles (t : Team) (ws : List (Nat × Word)) : Team :=
  { t with tiles := ssetAll (0 : Word) t.tiles ws, freed := t.freed.filter fun k => !(ws.any fun w => w.1 / 32768 == k) }

/-- The words a list of writes replaces. -/
def oldTiles (t : Team) (ws : List (Nat × Word)) : List (Nat × Word) := ws.map fun w => (w.1, sget (0 : Word) t.tiles w.1)

/-- TST: the highest lane's word stands. -/
def execTst (f : FmtR1) (s : State) : Host.Outcome State Fault Refusal :=
  runWith s (.tst f) f.e [srcU f.a, srcN f.d 8] fun s i =>
    match tileTest s i (.tst f) fun l => selTile (i.rd l f.a) with
    | .trap t => .trap t
    | .wait => .wait
    | .stall => .stall
    | .go () =>
      let ws := i.act.flatMap fun l => (List.range 8).map fun j =>
        (tileKey (selTile (i.rd l f.a)) (selRow (i.rd l f.a) l) (selCol (i.rd l f.a) + j), i.rdN l f.d j)
      .go ((commit s i (i.next s.len fun _ k => k) false [] (oldTiles i.team ws)).updTeam i.team.key fun t => t.writeTiles ws)

/-! ## TZERO, TFREE (R435) -/

/-- The words of a tile that are not 0. -/
def Team.tileCells (t : Team) (tile : Nat) : List (Nat × Word) := t.tiles.filter fun w => w.1 / 32768 == tile

/-- A tile cleared: `free` says whether it is released as well. -/
def clearTile (s : State) (i : Iss) (ins : Instr) (tile : Nat) (free : Bool) : Verdict State :=
  match tileTest s i ins fun _ => tile with
  | .trap t => .trap t
  | .wait => .wait
  | .stall => .stall
  | .go () =>
    .go ((commit s i (i.next s.len fun _ k => k) false [] (i.team.tileCells tile)).updTeam i.team.key fun t =>
      { t with
        tiles := t.tiles.filter fun w => !(w.1 / 32768 == tile)
        freed := (t.freed.filter fun k => k != tile) ++ if free then [tile] else [] })

/-- TZERO. -/
def execTzero (f : FmtTile) (s : State) : Host.Outcome State Fault Refusal :=
  runWith s (.tzero f) false [] fun s i => clearTile s i (.tzero f) f.t.toNat false

/-- TFREE. -/
def execTfree (f : FmtTile) (s : State) : Host.Outcome State Fault Refusal :=
  runWith s (.tfree f) false [] fun s i => clearTile s i (.tfree f) f.t.toNat true

end Sys2Proof.Machine
end

