-- ==== Sys2Proof/Machine/Movement.lean ====
section
/-! DEFINITION. The movement instructions 0xE8 to 0xEF (R436 to R448): descriptors, tokens, issue. -/
namespace Sys2Proof.Machine

/-! ## Tokens (R437) -/

def Warp.token (w : Warp) (t : Nat) : Token := (w.tokens[t]?).getD {}

/-- The error flags of tk0 to tk7. -/
def Warp.tokErr (w : Warp) : Nat := ((List.range 8).map fun t => if (w.token t).err then 2 ^ t else 0).sum
/-- The completion bits of tk0 to tk7. -/
def Warp.tokDone (w : Warp) : Nat := ((List.range 8).map fun t => if (w.token t).ops = [] then 2 ^ t else 0).sum

/-- Whether every token of a mask is complete (R436). -/
def Warp.tokensDone (w : Warp) (wm : BitVec 8) : Bool := (List.range 8).all fun t => !wm.getLsbD t || (w.token t).ops == []

/-- A movement instruction: it is not checked until every token of WM is complete (R436). -/
def runMove (s : State) (ins : Instr) (wm : BitVec 8) (us : List Use) (body : State → Iss → Verdict State) :
    Host.Outcome State Fault Refusal :=
  match s.issue with
  | none => .next s
  | some i =>
    if i.movement && i.act != [] && !i.warp.tokensDone wm then .next (markWait s i)
    else .next (checked s i ins false us body)

/-! ## Elements of an operation -/

/-- Element `n` of an operation: destination and source offsets; no source for zero fill (R442, R445). -/
def elemAt : List Dim → Nat → Nat × Option Nat
  | [], _ => (0, some 0)
  | d :: ds, n =>
    let o := n % d.ext
    let c := if d.rev then d.ext - 1 - o else o
    let r := elemAt ds (n / d.ext)
    (r.1 + o * d.dstr, if c < d.lim then r.2.map (· + c * d.sstr) else none)

/-- Elements of an operation. -/
def countOf (ds : List Dim) : Nat := ds.foldl (fun n d => n * d.ext) 1

/-- The bytes from the lowest to past the highest touched, as a length: destination and source hulls (R442). -/
def hullDst (es : Nat) (ds : List Dim) : Nat := es + (ds.map fun d => (d.ext - 1) * d.dstr).sum
def hullSrc (es : Nat) (ds : List Dim) : Nat := es + (ds.map fun d => (Nat.min d.ext d.lim - 1) * d.sstr).sum

/-- The hall window of a core-in-cluster (R241). -/
def hallBase (c : Nat) : Nat := 0x01F1000000000000 + c * 2 ^ 20

/-- The program addresses an element's destination offset stands for: one, or one for each core of CPYM. -/
def dstAddrs (kind : CopyKind) (mask dst off : Nat) : List Nat :=
  if kind = .cpym then ((List.range 4).filter fun c => mask / 2 ^ c % 2 = 1).map fun c => hallBase c + dst + off
  else [dst + off]

/-- The destination lines of an operation, as program addresses divided by 128. -/
def dstLines (kind : CopyKind) (mask dst : Nat) (ds : List Dim) : List Nat :=
  ((List.range (countOf ds)).flatMap fun n => (dstAddrs kind mask dst (elemAt ds n).1).map (· / 128)).eraseDups

/-! ## Ends of an operation (R240, R244, R440) -/

/-- How an end of an operation fails. -/
inductive EndTest where
  | ok | desc | prot
  deriving DecidableEq, Repr

/-- The test of the `n` bytes from `a` on (R240, R241, R244, R440). -/
def State.endTest (s : State) (i : Iss) (a n : Nat) : EndTest :=
  if 2 ^ 57 ≤ a then .prot
  else match spaceOf a, spaceOf (a + n - 1) with
    | .global, .global => .ok
    | .own o, .own _ => if i.grid.record.scratchBytes < o + n then .desc else .ok
    | .hall c o, .hall e _ =>
      if c ≠ e || (s.hallTeam i c).isNone || i.grid.record.scratchBytes < o + n then .desc else .ok
    | .alias_ x, .alias_ y =>
      match s.aliasAt i.team.ctx x 1, s.aliasAt i.team.ctx y 1 with
      | .trap _, _ => .prot
      | _, .trap _ => .prot
      | _, _ => .ok
    | _, _ => .desc

/-- Whether an address translates to a peer, one with no link up too (R32, R440). -/
def State.peerAt (s : State) (i : Iss) (k : Kind) (a : Nat) : Bool :=
  match spaceOf a with
  | .global => match s.translate i.team.ctx false k a with
    | .phys u => isPeer u.loc
    | .noPeer _ => true
    | _ => false
  | _ => false

/-- Whether some page of a range translates to a peer (R32, R440). -/
def State.onPeer (s : State) (i : Iss) (k : Kind) (a n : Nat) : Bool :=
  (List.range ((a + n - 1) / 4096 - a / 4096 + 1)).any fun p => s.peerAt i k (a / 4096 * 4096 + 4096 * p)

/-- The pages that the sources and the destinations of an operation's elements touch (R442). -/
def touched (dst src : Nat) (ds : List Dim) : List Nat × List Nat :=
  let es := (List.range (countOf ds)).map (elemAt ds)
  ((es.map fun e => (dst + e.1) / 4096).eraseDups, (es.filterMap fun e => e.2.map fun o => (src + o) / 4096).eraseDups)

/-- Whether elements of an operation touch peers at both ends (R32, R442). -/
def State.bothOnPeers (s : State) (i : Iss) (dst src : Nat) (ds : List Dim) : Bool :=
  let p := touched dst src ds
  (p.2.any fun a => s.peerAt i .copySrc (4096 * a)) && p.1.any fun a => s.peerAt i .copyDst (4096 * a)

/-- Two ranges share a byte. -/
def overlap (a n b m : Nat) : Bool := a < b + m && b < a + n

/-- The least of the offsets that offend (R439). -/
def leastBad (bs : List (Option Nat)) : Option Nat := lowest (bs.filterMap id)

/-- An offset when a test holds. -/
def badIf (c : Bool) (off : Nat) : Option Nat := if c then some off else none

/-- The first byte that is not zero among `n` from `off`. -/
def nonzeroAt (bs : List Byte) (off n : Nat) : Option Nat :=
  ((List.range n).find? fun k => fieldAt bs (off + k) 1 != 0).map (off + ·)

/-! ## Issue (R214, R437, R441) -/

/-- What an operation's ends and shape are. -/
structure MovePlan where
  kind : CopyKind
  es : Nat
  src : Nat
  dst : Nat
  dims : List Dim
  mask : Nat := 0
  deriving DecidableEq, Repr

/-- Whether both ends lie in the own scratchpad (R441). -/
def MovePlan.internal (p : MovePlan) : Bool :=
  p.kind != .lxf && p.kind != .cpym && (match spaceOf p.src, spaceOf p.dst with
    | .own _, .own _ => true
    | _, _ => false)

/-- The scratchpad line of an own-window program line. -/
def ownLine (l : Nat) : Nat := l - 0x01F0000000000000 / 128

/-- Presence cleared for an operation's own-scratchpad lines (R221). -/
def clearLines (absent : List (Nat × List Nat)) (key : Nat) (lines : List Nat) : List (Nat × List Nat) :=
  lines.foldl (fun ab l =>
    if ab.any (fun a => a.1 == l) then ab.map fun a => if a.1 = l then (l, a.2 ++ [key]) else a
    else ab ++ [(l, [key])]) absent

/-- A token with one more operation (R437). -/
def Token.push (t : Token) (key : Nat) : Token := if t.ops = [] then { ops := [key], err := false } else { t with ops := t.ops ++ [key] }

/-- LXF commands of a cluster that are in its queue or on their way there: those that its cores hold (R235). -/
def State.layCount (s : State) (cluster : Nat) : Nat :=
  (s.copies.filter fun c => c.kind == .lxf && c.core / 4 == cluster && ((s.team? c.team).map fun t => t.core?.isSome || t.place == .gone).getD false).length

/-- The issue of an operation on a token. -/
def moveIssue (s : State) (i : Iss) (tok : BitVec 3) (p : MovePlan) : Verdict State :=
  let full := decide (32 ≤ (i.warp.tokens.map fun t => t.ops.length).sum)
  let lxfFull := p.kind == .lxf && decide (16 ≤ s.layCount (i.core / 4))
  if full || lxfFull then .wait
  else if !p.internal && !s.holdRoom i.core 1 then .stall
  else
    let key := s.nextKey
    let lines := dstLines p.kind p.mask p.dst p.dims
    let op : CopyOp :=
      { key := key, kind := p.kind, team := i.team.key, core := i.core, tok := tok.toNat
        hcur := (i.warp.lane 0).hcur.toNat, tick := s.tick, es := p.es, src := p.src, dst := p.dst, dims := p.dims
        mask := p.mask, internal := p.internal, clamped := i.grid.clamped, jobs := lines.map fun l => { line := l }
        left_ := p.internal }
    let w := { (i.next s.len fun _ k => k) with tokens := updAt i.warp.tokens tok.toNat fun t => t.push key }
    let old := if p.internal then oldBytes i.team (lines.flatMap fun l => (List.range 128).map fun j => (128 * ownLine l + j, (0 : Byte)))
      else []
    let s1 := ({ commit s i w false old with copies := s.copies ++ [op] }).takeKey
    if p.internal then .go (s1.updTeam i.team.key fun t => { t with absent := clearLines t.absent key (lines.map ownLine) })
    else .go (s1.pushHold i [.copy key])

/-- A DESC trap of the movement context (R439). -/
def descTrap (off : Nat) : Trap := { cause := causeDESC, info := BitVec.ofNat 32 off, lane := 0 }

/-- A PROT trap of an end (R240, R244). -/
def protTrap (a : Nat) : Trap := { cause := causePROT, info := 0, addr := a, lane := 0 }

/-! ## CPY, CPYM (R440, R441) -/

/-- The x register with an index. -/
def xReg (a : RegNo) (k : Nat) : RegNo := a + BitVec.ofNat 7 k

/-- The registers CPY and CPYM read. -/
def cpyUses (a : RegNo) : List Use := [srcN a 2, srcN (xReg a 2) 2, srcU (xReg a 4)]

/-- One dimension of contiguous elements. -/
def lineDim (n es : Nat) : Dim := { ext := n, dstr := es, sstr := es, lim := n, rev := false }

/-- CPY. -/
def execCpy (f : FmtE) (s : State) : Host.Outcome State Fault Refusal :=
  runMove s (.cpy f) f.wm (cpyUses f.a) fun s i =>
    let src := (i.rd64 0 f.a).toNat
    let dst := (i.rd64 0 (xReg f.a 2)).toNat
    let ctl := (i.rd 0 (xReg f.a 4)).toNat
    let n := ctl % 2 ^ 24
    let lg := ctl / 2 ^ 24 % 8
    let es := if lg ≤ 4 then 2 ^ lg else 1
    let ts := s.endTest i src (max n 1)
    let td := s.endTest i dst (max n 1)
    let a := 0x100 + f.a.toNat
    if ts = .prot then .trap (protTrap src)
    else if td = .prot then .trap (protTrap dst)
    else match leastBad [badIf (src % es != 0 || ts == .desc) a, badIf (dst % es != 0 || td == .desc) (a + 2),
        badIf (overlap src n dst n || (s.onPeer i .copySrc src (max n 1) && s.onPeer i .copyDst dst (max n 1))) (a + 2),
        badIf (ctl / 2 ^ 27 != 0 || decide (4 < lg) || n == 0 || n % es != 0) (a + 4)] with
      | some off => .trap (descTrap off)
      | none => moveIssue s i f.tok { kind := .cpy, es := es, src := src, dst := dst, dims := [lineDim (n / es) es] }

/-- CPYM. -/
def execCpym (f : FmtEm) (s : State) : Host.Outcome State Fault Refusal :=
  runMove s (.cpym f) f.wm (cpyUses f.a) fun s i =>
    let src := (i.rd64 0 f.a).toNat
    let dst := (i.rd64 0 (xReg f.a 2)).toNat
    let ctl := (i.rd 0 (xReg f.a 4)).toNat
    let n := ctl % 2 ^ 24
    let lg := ctl / 2 ^ 24 % 8
    let es := if lg ≤ 4 then 2 ^ lg else 1
    let ts := s.endTest i src (max n 1)
    let cores := (List.range 4).filter fun c => f.mask.getLsbD c
    let a := 0x100 + f.a.toNat
    let lap := cores.any fun c => overlap src n (hallBase c + dst) n ||
      (c == i.core % 4 && overlap src n (0x01F0000000000000 + dst) n)
    if ts = .prot then .trap (protTrap src)
    else match leastBad [badIf (src % es != 0 || ts == .desc) a,
        badIf (dst % es != 0 || decide (2 ^ 19 ≤ dst) || decide (i.grid.record.scratchBytes < dst + n)) (a + 2),
        badIf (cores == [] || cores.any (fun c => (s.hallTeam i c).isNone) || lap) (a + 2),
        badIf (ctl / 2 ^ 27 != 0 || decide (4 < lg) || n == 0 || n % es != 0) (a + 4)] with
      | some off => .trap (descTrap off)
      | none =>
        moveIssue s i f.tok { kind := .cpym, es := es, src := src, dst := dst, dims := [lineDim (n / es) es], mask := f.mask.toNat }

/-! ## Descriptors in scratchpad (R442, R443) -/

/-- The trap of a descriptor's place: a hall offset is DESC; SCRB ranks before a misalignment's DESC (R454). -/
def placeTrap (i : Iss) (a : RegNo) (size : Nat) : Option Trap :=
  let o := (i.rd 0 a).toNat
  if o / 2 ^ 22 % 2 = 1 then some (descTrap (0x100 + a.toNat))
  else if i.grid.record.scratchBytes < o + size then some { cause := causeSCRB, info := 0, addr := o, lane := 0 }
  else if o % size ≠ 0 then some (descTrap (0x100 + a.toNat))
  else none

/-- A descriptor read at check (R208). -/
def descBytes (i : Iss) (a : RegNo) (size : Nat) : List Byte :=
  (List.range size).map fun j => sget (0 : Byte) i.team.scratch ((i.rd 0 a).toNat + j)

/-- What is left of a descriptor instruction once its fields are known: offending offsets, and the plan. -/
def descIssue (s : State) (i : Iss) (tok : BitVec 3) (bad : List (Option Nat)) (p : MovePlan) : Verdict State :=
  let ns := hullSrc p.es p.dims
  let nd := hullDst p.es p.dims
  let ts := s.endTest i p.src ns
  let td := s.endTest i p.dst nd
  if ts = .prot then .trap (protTrap p.src)
  else if td = .prot then .trap (protTrap p.dst)
  else match leastBad (bad ++ [badIf (ts == .desc) 0x00, badIf (td == .desc) 0x08, badIf (overlap p.src ns p.dst nd) 0x08]) with
    | some off => .trap (descTrap off)
    | none => moveIssue s i tok p

/-- CPYT (R442). -/
def execCpyt (f : FmtE) (s : State) : Host.Outcome State Fault Refusal :=
  runMove s (.cpyt f) f.wm [srcU f.a] fun s i =>
    match placeTrap i f.a 64 with
    | some t => .trap t
    | none =>
      if i.team.absentAt (i.rd 0 f.a).toNat then .wait
      else
        let b := descBytes i f.a 64
        let src := fieldAt b 0 8
        let dst := fieldAt b 8 8
        let ctl := fieldAt b 0x30 4
        let lg := ctl % 8
        let r := ctl / 8 % 4 + 1
        let es := if lg ≤ 4 then 2 ^ lg else 1
        let ext (k : Nat) : Nat := fieldAt b (0x10 + 2 * k) 2
        let ss (k : Nat) : Nat := if k = 0 then es else fieldAt b (0x18 + 4 * (k - 1)) 4
        let ds (k : Nat) : Nat := if k = 0 then es else fieldAt b (0x24 + 4 * (k - 1)) 4
        let dims := (List.range r).map fun k =>
          ({ ext := max (ext k) 1, dstr := ds k, sstr := ss k, lim := max (ext k) 1, rev := false } : Dim)
        let stride (k off : Nat) (v : Nat) : Option Nat := badIf ((decide (r ≤ k) && v != 0) || v % es != 0) (off + 4 * (k - 1))
        let plan : MovePlan := { kind := .cpyt, es := es, src := src, dst := dst, dims := dims }
        descIssue s i f.tok
          ([badIf (src % es != 0) 0, badIf (dst % es != 0) 8, badIf (ctl / 32 != 0 || decide (4 < lg)) 0x30, nonzeroAt b 0x34 12] ++
            (List.range 4).map (fun k => badIf (if k < r then ext k == 0 else ext k != 0) (0x10 + 2 * k)) ++
            [1, 2, 3].map (fun k => stride k 0x18 (ss k)) ++ [1, 2, 3].map (fun k => stride k 0x24 (ds k)) ++
            [badIf (s.bothOnPeers i dst src dims) 8]) plan

/-- Output strides of LXF with merged dimensions (R445). -/
def mergedStrides (merge : Nat) (ext dstr : Nat → Nat) : Nat → Nat
  | 0 => dstr 0
  | j + 1 => if merge / 2 ^ j % 2 = 1 then mergedStrides merge ext dstr j * ext j else dstr (j + 1)

/-- LXF (R443 to R445). -/
def execLxf (f : FmtE) (s : State) : Host.Outcome State Fault Refusal :=
  runMove s (.lxf f) f.wm [srcU f.a] fun s i =>
    match placeTrap i f.a 128 with
    | some t => .trap t
    | none =>
      if i.team.absentAt (i.rd 0 f.a).toNat then .wait
      else
        let b := descBytes i f.a 128
        let src := fieldAt b 0 8
        let dst := fieldAt b 8 8
        let dmw := fieldAt b 0x10 8
        let perm (j : Nat) : Nat := dmw / 2 ^ (3 * j) % 8
        let merge := dmw / 2 ^ 24 % 128
        let rev := dmw / 2 ^ 31 % 256
        let r := dmw / 2 ^ 39 % 8 + 1
        let lg := dmw / 2 ^ 42 % 8
        let zfill := dmw / 2 ^ 45 % 2 == 1
        let es := if lg ≤ 4 then 2 ^ lg else 1
        let ext (k : Nat) : Nat := fieldAt b (0x18 + 2 * k) 2
        let ss (k : Nat) : Nat := fieldAt b (0x28 + 4 * k) 4
        let ds (j : Nat) : Nat := fieldAt b (0x48 + 4 * j) 4
        let oe (j : Nat) : Nat := fieldAt b (0x68 + 2 * j) 2
        let e (j : Nat) : Nat := if oe j ≠ 0 then oe j else max (ext (perm j)) 1
        let idx := List.range 8
        let dims := (List.range r).map fun j =>
          ({ ext := e j, dstr := mergedStrides merge e ds j, sstr := ss (perm j), lim := max (ext (perm j)) 1
             rev := rev / 2 ^ j % 2 == 1 } : Dim)
        let bad : List (Option Nat) :=
          [firstBad 0x10 (dmw / 2 ^ 46 * 2 ^ 46), badIf (decide (4 < lg)) 0x15, nonzeroAt b 0x78 8, badIf (src % es != 0) 0, badIf (dst % es != 0) 8] ++
          idx.map (fun j => badIf (if j < r then decide (r ≤ perm j) || (List.range j).any fun k => perm k == perm j else perm j != 0)
            (0x10 + 3 * j / 8)) ++
          (List.range 7).map (fun j => badIf (decide (r - 1 ≤ j) && merge / 2 ^ j % 2 == 1) (0x10 + (24 + j) / 8)) ++
          idx.map (fun j => badIf (decide (r ≤ j) && rev / 2 ^ j % 2 == 1) (0x10 + (31 + j) / 8)) ++
          idx.map (fun k => badIf (if k < r then ext k == 0 else ext k != 0) (0x18 + 2 * k)) ++
          idx.map (fun k => badIf ((decide (r ≤ k) && ss k != 0) || ss k % es != 0) (0x28 + 4 * k)) ++
          idx.map (fun j => badIf (((decide (r ≤ j) || (j != 0 && merge / 2 ^ (j - 1) % 2 == 1)) && ds j != 0) || ds j % es != 0) (0x48 + 4 * j)) ++
          idx.map (fun j => badIf (decide (r ≤ j) && oe j != 0) (0x68 + 2 * j)) ++
          (List.range r).map (fun j => badIf (!zfill && decide (ext (perm j) < e j)) (0x68 + 2 * j))
        descIssue s i f.tok bad { kind := .lxf, es := es, src := src, dst := dst, dims := dims }

/-! ## TKW, TKT (R446, R447) -/

/-- The word of the token forms. -/
def tokenWord (i : Iss) (wm : BitVec 8) : Word :=
  BitVec.ofNat 32 (i.warp.tokErr + 256 * i.warp.tokDone + if i.warp.tokensDone wm then 65536 else 0)

/-- TKW, token form. -/
def execTkw (f : FmtEw) (s : State) : Host.Outcome State Fault Refusal :=
  runMove s (.tkw f) f.wm [dstU f.a] fun s i =>
    .go (commit s i (i.next s.len fun _ k => k.setReg f.a.toNat (tokenWord i f.wm)) false)

/-- TKT, token form: it does not wait. -/
def execTkt (f : FmtEw) (s : State) : Host.Outcome State Fault Refusal :=
  runMove s (.tkt f) 0 [dstU f.a] fun s i =>
    .go (commit s i (i.next s.len fun _ k => k.setReg f.a.toNat (tokenWord i f.wm)) false)

/-- TKW.bar: the program arrives and waits. -/
def execTkwBar (f : FmtEb) (s : State) : Host.Outcome State Fault Refusal :=
  runMove s (.tkwBar f) f.wm [] fun s i => barArrives s i f.b true

/-- TKW.barw: it waits only. -/
def execTkwBarw (f : FmtEb) (s : State) : Host.Outcome State Fault Refusal :=
  runMove s (.tkwBarw f) f.wm [] fun s i => .go (barWaiting s i f.b)

/-- TKT.bar: it arrives only. -/
def execTktBar (f : FmtEb) (s : State) : Host.Outcome State Fault Refusal :=
  runMove s (.tktBar f) f.wm [] fun s i => barArrives s i f.b false

/-! ## SPCLR, SPSET (R438, R448) -/

/-- The lines whose presence is set: those that await no landing (R438). -/
def setLines (absent : List (Nat × List Nat)) (lo n : Nat) : List (Nat × List Nat) :=
  absent.filter fun a => !(decide (lo ≤ a.1) && decide (a.1 < lo + n) && a.2 == [])

/-- The lines whose presence is cleared. -/
def clearRange (absent : List (Nat × List Nat)) (lo n : Nat) : List (Nat × List Nat) :=
  absent ++ (((List.range n).map (lo + ·)).filter fun l => !(absent.any fun a => a.1 == l)).map fun l => (l, [])

/-- A presence command. -/
def presenceBody (s : State) (i : Iss) (a : RegNo) (f : List (Nat × List Nat) → Nat → Nat → List (Nat × List Nat)) : Verdict State :=
  let o := (i.rdN 0 a 0).toNat
  let n := (i.rdN 0 a 1).toNat
  if o % 128 ≠ 0 then .trap { cause := causeALN, info := 0, addr := o, lane := 0 }
  else if i.grid.record.scratchBytes < o + 128 * n then .trap { cause := causeSCRB, info := 0, addr := o, lane := 0 }
  else if n = 0 || decide (4096 < n) then .trap (descTrap (0x100 + a.toNat + 1))
  else .go (wakeAll ((commit s i (i.next s.len fun _ k => k) false).updTeam i.team.key fun t =>
    { t with absent := f t.absent (o / 128) n }))

/-- SPCLR. -/
def execSpclr (f : FmtEw) (s : State) : Host.Outcome State Fault Refusal :=
  runMove s (.spclr f) f.wm [srcN f.a 2] fun s i => presenceBody s i f.a clearRange

/-- SPSET. -/
def execSpset (f : FmtEw) (s : State) : Host.Outcome State Fault Refusal :=
  runMove s (.spset f) f.wm [srcN f.a 2] fun s i => presenceBody s i f.a setLines

end Sys2Proof.Machine
end

