-- ==== Sys2Proof/Machine/System.lean ====
section
/-! DEFINITION. Special registers: SRD and SWR (R105, R291, R292, R449, R450). -/
namespace Sys2Proof.Machine

/-- Coordinates of a linear team index (R174). -/
def LRec.teamX (r : LRec) (t : Nat) : Nat := t % r.gridX
def LRec.teamY (r : LRec) (t : Nat) : Nat := t / r.gridX % r.gridY
def LRec.teamZ (r : LRec) (t : Nat) : Nat := t / (r.gridX * r.gridY)

/-- Whether a grant is held: from its granting boundary until DESCEND (R92). -/
def Cluster.holdsGrant (c : Cluster) : Bool :=
  match c.grant with
  | .rise => true
  | .boost => true
  | .fall => true
  | _ => false

/-- BOOSTPERM (R105). -/
def Cluster.boostperm (c : Cluster) : Nat := c.permits + (if c.holdsGrant then 128 else 0) + if c.fallen then 256 else 0

/-- CLKRATIO (R105). -/
def Cluster.clkratio (c : Cluster) : Nat := c.ratio + if c.switchEnd.isSome then 4 else 0

/-- CSLOPE (R104). -/
def Cluster.cslope (c : Cluster) : Nat := c.waveWarps.toNat + c.stepCycles.toNat * 256

/-- The value of a special register in a lane; none for a number not listed (R449, R450). -/
def readSpecial (s : State) (i : Iss) (l : Nat) (sel : Nat) : Option Nat :=
  let k := i.warp.lane l
  let r := i.grid.record
  let cl := s.cluster (i.core / 4)
  match sel with
  | 0x000 => some l
  | 0x001 => some (l / 4)
  | 0x002 => some i.warp.id
  | 0x003 => some (r.teamX i.team.index)
  | 0x004 => some (r.teamY i.team.index)
  | 0x005 => some (r.teamZ i.team.index)
  | 0x006 => some (i.team.index / r.hallTeams)
  | 0x007 => some i.warp.role.code
  | 0x008 => some (i.core % 4)
  | 0x009 => some (i.core / 4)
  | 0x00A => some (partOfCore s i.core)
  | 0x020 => some k.rm.toNat
  | 0x021 => some k.fstat.toNat
  | 0x022 => some k.hcur.toNat
  | 0x023 => some i.warp.winBase.toNat
  | 0x024 => some k.prio.toNat
  | 0x030 => some k.trap.cause.toNat
  | 0x031 => some k.trap.pc.toNat
  | 0x032 => some k.trap.addr.toNat
  | 0x033 => some k.trap.addrh.toNat
  | 0x034 => some k.trap.info.toNat
  | 0x040 => some cl.boostperm
  | 0x041 => some cl.clkratio
  | 0x042 => some cl.mhz
  | 0x043 => some cl.droopCnt.toNat
  | 0x044 => some cl.cslope
  | 0x045 => some (fairnOf s i.core)
  | 0x050 => if i.movement then some (i.warp.tokErr + 256 * i.warp.tokDone) else none
  | 0x051 => some (s.ctx i.team.ctx).clamp.toNat
  | _ => none

/-- SRD. -/
def execSrd (f : FmtSrd) (s : State) : Host.Outcome State Fault Refusal :=
  runWith s (.srd f) false [dstU f.d] fun s i =>
    .go (commit s i (i.next s.len fun l k =>
      k.setReg (i.row f.d.toNat) (BitVec.ofNat 32 ((readSpecial s i l f.sel.toNat).getD 0))) false)

/-- A lane's special register written: FMODE, FSTAT, TRAPPC; reserved bits are ignored (R8, R291, R292, R449). -/
def Lane.writeSpecial (k : Lane) (sel : Nat) (helper : Bool) (v : Word) : Lane :=
  if sel = 0x020 then { k with rm := v.extractLsb' 0 2 }
  else if sel = 0x021 then { k with fstat := v.extractLsb' 0 5 }
  else if helper then k
  else { k with trap := { k.trap with pc := v } }

/-- SWR. -/
def execSwr (f : FmtSwr) (s : State) : Host.Outcome State Fault Refusal :=
  runWith s (.swr f) false [srcU f.a] fun s i =>
    .go (commit s i (i.next s.len fun l k => k.writeSpecial f.sel.toNat (i.helpers.contains l) (i.rd l f.a)) false)

end Sys2Proof.Machine
end

