-- ==== Sys2Proof/Machine/Engines.lean ====
section
/-! DEFINITION. What leaves a core and what the copy and layout engines do: UNDO_LOG_RETIRE, HOLD_RELEASE,
PUBLISH_TIMEOUT, LOAD_FILL, ATOMIC_RETURN, LAYOUT_COMMAND_START, LINE_LAND, DESTINATION_LINE_WRITE,
COPY_COMPLETE (R112, R213, R234 to R236, R256 to R261, R269 to R271, R311, R438, R439). -/
namespace Sys2Proof.Machine

/-! ## Traps that a lane takes outside its own instruction (R251, R277, R30) -/

/-- TRAPINFO of HORPH, where a lane is to take it: it is live, in no handler, and its hypothesis is refuted (R277, R455). -/
def State.orphan (s : State) (ctx : Nat) (l : Lane) : Option Word :=
  if l.life == .live && l.handler.isNone && l.hcur != 0 && (s.ctx ctx).stateOf l.hcur.toNat == .refuted then
    some (BitVec.ofNat 32 (l.hcur.toNat + 256 * NodeState.refuted.code))
  else none

/-- The issue of one lane alone, wherever its team stands; `core` where it is not placed. -/
def State.laneIss (s : State) (team warp lane core : Nat) : Option Iss :=
  (s.watcher team warp lane).map fun i => { i with core := (i.team.core?).getD core }

/-- The word at a lane's instruction, for the record of a trap (R457). -/
def State.wordAt (s : State) (i : Iss) (pc : Word) : Word :=
  match s.fetchAt i pc with
  | some (w, _) => BitVec.ofNat 32 w
  | none => Config.freeWord s.nonce

/-- A lane takes a trap at the instruction it stands at; while the undo log has no room the trap waits (R213). -/
def State.trapLane (s : State) (team warp lane : Nat) (cause : Nat) (info : Word) (addr : Nat) : State :=
  match s.laneIss team warp lane 0 with
  | none => s
  | some i =>
    if undoFull s i then s.updTeam team fun t => t.updWarp warp fun w => w.updLane lane fun k => { k with wait := .due cause info addr }
    else
    let w0 := s.wordAt i i.pc
    let w1 := match decode w0.toNat with
      | .ok (.imx _) => s.wordAt i (i.pc + 1)
      | _ => 0
    takeTrap s.takeNonce { i with warp := i.warp.leaveMeet lane } { cause := cause, info := info, addr := addr, lane := lane } w0 w1 [lane]

/-- The orphaned lanes of a resumed team take HORPH at once, before they commit anything (R199). -/
def State.orphans (s : State) (team : Nat) : State :=
  match s.team? team with
  | none => s
  | some t =>
    (t.warps.flatMap fun w => w.lanes.zipIdx.filterMap fun l => (s.orphan t.ctx l.1).map fun i => (w.id, l.2, i)).foldl
      (fun s x => s.trapLane team x.1 x.2.1 causeHORPH x.2.2 0) s

/-- The lane of a warp that stands at an instruction boundary as an orphan: it takes HORPH before it issues again (R277). -/
def State.orphanNow (s : State) (team warp : Nat) : Option (Nat × Word) :=
  match s.team? team with
  | none => none
  | some t => match t.warpAt warp with
    | none => none
    | some w => if t.core?.isNone then none
      else w.lanes.zipIdx.findSome? fun l => if l.1.wait == .none && !l.1.mid then (s.orphan t.ctx l.1).map fun i => (l.2, i) else none

/-- Orphans that have not taken HORPH within 2 µs of the refute's completion take it (R277). -/
def State.orphansDue (s : State) : State :=
  (s.ctxs.filter fun c => c.refutes.any fun t => decide (t + 2000 ≤ s.tick)).foldl (fun s c =>
    (s.teams.filter fun t => t.ctx == c.num && t.core?.isSome).foldl (fun s t => s.orphans t.key)
      (s.updCtx c.num fun c => { c with refutes := c.refutes.filter fun t => decide (s.tick < t + 2000) })) s

/-- The traps that wait on a core (R213): team, warp, lane, and the trap. -/
def State.dueOn (s : State) (core : Nat) : List (Nat × Nat × Nat × Nat × Word × Nat) :=
  (s.teams.filter fun t => t.cores.contains core).flatMap fun t => t.warps.flatMap fun w => w.lanes.zipIdx.filterMap fun l =>
    match l.1.wait with
    | .due c i a => some (t.key, w.id, l.2, c, i, a)
    | _ => none

/-- The traps that wait on a core are taken (R213). -/
def State.takeDue (s : State) (core : Nat) : State :=
  (s.dueOn core).foldl (fun s d => s.trapLane d.1 d.2.1 d.2.2.1 d.2.2.2.1 d.2.2.2.2.1 d.2.2.2.2.2) s

/-! ## Undo log, publication, fills -/

/-- The undo-log entries of a core whose commit is 200 ticks old retire (R213); ids that only they held become free (R277),
and traps that waited for room are taken. -/
def State.retireUndo (s : State) (core : Nat) : State :=
  if (s.core core).undo.any fun u => decide (u.tick + 200 ≤ s.tick) then
    ((s.ctxs.map Ctx.num).foldl State.freeIds
      (s.updCore core fun k => { k with undo := k.undo.filter fun u => decide (s.tick < u.tick + 200) })).takeDue core
  else s

/-- UNDO_LOG_RETIRE (R213). -/
def execUndoLogRetire (core : Nat) (s : State) : Host.Outcome State Fault Refusal := .next (s.retireUndo core)

/-- Core-dirty lines whose first bytes left the hold 4,096 ticks ago are published (R256). -/
def State.publishDue (s : State) (core : Nat) : State :=
  match ((s.core core).dirty.filter fun d => decide (d.tick + 4096 ≤ s.tick)).map fun d => lineOf d.loc with
  | [] => s
  | ls => s.forceCore core ls

/-- PUBLISH_TIMEOUT (R256). -/
def execPublishTimeout (core : Nat) (s : State) : Host.Outcome State Fault Refusal := .next (s.publishDue core)

/-- LOAD_FILL (R311, R382): the checker's read returns, with what peers have answered (R32). -/
def execLoadFill (key : Nat) (s : State) : Host.Outcome State Fault Refusal :=
  match s.pend.find? fun p => p.key == key && !p.atomic with
  | some p => if p.lanes.all fun l => l.val.isSome then .next (s.fillPend p) else .next s
  | none => .next s

/-- ATOMIC_RETURN (R267, R394): the old values arrive. -/
def execAtomicReturn (key : Nat) (s : State) : Host.Outcome State Fault Refusal :=
  match s.pend.find? fun p => p.key == key && p.atomic with
  | some p => if p.lanes.all fun l => l.val.isSome then .next (s.fillPend p) else .next s
  | none => .next s

/-! ## Scratchpad lines of a team, with the undo log's copies (R113, R221) -/

/-- A change of a team's absent lines, also in the undo log. -/
def State.patchAbsent (s : State) (team : Nat) (f : List (Nat × List Nat) → List (Nat × List Nat)) : State :=
  let s1 := s.updTeam team fun t => { t with absent := f t.absent }
  { s1 with cores := s1.cores.map fun k =>
      { k with undo := k.undo.map fun u => if u.team = team then { u with absent := f u.absent } else u } }

/-- Bytes land in a team's scratchpad: a later rollback does not take them back (R113). -/
def State.landBytes (s : State) (team : Nat) (cells : List (Nat × Byte)) : State :=
  let s1 := s.updTeam team fun t => t.writeScratch cells
  { s1 with cores := s1.cores.map fun k =>
      { k with undo := k.undo.map fun u =>
          if u.team = team then { u with scratch := u.scratch.filter fun c => !(cells.any fun d => d.1 == c.1) } else u } }

/-- Bytes of a copy within one scratchpad land: an effect in the core, which a rollback of its commit takes back (R113, R214). -/
def State.landInside (s : State) (team : Nat) (cells : List (Nat × Byte)) : State := s.updTeam team fun t => t.writeScratch cells

/-- An operation's landing of a line: its due landing is done, and the line is present once none is due. -/
def landLine (line key : Nat) (absent : List (Nat × List Nat)) : List (Nat × List Nat) :=
  (absent.map fun a => if a.1 = line then (a.1, a.2.filter (· != key)) else a).filter fun a => !(a.1 == line && a.2 == [])

/-- An operation's landings no longer due; its lines stay absent (R439). -/
def dropKey (key : Nat) (absent : List (Nat × List Nat)) : List (Nat × List Nat) :=
  absent.map fun a => (a.1, a.2.filter (· != key))

/-! ## Copy and layout operations -/

def CopyOp.srcKind (op : CopyOp) : Kind := if op.kind = .lxf then .layoutSrc else .copySrc
def CopyOp.dstKind (op : CopyOp) : Kind := if op.kind = .lxf then .layoutDst else .copyDst

/-- The movement program an operation belongs to. -/
def State.opIss (s : State) (op : CopyOp) : Option Iss :=
  (s.watcher op.team 32 0).map fun i => { i with core := op.core }

/-- The tag of an operation's writes; none when they are discarded (R271, R276). -/
def State.opTag (s : State) (i : Iss) (op : CopyOp) : Option Nat := if op.drop then none else (s.ctx i.team.ctx).writeTag op.hcur

/-- Where an operation finds an address. -/
def State.opAt (s : State) (i : Iss) (op : CopyOp) (k : Kind) (a : Nat) : Answer :=
  match spaceOf a with
  | .own off => .own off
  | .hall c off =>
    match s.hallTeam i c with
    | some t => if t.key = i.team.key then .own off else .hall t.key off
    | none => .trap causeSCRB
  | .alias_ x => s.aliasAt i.team.ctx x 1
  | .global => if 2 ^ 57 ≤ a then .trap causePROT else s.translate i.team.ctx op.clamped k a
  | _ => .trap causePROT

/-- A job changed. -/
def State.updJob (s : State) (key line : Nat) (f : Job → Job) : State :=
  { s with copies := s.copies.map fun (c : CopyOp) =>
      if c.key = key then { c with jobs := c.jobs.map fun j => if j.line = line then f j else j } else c }

/-- An operation completes, in error or not (R437, R439): ownership and landings due end, its token counts down. -/
def State.endCopy (s : State) (op : CopyOp) (err : Bool) : State :=
  let lines := s.teams.foldl (fun s t => if t.absent.any (fun a => a.2.contains op.key) then s.patchAbsent t.key (dropKey op.key) else s)
    { s with
      copies := s.copies.filter fun c => c.key != op.key
      owned := s.owned.filter fun o => o.key != op.key
      clusters := s.clusters.map fun (c : Cluster) => { c with layq := c.layq.filter fun k => k != op.key } }
  let done (t : Token) : Token :=
    if t.ops.contains op.key then { ops := t.ops.filter fun k => k != op.key, err := t.err || err } else t
  wakeAll (lines.patchWarps op.team fun ws => ws.map fun w => { w with tokens := w.tokens.map done }).sweep

/-- A destination line taken as the operation leaves its core: presence cleared, or ownership taken once the page
translates; false where the operation fails, among others where source and destination turn out to be both on peers
(R32, R234, R248, R269, R279). -/
def State.takeLine (s : State) (i : Iss) (op : CopyOp) (j : Job) : State × Bool :=
  match s.opAt i op op.dstKind (128 * j.line) with
  | .own off => (s.patchAbsent i.team.key fun ab => clearLines ab op.key [off / 128], true)
  | .hall t off => (s.patchAbsent t fun ab => clearLines ab op.key [off / 128], true)
  | .phys u =>
    if isPeer u.loc && (op.lines != [] || s.asked (· == 1) op.key) then (s, false)
    else
    let s1 := (s.forceOthers none [u.loc]).useAll [u]
    let own : Owned := { key := op.key, ctx := i.team.ctx, tag := (s.opTag i op).getD 0, line := lineOf u.loc }
    ({ s1 with owned := s1.owned ++ [own] }.updJob op.key j.line fun j => { j with phys := some (lineOf u.loc), fault := none }, true)
  | .park st =>
    let r := s.faultEntry i.team.ctx (sv57 (128 * j.line) / 4096) st op.dstKind.code (Nat.max (128 * j.line) op.dst)
    (r.1.updJob op.key j.line fun j => { j with fault := some r.2 }, true)
  | .trap _ => (s, false)
  | .noPeer _ => (s, false)

/-- All destination lines of an operation, in order; it fails with error where one does. -/
def State.takeLines (s : State) (i : Iss) (op : CopyOp) : State :=
  let r := op.jobs.foldl (fun (p : State × Bool) j => if p.2 then p.1.takeLine i op j else p) (s, true)
  if r.2 then r.1 else r.1.endCopy op true

/-- A copy or layout operation leaves its core (R234, R235, R269, R270). -/
def State.copyLeaves (s : State) (core key : Nat) : State :=
  match s.copies.find? fun c => c.key == key with
  | none => s
  | some op =>
    let s1 := (s.publishAll core)
    let s2 := { s1 with copies := s1.copies.map fun (c : CopyOp) => if c.key = key then { c with left_ := true } else c }
    let s3 := if op.kind = .lxf then s2.updCluster (core / 4) fun c => { c with layq := c.layq ++ [key] } else s2
    match s3.opIss op with
    | some i => s3.takeLines i { op with left_ := true }
    | none => s3.endCopy op true

/-! ## HOLD_RELEASE (R112, R126, R214, R256 to R261) -/

/-- Whether an effect is a release at system scope; a copy or layout operation is a release at the scope of its ends,
which may lie on peers (R257, R270). -/
def Eff.systemRelease : Eff → Bool
  | .store _ _ _ rel => rel == some .system
  | .hall _ _ rel => rel == some .system
  | .atom _ _ rel _ => rel == some .system
  | .fence _ rel scp => rel && scp == .system
  | .copy _ => true
  | _ => false

/-- Whether an effect at the head of the hold must wait: an engine-owned line (R269), an absent line of another core's
scratchpad (R221) or a release there that is not published (R384; log 70 where cores wait for one another), and for a release at system scope the answers of peers
(R257). -/
def State.mustStay (s : State) (core : Nat) (e : Eff) : Bool :=
  let ownedAt (ctx tag loc : Nat) : Bool := s.owned.any fun o => o.line == lineOf loc && sameTag o.ctx o.tag ctx tag
  let absent (team off : Nat) : Bool := match s.team? team with
    | some t => t.absentAt off
    | none => false
  (match e with
    | .store c t cells _ => cells.any fun x => ownedAt c t x.1
    | .hall team cells _ => cells.any fun x => absent team x.1
    | .atom c none _ r => r.parts.any fun p => ownedAt c p.tag p.loc
    | .atom _ (some team) _ r => r.parts.any (fun p => absent team p.loc) ||
        (match (s.team? team).bind Team.core? with
          | some c => s.relOpen c && !s.relCycle core s.cores.length core
          | none => false)
    | _ => false) ||
  (e.systemRelease && s.peerBusy core)

/-- The cores whose L1 a core's cache control acts on: under fusion each line has one copy in the cluster (R182, R225, R390). -/
def State.l1Of (s : State) (core : Nat) : List Nat :=
  if (s.cluster (core / 4)).fused.isSome then (List.range 4).map (4 * (core / 4) + ·) else [core]

/-- What an effect does as it leaves; `before` says that a release to the own scratchpad waits for it (R384). -/
def State.leaves (s : State) (core : Nat) (h : Held) (before : Bool) : State :=
  match h.eff with
  | .store ctx tag cells rel =>
    let s1 := s.releaseAt core rel false
    match (s1.ctx ctx).writeTag tag with
    | none => s1
    | some t => s1.enterL1 core ctx t h.team h.warp before cells
  | .hall team cells rel => (s.releaseAt core rel true).landBytes team cells
  | .atom ctx none rel r => (s.releaseAt core rel true).performAtom core h.team h.warp ctx r
  | .atom _ (some team) rel r => (s.releaseAt core rel true).performHallAtom team r
  | .copy key => s.copyLeaves core key
  | .resolve r => { s with resolving := s.resolving ++ [r] }
  | .fence _ rel scp => if rel then s.releaseAt core (some scp) true else s
  | .cctl none => (s.l1Of core).foldl State.publishAll s
  | .cctl (some ls) => (s.l1Of core).foldl (fun s c => if (s.core c).dirty.any fun d => ls.contains (lineOf d.loc) then s.forceCore c ls else s) s
  | .node ctx id => (s.arrive ctx id).freeIds ctx

/-- Core-dirty lines of peers, which a release at system scope publishes before it asks whether peers have answered (R257). -/
def State.peerDirty (s : State) (core : Nat) : List DirtyLine :=
  ((s.core core).dirty.filter fun d => d.tag == 0 && isPeer d.loc).map fun d => d.lineOn core

/-- Once the effects before a system-scope release to the own scratchpad have left, what it covers is published, and peers are
to acknowledge it (R257, R384). -/
def State.ownReleased (s : State) (core : Nat) : State :=
  if (s.core core).stsSys && (s.core core).stsRel == 0 then
    (if (s.core core).dirty.any Dirty.before then s.forceCore core []
     else if s.peerBusy core then s else s.updCore core fun k => { k with stsSys := false })
  else s

/-- The oldest effect leaves once its commit is 200 ticks old (R112); none where nothing happens. -/
def State.releaseHeld (s : State) (core : Nat) : Option State :=
  match (s.core core).hold with
  | [] => none
  | h :: rest =>
    if s.tick < h.tick + 200 then none
    else if h.eff.systemRelease && s.peerDirty core != [] then some (s.publish core (s.peerDirty core))
    else if s.mustStay core h.eff then none
    else
      let before := (s.core core).stsRel != 0
      some (wakeAll (((s.updCore core fun k => { k with hold := rest, stsRel := k.stsRel - 1 }).leaves core h before).ownReleased core)).sweep

/-- HOLD_RELEASE. -/
def execHoldRelease (core : Nat) (s : State) : Host.Outcome State Fault Refusal := .next ((s.releaseHeld core).getD s)

/-- Every effect that may leave a core at this tick leaves it, in order (R112, R214). -/
def State.drainHold (s : State) (core : Nat) : Nat → State
  | 0 => s
  | n + 1 => match s.releaseHeld core with
    | some t => t.drainHold core n
    | none => s

/-- A list with one more element, before those whose number is greater. -/
def putBy (n : α → Nat) (x : α) (l : List α) : List α := (l.filter fun y => decide (n y ≤ n x)) ++ [x] ++ l.filter fun y => decide (n x < n y)

/-- The cores in ascending order. -/
def State.coresUp (s : State) : List Nat := (s.cores.map Core.num).foldl (fun l c => putBy id c l) []

/-- Every core's effects that are due, cores ascending (R112, R235), and undo-log entries that retire (R213). -/
def State.coresDue (s : State) : State :=
  s.coresUp.foldl (fun s c => ((s.drainHold c (2 * (s.core c).hold.length)).ownReleased c).retireUndo c) s

/-! ## The bytes of a destination line -/

/-- The bytes an operation writes into a line, as program addresses, with the source address of each; none
for zero fill (R440 to R445). -/
def CopyOp.bytesOf (op : CopyOp) (line : Nat) : List (Nat × Option Nat) :=
  ((List.range (countOf op.dims)).flatMap fun n =>
    let e := elemAt op.dims n
    (dstAddrs op.kind op.mask op.dst e.1).flatMap fun a =>
      (List.range op.es).map fun k => (a + k, e.2.map fun o => op.src + o + k)).filter fun p => p.1 / 128 == line

/-- A source byte, or why it is not read yet. -/
inductive SrcByte where
  | byte (b : Byte)
  | wait
  /-- on a peer, at this location; not brought yet -/
  | away (loc : Nat)
  | park (stage : Nat)
  | poison
  | fail
  deriving DecidableEq, Repr

/-- Whether an operation has a destination line on a peer. -/
def CopyOp.dstAway (op : CopyOp) : Bool := op.jobs.any fun j => (j.phys.map fun l => isPeer (128 * l)).getD false

/-- A source byte as the engine reads it now; one it has read stays what it was (R208, R269, R270, R438, R439). -/
def State.srcByte (s : State) (i : Iss) (op : CopyOp) : Option Nat → SrcByte
  | none => .byte 0
  | some a =>
    match op.got.find? fun g => g.1 == a with
    | some g => .byte g.2
    | none =>
    match s.opAt i op op.srcKind a with
    | .own off => if i.team.absentAt off then .wait
      else if i.team.poison.contains (off / 128) then .poison else .byte (sget (0 : Byte) i.team.scratch off)
    | .hall t off =>
      match s.team? t with
      | some u => if u.absentAt off || ((u.core?.map s.relOpen).getD false) then .wait
        else if u.poison.contains (off / 128) then .poison else .byte (sget (0 : Byte) u.scratch off)
      | none => .fail
    | .phys u =>
      let path := (s.ctx i.team.ctx).path op.hcur
      if isPeer u.loc && (op.kind == .lxf || op.dstAway) then .fail
      else if s.owned.any (fun o => o.key != op.key && o.line == lineOf u.loc && path.any fun t => sameTag o.ctx o.tag i.team.ctx t) then .wait
      else if s.poison.contains (lineOf u.loc) then .poison
      else if isPeer u.loc && (s.decidedByte { num := 0 } i.team.ctx u.loc path).isNone then
        (match lineByte op.lines u.loc with
          | some b => .byte b
          | none => .away u.loc)
      else .byte (s.dirByte i.team.ctx u.loc path)
    | .park st => .park st
    | .trap _ => .fail
    | .noPeer _ => .fail

/-- The locations of source bytes in memory. -/
def State.srcUses (s : State) (i : Iss) (op : CopyOp) (bs : List (Nat × Option Nat)) : List Use1 :=
  bs.filterMap fun p => match p.2 with
    | some a => (match s.opAt i op op.srcKind a with
      | .phys u => some u
      | _ => none)
    | none => none

/-- What reading sources in scratchpads of the hall publishes: lines of their cores that a release there covers (R384). -/
def State.forceHalls (s : State) (i : Iss) (op : CopyOp) (bs : List (Nat × Option Nat)) : State :=
  ((bs.filterMap fun p => p.2.bind fun a => (match s.opAt i op op.srcKind a with
    | .hall t _ => (s.team? t).bind Team.core?
    | _ => none)).eraseDups).foldl (fun s c => s.forceCore c []) s

/-- The 512 B chunk of the output that first reaches a line (R236, R445). -/
def CopyOp.chunkOf (op : CopyOp) (line : Nat) : Nat :=
  ((List.range (countOf op.dims)).find? fun n => (dstAddrs op.kind op.mask op.dst (elemAt op.dims n).1).any fun a => a / 128 == line).getD 0 * op.es / 512

/-- Whether an LXF stands within a chunk of its output: a save stops it only at the next (R198). -/
def CopyOp.midChunk (op : CopyOp) : Bool :=
  op.kind == .lxf && !(op.jobs.any fun j => j.fault.isSome) &&
    op.jobs.any fun j => j.done && op.jobs.any fun k => !k.done && op.chunkOf j.line == op.chunkOf k.line

/-- Whether an operation may write a line now: its team is not being saved, or its chunk is not whole (R198); it has left its core, waits for no fault, is the oldest of its
context's copies, or the layout engine's current command, which writes in ascending output offset (R234 to R236, R248). -/
def State.mayWrite (s : State) (op : CopyOp) (line : Nat) : Bool :=
  op.left_ && (op.midChunk || !((s.team? op.team).map fun t => t.leaving.saving).getD false) && ((s.team? op.team).map fun t => t.core?.isSome || t.place == .gone).getD false && !(op.jobs.any fun j => j.fault.isSome) &&
  (if op.kind = .lxf then op.started && ((op.jobs.find? fun j => !j.done).map Job.line) == some line
   else !(s.copies.any fun c => c.team == op.team && c.kind != .lxf && decide (c.key < op.key)))

/-- What reading a line's sources comes to. -/
inductive LineRead where
  | ready (s : State) (cells : List (Nat × Byte))
  /-- nothing can be written yet -/
  | wait (s : State)
  | fail (s : State) (poison : Bool)

/-- An operation changed. -/
def State.updCopy (s : State) (key : Nat) (f : CopyOp → CopyOp) : State :=
  { s with copies := s.copies.map fun (c : CopyOp) => if c.key = key then f c else c }

/-- Source bytes that have been read are not read again (R270). -/
def CopyOp.keep (op : CopyOp) (bs : List (Nat × Byte)) : CopyOp :=
  { op with got := bs.foldl (fun g b => if g.any fun x => x.1 == b.1 then g else g ++ [b]) op.got }

/-- The sources of a line read at once (R270); a fault parks the operation (R248), and lines of peers are asked for (R32). -/
def State.readLine (s : State) (i : Iss) (op : CopyOp) (line : Nat) : LineRead :=
  let bs := op.bytesOf line
  let s1 := (s.forceHalls i op bs).forceOthers none ((s.srcUses i op bs).map Use1.loc)
  let rs := bs.map fun p => (p, s1.srcByte i op p.2)
  if rs.any fun r => r.2 == .fail then .fail s1 false
  else if rs.any fun r => r.2 == .poison then .fail s1 true
  else match rs.findSome? fun r => (match r.2 with
      | .park st => some (r.1.2, st)
      | _ => none) with
    | some (a, st) =>
      let va := a.getD 0
      let e := s1.faultEntry i.team.ctx (sv57 va / 4096) st op.srcKind.code va
      .wait (e.1.updJob op.key line fun j => { j with fault := some e.2 })
    | none =>
      let away := rs.filterMap fun r => match r.2 with
        | .away loc => some loc
        | _ => none
      let new := away.filter fun loc => !(s1.asks.any fun a => a.who.key? == some op.key && a.line == lineOf loc)
      if away ≠ [] then .wait (s1.askLines (.copy op.core op.key) new)
      else if rs.any fun r => r.2 == .wait then .wait s1
      else
        let val (b : SrcByte) : Byte := match b with
          | .byte b => b
          | _ => 0
        .ready (((s1.useAll (s1.srcUses i op bs)).updCopy op.key fun c => c.keep (rs.filterMap fun r => r.1.2.map fun a => (a, val r.2))).takeNonce)
          (rs.map fun r => (r.1.1, val r.2))

/-- LINE_LAND (R221, R438, R439): a scratchpad line of an operation is written and becomes present; a poisoned source line
poisons it. -/
def execLineLand (key line : Nat) (s : State) : Host.Outcome State Fault Refusal :=
  match s.copies.find? fun c => c.key == key with
  | none => .next s
  | some op =>
    match s.opIss op, op.jobs.find? fun j => j.line == line && !j.done with
    | some i, some _ =>
      let place := match s.opAt i op op.dstKind (128 * line) with
        | .own off => some (i.team.key, off / 128)
        | .hall t off => some (t, off / 128)
        | _ => none
      match place with
      | none => .next s
      | some (team, off) =>
        let first := match (s.team? team).bind fun t => t.absent.find? fun a => a.1 == off with
          | some a => a.2.head? == some key
          | none => false
        if !(s.mayWrite op line && first) then .next s
        else match s.readLine i op line with
          | .wait t => .next t
          | .fail t poison => .next ((if poison then t.updTeam team fun u => { u with poison := (u.poison.filter (· != off)) ++ [off] } else t).endCopy op true)
          | .ready t cells =>
            let here : List (Nat × Byte) := cells.map fun c => (128 * off + c.1 % 128, c.2)
            .next (wakeAll (((if op.internal then t.landInside team here else t.landBytes team here).patchAbsent team (landLine off key)).updJob key line fun j => { j with done := true }))
    | _, _ => .next s

/-- DESTINATION_LINE_WRITE (R269, R271, R438): an owned line is written and released. -/
def execDestinationLineWrite (key line : Nat) (s : State) : Host.Outcome State Fault Refusal :=
  match s.copies.find? fun c => c.key == key with
  | none => .next s
  | some op =>
    match s.opIss op, op.jobs.find? fun j => j.line == line && !j.done with
    | some i, some j =>
      match j.phys with
      | none => .next s
      | some pl =>
        let tag := s.opTag i op
        let first := ((s.owned.filter fun o => o.line == pl && sameTag o.ctx o.tag i.team.ctx (tag.getD 0)).head?.map Owned.key).getD key == key
        if !(s.mayWrite op line && first) then .next s
        else match s.readLine i op line with
          | .wait t => .next t
          | .fail t poison => .next ((if poison then t.poisonLine (some pl) else t).endCopy op true)
          | .ready t cells =>
            let here : List (Nat × Byte) := cells.map fun c => (128 * pl + c.1 % 128, c.2)
            let t1 := match tag with
              | some 0 => t.commitBytes (if op.kind = CopyKind.lxf then 7 else 6) (.copy op.core key) here
              | some g => t.writeAll i.team.ctx g here
              | none => t
            let t2 := if tag = some 0 then t1.unpoison (here.map Prod.fst) else t1
            .next (wakeAll ({ t2 with owned := t2.owned.filter fun o => !(o.key == key && o.line == pl) }.updJob key line
              fun j => { j with done := true }))
    | _, _ => .next s

/-- COPY_COMPLETE (R437, R438): every destination byte has been written, those on peers acknowledged. -/
def execCopyComplete (key : Nat) (s : State) : Host.Outcome State Fault Refusal :=
  match s.copies.find? fun c => c.key == key with
  | some op => if op.left_ && op.jobs.all (fun j => j.done) && !s.asked (fun c => c == 6 || c == 7) key then .next (s.endCopy op false) else .next s
  | none => .next s

/-- The LXFs of resumed teams of a cluster that found its queue full (R198, R235). -/
def State.layLate (s : State) (cluster : Nat) : List Nat :=
  (s.copies.filter fun c => c.kind == .lxf && c.left_ && c.core / 4 == cluster && !((s.cluster cluster).layq.contains c.key) &&
    ((s.team? c.team).map fun t => t.core?.isSome && !t.leaving.saving).getD false).map CopyOp.key

/-- They enter the queue while it has room. -/
def State.layFill (s : State) (cluster : Nat) : State :=
  s.updCluster cluster fun c => { c with layq := c.layq ++ (s.layLate cluster).take (16 - c.layq.length) }

/-- LAYOUT_COMMAND_START (R235): the engine takes the next command when it performs none. -/
def execLayoutCommandStart (cluster : Nat) (s : State) : Host.Outcome State Fault Refusal :=
  let s := s.layFill cluster
  match (s.cluster cluster).layq with
  | key :: _ => .next { s with copies := s.copies.map fun (c : CopyOp) => if c.key = key then { c with started := true } else c }
  | [] => .next s

end Sys2Proof.Machine
end

