-- ==== Sys2Proof/Machine/Resolves.lean ====
section
/-! DEFINITION. RESOLVE_POINT, RESOLVE_COMPLETE and ORPHAN_TRAP (R273 to R278, R400, R401). -/
namespace Sys2Proof.Machine

/-- Whether a resolve of the id acts (R278, R400): the id is an open one that the directory knows. -/
def Ctx.resolvable (c : Ctx) (id : Nat) : Bool :=
  id != 0 && (match c.node? id with
    | some n => n.st == .open_ && n.fate.isNone && n.atDir
    | none => false)

/-- A held effect's tags rewritten. -/
def Eff.retag (ctx : Nat) (f : Nat → Nat) : Eff → Eff
  | .store c t cells rel => .store c (if c = ctx then f t else t) cells rel
  | .atom c h rel r => .atom c h rel (if c = ctx then { r with parts := r.parts.map fun p => { p with tag := f p.tag } } else r)
  | e => e

/-- Lines that hold a version of an id, at L2 or core-dirty. -/
def State.linesOf (s : State) (ctx id : Nat) : List Nat :=
  (((s.vers.filter fun v => v.ctx == ctx && v.id == id).flatMap fun v => v.cells.map fun c => lineOf c.1) ++
    s.cores.flatMap fun k => (k.dirty.filter fun d => d.ctx == ctx && d.tag == id).map fun d => lineOf d.loc).eraseDups

/-- HCONF at the directory: the version of `id` goes into that of `up` (R275). -/
def State.mergeId (s : State) (ctx id up : Nat) : State :=
  let s1 := s.forceOthers none ((s.linesOf ctx id).map (128 * ·))
  let cells := (s1.vers.filter fun v => v.ctx == ctx && v.id == id).flatMap Version.cells
  let s2 : State := { s1 with
    vers := s1.vers.filter fun v => !(v.ctx == ctx && v.id == id)
    lines := s1.lines.filter fun l => !(l.ctx == ctx && l.tag == id) }
  let f (t : Nat) : Nat := if t = id then up else t
  let s3 := (if up = 0 then s2.commitBytes 3 .device cells else s2.writeAll ctx up cells).retagOps ctx f fun _ => false
  { (s3.updCtx ctx fun c => { c with nodes := c.nodes.map fun n =>
        if n.id = id then { n with fate := some true, up := up }
        else if n.parent = id && n.fate.isNone then { n with parent := up } else n }) with
    owned := s3.owned.map fun (o : Owned) => if o.ctx = ctx then { o with tag := f o.tag } else o
    cores := s3.cores.map fun (k : Core) => { k with hold := k.hold.map fun h => { h with eff := h.eff.retag ctx f } } }

/-- A resolve marked as applied. -/
def State.markApplied (s : State) (key status : Nat) : State :=
  { s with resolving := s.resolving.map fun (r : Resolve) => if r.key = key then { r with applied := true, status := status } else r }

/-- RESOLVE_POINT: the id becomes RESOLVING, with its subtree under HREF (R396, R400); it is the oldest resolve of its context that the directory has not applied (R273, R278, R400). -/
def execResolvePoint (key : Nat) (s : State) : Host.Outcome State Fault Refusal :=
  match s.resolving.find? fun r => r.key == key && !r.applied with
  | none => .next s
  | some r =>
    if (s.resolving.find? fun q => q.ctx == r.ctx && !q.applied).map Resolve.key ≠ some key then .next s
    else
      let c := s.ctx r.ctx
      if !c.resolvable r.id then .next (s.markApplied key statusFAULT)
      else
        let up := (c.writeTag (((c.node? r.id).map Node.parent).getD 0)).getD 0
        let s1 := s.updCtx r.ctx fun c => { c with nodes := c.nodes.map fun n => if n.id = r.id || (!r.confirm && n.atDir && c.under r.id 256 n.id) then { n with st := .resolving } else n }
        let s2 := if r.confirm then s1.mergeId r.ctx r.id up else s1.refuteId r.ctx r.id up
        .next (wakeAll (s2.markApplied key statusOK))

/-- Lanes of a context that have become orphans within an instruction they wait at: they complete it before they take HORPH
(R277, R403). -/
def State.markMid (s : State) (ctx : Nat) : State :=
  let lane (l : Lane) : Lane := if (s.orphan ctx l).isSome && l.wait != .none then { l with mid := true } else l
  { s with teams := s.teams.map fun (t : Team) =>
      if t.ctx = ctx then { t with warps := t.warps.map fun (w : Warp) => { w with lanes := w.lanes.map lane } } else t }

/-- A refute has completed: its orphans take HORPH at their next boundary, and within 2 µs (R277). -/
def State.refuted (s : State) (ctx : Nat) : State :=
  (s.updCtx ctx fun c => { c with refutes := c.refutes ++ [s.tick] }).markMid ctx

/-- RESOLVE_COMPLETE: the id is MERGED, or it and its subtree are REFUTED; the handle fills (R273, R277, R400). -/
def execResolveComplete (key : Nat) (s : State) : Host.Outcome State Fault Refusal :=
  match s.resolving.find? fun r => r.key == key && r.applied with
  | none => .next s
  | some r =>
    let c := s.ctx r.ctx
    let end_ (n : Node) : Node :=
      if n.id = r.id && r.confirm && n.st == .resolving && n.fate == some true then { n with st := .merged }
      else if !r.confirm && n.fate == some false && c.under r.id 256 n.id then { n with st := .refuted } else n
    let s0 := if r.status = statusOK then s.updCtx r.ctx fun c => { c with nodes := c.nodes.map end_ } else s
    let s1 := if r.status = statusOK && !r.confirm then s0.refuted r.ctx else s0
    let s2 := { s1 with resolving := s1.resolving.filter fun q => q.key != key }
    .next (wakeAll ((s2.completeOp r.team r.warp (6 * 2 ^ 24 + r.serial) r.status 0).freeIds r.ctx))

/-- ORPHAN_TRAP: a lane under a refuted id takes HORPH, unless it is in its handler (R277, R455). -/
def execOrphanTrap (team warp lane : Nat) (s : State) : Host.Outcome State Fault Refusal :=
  match s.laneIss team warp lane 0 with
  | none => .next s
  | some i =>
    match s.orphan i.team.ctx (i.warp.lane lane) with
    | some info => if (i.team.core?).isNone || undoFull s i then .next s else .next (s.trapLane team warp lane causeHORPH info 0)
    | none => .next s

end Sys2Proof.Machine
end

