-- ==== Sys2Proof/Machine/MatrixEngine.lean ====
section
/-! DEFINITION. The matrix engine: MATRIX_OP_START, K_BLOCK_COMPLETE, PAIR_WATCHDOG (R110, R227 to R232, R252,
R303 to R306, R427 to R433). -/
namespace Sys2Proof.Machine

/-! ## The parameter block (R427) -/

def MatOp.mode (o : MatOp) : Nat := fieldAt o.block 0 4
def MatOp.unfolded (o : MatOp) : Bool := o.mode % 4 == 1
def MatOp.globalB (o : MatOp) : Bool := o.mode / 4 % 2 == 1
def MatOp.accumulate (o : MatOp) : Bool := o.mode / 8 % 2 == 1
def MatOp.half (o : MatOp) : Nat := o.mode / 4096 % 2
def MatOp.m (o : MatOp) : Nat := fieldAt o.block 4 2
def MatOp.n (o : MatOp) : Nat := fieldAt o.block 6 2
def MatOp.k (o : MatOp) : Nat := fieldAt o.block 8 4
def MatOp.aAddr (o : MatOp) : Nat := fieldAt o.block 0x0C 4
def MatOp.aLd (o : MatOp) : Nat := fieldAt o.block 0x10 4
def MatOp.bAddr (o : MatOp) : Nat := fieldAt o.block 0x18 8
def MatOp.bLd (o : MatOp) : Nat := fieldAt o.block 0x20 4
def MatOp.sa (o : MatOp) : Nat := fieldAt o.block 0x24 4
def MatOp.sb (o : MatOp) : Nat := fieldAt o.block 0x28 4
def MatOp.unf (o : MatOp) : Nat := fieldAt o.block 0x2C 4
def MatOp.row0 (o : MatOp) : Nat := fieldAt o.block 0x30 2
def MatOp.col0 (o : MatOp) : Nat := fieldAt o.block 0x32 2
def MatOp.partner (o : MatOp) : Nat := fieldAt o.block 0x34 1
/-- An MMAP, by its engine number (R423). -/
def MatOp.paired (o : MatOp) : Bool := engineOf o.id == 2

/-- The words of slots A and B (R165, R427). -/
def MatOp.slotA (o : MatOp) (g : Grid) : Word := (g.record.fslot[o.mode / 16 % 8]?).getD 0
def MatOp.slotB (o : MatOp) (g : Grid) : Word := (g.record.fslot[o.mode / 128 % 8]?).getD 0

/-- Whether an element is an 8-bit float, or an integer. -/
def Elem.fp8 (e : Elem) : Bool := e == .e4m3 || e == .e5m2
def Elem.int (e : Elem) : Bool := e == .int8 || e == .uint8

/-- The pairs of R228. -/
def pairOk (a b : Elem) : Bool :=
  (a.fp8 && b.fp8) || (a.int && b.int) || (a == .bf16 && b == .bf16) || (a == .f16 && b == .f16) ||
    (a.fp8 && b == .p2p8) || (a == .p2p8 && b.fp8)

/-! ## Unfolding (R429) -/

/-- The unfolding descriptor, as it stands in the scratchpad: it is read once, at the operation's start (log 69). -/
def unfBytes (t : Team) (o : MatOp) : List Byte := (List.range 32).map fun j => sget (0 : Byte) t.scratch (o.unf + j)

/-- Whether the descriptor keeps its limits. -/
def unfOk (b : List Byte) (k : Nat) : Bool :=
  let f := fieldAt b
  [f 8 2, f 0x0A 2, f 0x0C 2, f 0x0E 2, f 0x10 1, f 0x11 1, f 0x12 1, f 0x13 1].all (fun v => 1 ≤ v) &&
    decide (f 0x14 1 < f 0x10 1) && decide (f 0x15 1 < f 0x11 1) && f 0x16 8 == 0 && f 0x1E 2 == 0 &&
    k == f 0x10 1 * f 0x11 1 * f 0x0C 2

/-- The scratchpad offset of element (m, k) of an unfolded A; none for a padding position. -/
def unfAt (b : List Byte) (es m k : Nat) : Option Nat :=
  let f := fieldAt b
  let q := f 4 4 + m
  let c := k % f 0x0C 2
  let t := k / f 0x0C 2
  let y : Int := (q / f 0x0E 2 * f 0x12 1 + t / f 0x11 1 : Nat) - (f 0x14 1 : Nat)
  let x : Int := (q % f 0x0E 2 * f 0x13 1 + t % f 0x11 1 : Nat) - (f 0x15 1 : Nat)
  if 0 ≤ y && y < (f 8 2 : Nat) && 0 ≤ x && x < (f 0x0A 2 : Nat) then
    some (f 0 4 + ((y.toNat * f 0x0A 2 + x.toNat) * f 0x0C 2 + c) * es)
  else none

/-- The scratchpad offset of element (m, k) of A; none for a padding position. -/
def aAt (o : MatOp) (es m k : Nat) : Option Nat :=
  if o.unfolded then unfAt o.desc es m k else some (o.aAddr + m * o.aLd + k * es)

/-- The address of element (k, n) of B. -/
def MatOp.bAt (o : MatOp) (es k n : Nat) : Nat := o.bAddr + k * o.bLd + n * es

/-! ## Validity (R427 to R429) -/

/-- The fields of A keep their limits; those of an MMAP's half 1 are ignored (R432). -/
def aOk (t : Team) (g : Grid) (o : MatOp) : Bool :=
  let es := (slotElem (o.slotA g)).bytes
  let lim := g.record.scratchBytes
  (o.mode % 4 != 0 || (o.aAddr % es == 0 && o.aLd % es == 0 && o.unf == 0 && decide (o.aAddr + (o.m - 1) * o.aLd + o.k * es ≤ lim))) &&
    (o.mode % 4 != 1 || (o.aAddr == 0 && o.aLd == 0 && o.unf % 32 == 0 && decide (o.unf + 32 ≤ lim) && unfOk (unfBytes t o) o.k &&
      (List.range o.m).all fun m => (List.range o.k).all fun k => match unfAt (unfBytes t o) es m k with
        | some a => a + es ≤ lim
        | none => true)) &&
    decide (o.mode % 4 ≤ 1) &&
    (if slotMode (o.slotA g) = 1 then decide (o.sa + o.m * (o.k / 32) ≤ lim) else o.sa == 0)

/-- The whole block keeps its limits, and the slots form a pair (R228, R427). -/
def matOk (t : Team) (g : Grid) (o : MatOp) : Bool :=
  let ea := slotElem (o.slotA g)
  let eb := slotElem (o.slotB g)
  let lim := g.record.scratchBytes
  o.mode / 8192 == 0 && decide (o.tile < g.record.accTiles) && pairOk ea eb &&
    decide (1 ≤ o.m) && decide (o.row0 + o.m ≤ 128) && decide (16 ≤ o.n) && o.n % 16 == 0 && decide (o.col0 + o.n ≤ 256) &&
    decide (32 ≤ o.k) && decide (o.k ≤ 65536) && o.k % 32 == 0 &&
    ((o.paired && o.half == 1) || aOk t g o) &&
    o.bAddr % eb.bytes == 0 && o.bLd % eb.bytes == 0 &&
    (if o.globalB then decide (o.bAddr < 0x01F0000000000000)
     else decide (o.bAddr < 2 ^ 19) && decide (o.bAt eb.bytes (o.k - 1) o.n ≤ lim)) &&
    (if slotMode (o.slotB g) = 1 then decide (o.sb + o.n * (o.k / 32) ≤ lim) else o.sb == 0) &&
    fieldAt o.block 0x14 4 == 0 && fieldAt o.block 0x35 11 == 0 && (o.paired || (o.half == 0 && o.partner == 0))

/-! ## One K-block (R303 to R306) -/

/-- An operand byte that the engine has read before the block that uses it (R232, R430), by its program address. -/
def MatOp.read? (o : MatOp) (a : Nat) : Option Byte := (o.got.find? fun x => x.1 == a).map Prod.snd

/-- Scratchpad bytes of an operand as a number: each as the engine has read it, else as it is (R430). -/
def MatOp.num (o : MatOp) (t : Team) (a n : Nat) : Nat :=
  leNum ((List.range n).map fun j => (o.read? (0x01F0000000000000 + a + j)).getD (sget (0 : Byte) t.scratch (a + j)))

/-- Element (m, k) of A, formed on its team (R429, R432). -/
def aValue (t : Team) (g : Grid) (o : MatOp) (m k : Nat) : FV :=
  let e := slotElem (o.slotA g)
  match aAt o e.bytes m k with
  | some a => e.value (o.num t a e.bytes)
  | none => e.value (if e = .p2p8 then 0x77 else 0)

/-- The location of a byte of a global B; none where its translation fails (R252). -/
def State.bLoc (s : State) (t : Team) (g : Grid) (a : Nat) : Option Use1 :=
  match s.translate t.ctx g.clamped .read a with
  | .phys u => some u
  | _ => none

/-- Element (k, n) of B: of a global B as its lines have been read (R232). -/
def bValue (t : Team) (g : Grid) (o : MatOp) (k n : Nat) : FV :=
  let e := slotElem (o.slotB g)
  let a := o.bAt e.bytes k n
  if o.globalB then e.value (leNum ((List.range e.bytes).map fun j => (o.read? (a + j)).getD 0)) else e.value (o.num t a e.bytes)

/-- The scale of a row of A or a column of B in block `j` (R303). -/
def scaleAt (t : Team) (o : MatOp) (slot : Word) (base blocks idx j : Nat) : FV := scaleOf slot (o.num t (base + idx * blocks + j) 1)

/-- The new word of tile element (m, n) once block `j` has been added. -/
def blockWord (t : Team) (g : Grid) (o : MatOp) (ta : Team) (oa : MatOp) (j m n : Nat) : Word :=
  let ps := (List.range 32).map fun i => (mulFV (aValue ta g oa m (32 * j + i)) (bValue t g o (32 * j + i) n)).1
  let old := t.tileWord o.tile (o.row0 + m) (o.col0 + n)
  if (slotElem (o.slotA g)).int then blockAddI old ps
  else
    BitVec.ofNat 32 (blockAddF old.toNat (blockRound (blockSum ps) (scaleAt ta oa (o.slotA g) oa.sa (oa.k / 32) m j)
      (scaleAt t o (o.slotB g) o.sb (o.k / 32) n j)))

/-- The region of the tile an operation changes, each element with the word `f` gives. -/
def MatOp.region (o : MatOp) (f : Nat → Nat → Word) : List (Nat × Word) :=
  (List.range o.m).flatMap fun m => (List.range o.n).map fun n => (tileKey o.tile (o.row0 + m) (o.col0 + n), f m n)

/-- The scratchpad bytes of A and of its scales that block `j` reads; a padding position reads none (R229, R231). -/
def aReads (g : Grid) (o : MatOp) (j : Nat) : List Nat :=
  let ea := (slotElem (o.slotA g)).bytes
  ((List.range o.m).flatMap fun m => (List.range 32).flatMap fun i => match aAt o ea m (32 * j + i) with
    | some a => (List.range ea).map (a + ·)
    | none => []) ++
  if slotMode (o.slotA g) = 1 then (List.range o.m).map fun m => o.sa + m * (o.k / 32) + j else []

/-- The program addresses of the bytes of B that block `j` reads. -/
def bReads (g : Grid) (o : MatOp) (j : Nat) : List Nat :=
  let eb := (slotElem (o.slotB g)).bytes
  (List.range 32).flatMap fun i => (List.range o.n).flatMap fun n => (List.range eb).map (o.bAt eb (32 * j + i) n + ·)

/-- The scratchpad bytes of B and of its scales that block `j` reads (R229). -/
def bOwn (g : Grid) (o : MatOp) (j : Nat) : List Nat :=
  (if o.globalB then [] else bReads g o j) ++
  if slotMode (o.slotB g) = 1 then (List.range o.n).map fun n => o.sb + n * (o.k / 32) + j else []

/-- Whether the scratchpad lines that block `j` reads are present (R229, R231). -/
def blockPresent (t : Team) (g : Grid) (o : MatOp) (ta : Team) (oa : MatOp) (j : Nat) : Bool :=
  (aReads g oa j).all (fun a => !ta.absentAt a) && (bOwn g o j).all fun a => !t.absentAt a

/-- Scratchpad bytes that an operation has not read yet, read now (R430). -/
def readOwn (t : Team) (o : MatOp) (as : List Nat) : List (Nat × Byte) :=
  (as.filter fun a => (o.read? (0x01F0000000000000 + a)).isNone).map fun a => (0x01F0000000000000 + a, sget (0 : Byte) t.scratch a)

/-- The program addresses of the lines of a global B that block `j` reads and that are not wholly read yet (R232). -/
def bLines (g : Grid) (o : MatOp) (j : Nat) : List Nat :=
  if o.globalB then (((bReads g o j).filter fun a => (o.read? a).isNone).map fun a => a / 128 * 128).eraseDups else []

/-- Lines of a global B with what their translation uses (R232). -/
def State.bNeeds (s : State) (t : Team) (g : Grid) (ls : List Nat) : List (Nat × Use1) :=
  ls.filterMap fun a => (s.bLoc t g a).map fun u => (a, u)

/-- A byte of B as a relaxed device-scope read sees it; none where a peer has not sent its line (R31, R430). -/
def State.bByte (s : State) (core : Nat) (t : Team) (o : MatOp) (loc : Nat) : Option Byte :=
  match s.decidedByte (s.core core) t.ctx loc ((s.ctx t.ctx).path o.hcur) with
  | some b => some b
  | none => if isPeer loc then lineByte o.lines loc else some (s.baseByte loc)

/-- Bytes of lines of B (R232, R430); a byte that has been read stays. -/
def State.bRead (s : State) (core : Nat) (t : Team) (o : MatOp) (ls : List (Nat × Use1)) : List (Nat × Byte) :=
  ls.flatMap fun l => ((List.range 128).filter fun j => (o.read? (l.1 + j)).isNone).map fun j =>
    (l.1 + j, (s.bByte core t o (l.2.loc + j)).getD 0)

/-- The locations among lines of B that a peer has still to send. -/
def State.bAway (s : State) (core : Nat) (t : Team) (o : MatOp) (ls : List (Nat × Use1)) : List Nat :=
  (ls.map fun l => l.2.loc).filter fun loc => (List.range 128).any fun j => (s.bByte core t o (loc + j)).isNone

/-! ## Ending (R110, R252, R432, R433) -/

/-- An operation changed in its queue. -/
def State.updMat (s : State) (core : Nat) (o : MatOp) (f : MatOp → MatOp) : State :=
  s.updCore core fun k => { k with matq := k.matq.map fun x => if x.team = o.team ∧ x.id = o.id then f x else x }

/-- The other team's oldest MMAP (R432). -/
def State.otherHalf (s : State) (o : MatOp) : Option (Nat × MatOp) :=
  match (s.team? o.team).bind s.pairTeam with
  | none => none
  | some t => s.cores.findSome? fun k => (k.matq.find? fun x => x.team == t.key && x.paired).map fun x => (k.num, x)

/-- How a half of an MMAP ends whose pair fails before its first K-block: BADFMT where it breaks R427, else PAIRFAIL (R432). -/
def State.pairStatus (s : State) (o : MatOp) : Nat :=
  match s.team? o.team, (s.team? o.team).bind fun t => s.grid? t.grid with
  | some t, some g => if matOk t g o then statusPAIRFAIL else statusBADFMT
  | _, _ => statusPAIRFAIL

/-- An MMAP's partner half ends, now or once it is issued (R432, R433). -/
def State.failPartner (s : State) (o : MatOp) : State :=
  if !o.paired then s
  else match s.otherHalf o with
    | some (c, x) => s.endMat c x (if x.started || x.nextK ≠ 0 then statusPAIRFAIL else s.pairStatus x) x.nextK
    | none => match (s.team? o.team).bind s.pairTeam with
      | some t => s.updTeam t.key fun u => { u with pairFails := u.pairFails + 1 }
      | none => s

/-- A team is flushed (R117, R195, R252): it ends, its held effects are discarded, and it is placed again from its
task record. -/
def State.flushTeam (s : State) (t : Team) : State :=
  let s1 := (s.endTeam t.key).dropEffects t.key
  ({ s1 with teams := s1.teams.filter fun u => u.key != t.key }.updGrid t.grid fun g =>
    { g with requeued := g.requeued ++ [t.index] }).freeIds t.ctx

/-- A team is killed by an operand fault: its tiles and scratchpad are zeroed and its held effects discarded; it is placed again
where RESTARTABLE is set, else its context is terminated (R252). -/
def State.killTeam (s : State) (t : Team) (d : Diag) : State :=
  match s.grid? t.grid with
  | some g =>
    if g.record.restartable then s.flushTeam t
    else terminateCtx (((s.updTeam t.key fun u => { u with scratch := [], tiles := [] }).endTeam t.key).dropEffects t.key) t.ctx d
  | none => s

/-- The peer that a page of B lies on where no link toward it is up, 0 for any other fault (R24; log 59). -/
def State.peerOfPage (s : State) (t : Team) (g : Grid) (a : Nat) : Nat :=
  match s.translate t.ctx g.clamped .read a with
  | .noPeer p => p
  | _ => 0

/-- The record of an operand fault (R24, R252, R457). -/
def matDiag (s : State) (core : Nat) (t : Team) (g : Grid) (o : MatOp) (addr : Nat) : Diag :=
  let w0 := match s.laneIss t.key o.warp o.lane core with
    | some i => s.wordAt i o.pc
    | none => Config.freeWord s.nonce
  { cause := causePAGE, flags := if g.record.trapEntry = 0 then 2 else 0, grid := g.key, team := t.index, warp := o.warp, lane := o.lane
    role := 1, pc := o.pc, info := BitVec.ofNat 32 (o.lane + 256 * s.peerOfPage t g addr), addr := addr, core := core, part := leList 4 w0.toNat ++ leList 4 0 ++ leList 1 o.hcur }

/-- MATRIX_FAULT (R110): logged, and the engine degraded. -/
def State.matrixFault (s : State) (core : Nat) (o : MatOp) : State :=
  (s.updCore core fun k => { k with matDegraded := true }).logEvent 0x0103 2 (sourceOfCore core) (partOfCore s core)
    (leList 1 (core / 4) ++ leList 1 (core % 4) ++ leList 2 0 ++ leList 4 o.id ++ leList 2 o.nextK)

/-- The partition of a core is in Ops; the function whose counters a team's errors count in. -/
def Team.vf (t : Team) (s : State) : Nat := (s.ctx t.ctx).vf

/-- One computation of the block by the engine of a core differed (R110): ROWREPLAY, and after the third the operation, in the queue
of `core`, ends. -/
def State.rowDiffers (s : State) (core engine : Nat) (t : Team) (o : MatOp) : State :=
  if o.fails + 1 < 3 then
    (s.count (t.vf s) fun c => { c with rowReplay := satInc c.rowReplay }).updMat core o fun x => { x with fails := x.fails + 1 }
  else
    let s2 := s.matrixFault engine o
    if o.paired then (s2.failPartner o).endMat core o statusPAIRFAIL o.nextK else s2.endMat core o statusFAULT o.nextK

/-- A block is added to its tile, and the operation moves on or completes (R303, R431); `upd` are the page-table
bits of a global B. -/
def State.addBlock (s : State) (core : Nat) (t : Team) (o : MatOp) (ws : List (Nat × Word)) : State :=
  let s1 := s.updTeam t.key fun u => u.writeTiles ws
  if o.cancel then s1.endMat core o statusCANCELLED (o.nextK + 1)
  else if o.k / 32 ≤ o.nextK + 1 then s1.endMat core o statusOK (o.nextK + 1)
  else s1.updMat core o fun x => { x with nextK := x.nextK + 1, fails := 0, passed := false, pairWait := none }

/-! ## MATRIX_OP_START (R227, R228, R428, R432) -/

/-- Whether a core's armed fault of KIND 2 attaches to an operation (R238). -/
def Core.armsFor (k : Core) (o : MatOp) : Bool :=
  k.inj.toNat % 4 == 2 && decide ((k.injK.toNat % 65536) < o.k / 32) && decide (o.row0 ≤ k.inj.toNat / 256 % 128) &&
    decide (k.inj.toNat / 256 % 128 < o.row0 + o.m) && decide (o.col0 ≤ k.inj.toNat / 65536 % 256) &&
    decide (k.inj.toNat / 65536 % 256 < o.col0 + o.n)

/-- An operation that starts: its descriptor is read (R231), its tile is live, a region that does not accumulate is zeroed, and armed faults of the team's
cores attach (R126, R238, R303, R435). -/
def State.startMat (s : State) (core : Nat) (o : MatOp) : State :=
  let cs := ((s.team? o.team).map Team.cores).getD []
  let s1 := s.updTeam o.team fun t =>
    let t1 := if o.accumulate || o.nextK ≠ 0 then t else t.writeTiles (o.region fun _ _ => 0)
    { t1 with freed := t1.freed.filter fun k => k != o.tile }
  s1.updMat core o fun x => { x with
    started := true, armed := cs.filter fun c => (s.core c).armsFor o, pairWait := none
    desc := if o.unfolded && o.nextK = 0 then ((s.team? o.team).map fun t => unfBytes t o).getD [] else x.desc }

/-- Whether the two halves agree: in slot A both by its number and by what it holds, its scale mode included (R432). -/
def halvesAgree (g h : Grid) (o x : MatOp) : Bool :=
  o.half != x.half && o.partner == x.partner && o.m == x.m && o.k == x.k && o.mode / 16 % 8 == x.mode / 16 % 8 && o.slotA g == x.slotA h

/-- The half of an MMAP must be that of its core's place in the pair (R432). -/
def halfFits (t : Team) (o : MatOp) : Bool := match t.core? with
  | some c => o.half == c % 2
  | none => true

/-- Whether a team or its pair's other team is being saved: no block and no start then (R198). -/
def State.pairSaving (s : State) (t : Team) (o : MatOp) : Bool :=
  t.leaving.saving || (o.paired && ((s.pairTeam t).map fun u => u.leaving.saving).getD false)

/-- Whether an operation's unfolding descriptor is present (R229, R231). -/
def unfHere (t : Team) (o : MatOp) : Bool := !o.unfolded || (o.paired && o.half == 1) || (List.range 32).all fun j => !t.absentAt (o.unf + j)

/-- The two halves of an MMAP, both issued and with their descriptors present: they start together where each is its queue's head
and they fit, and end before their first K-block where they do not (R427, R432). -/
def State.startPair (s : State) (core : Nat) (t : Team) (g : Grid) (o : MatOp) (c : Nat) (x : MatOp) : State :=
  let h := ((s.team? x.team).bind fun u => s.grid? u.grid).getD g
  let ok := halvesAgree g h o x && halfFits t o && s.pairStatus o == statusPAIRFAIL && s.pairStatus x == statusPAIRFAIL
  if !ok && o.nextK = 0 then (s.endMat c x (s.pairStatus x) 0).endMat core o (s.pairStatus o) 0
  else if ((s.core c).matq.head?.map fun y => (y.team, y.id)) ≠ some (x.team, x.id) then
    s.updMat core o fun x => { x with pairWait := some (x.pairWait.getD (s.cluster (core / 4)).kcyc) }
  else (s.startMat core o).startMat c x

/-- MATRIX_OP_START: the head of the engine's queue. -/
def execMatrixOpStart (core : Nat) (s : State) : Host.Outcome State Fault Refusal :=
  match (s.core core).matq with
  | [] => .next s
  | o :: _ =>
    if o.started then .next s
    else match s.team? o.team, (s.team? o.team).bind fun t => s.grid? t.grid with
      | some t, some g =>
        if s.pairSaving t o || !unfHere t o then .next s
        else if !o.paired then
          (if matOk t g o then .next (s.startMat core o) else .next (s.endMat core o statusBADFMT 0))
        else if !g.record.paired || (s.pairTeam t).isNone then .next (s.endMat core o (s.pairStatus o) 0)
        else if 0 < t.pairFails then
          .next ((s.updTeam t.key fun u => { u with pairFails := u.pairFails - 1 }).endMat core o (s.pairStatus o) 0)
        else match s.otherHalf o with
          | none => if !matOk t g o then .next ((s.failPartner o).endMat core o statusBADFMT 0)
              else .next (s.updMat core o fun x => { x with pairWait := some (x.pairWait.getD (s.cluster (core / 4)).kcyc) })
          | some (c, x) =>
            if !((s.team? x.team).map fun u => unfHere u x).getD true then .next s else .next (s.startPair core t g o c x)
      | _, _ => .next (s.updCore core fun k => { k with matq := k.matq.filter fun x => x.team != o.team })

/-! ## K_BLOCK_COMPLETE (R110, R238, R433) -/

/-- The armed fault of KIND 2 of a core acts on the first computation of its block: whether the computation differs (R238). -/
def State.fireOn (s : State) (core : Nat) (o : MatOp) (int : Bool) (c : Nat) : State × Bool :=
  let k := s.core c
  let e := (BitVec.ofNat 8 (k.inj.toNat / 2 ^ 24)).toInt
  if k.inj.toNat % 4 == 2 && k.injK.toNat % 65536 == o.nextK && o.fails == 0 then
    let s1 := ((s.updCore c fun k => { k with inj := k.inj &&& ~~~3 }).updMat core o fun x => { x with armed := x.armed.filter fun d => d != c }).logEvent
      0x0107 0 (sourceOfCore c) (partOfCore s c) (leList 1 (c / 4) ++ leList 1 (c % 4) ++ leList 2 0 ++ leList 4 k.inj.toNat ++ leList 4 o.id)
    (s1, !int || (decide (0 ≤ e) && decide (e ≤ 30)))
  else (s, false)

/-- The armed faults of an operation's cores (R126, R238). -/
def State.fireMat (s : State) (core : Nat) (o : MatOp) (int : Bool) : State × Bool :=
  o.armed.foldl (fun p c => let r := p.1.fireOn core o int c; (r.1, p.2 || r.2)) (s, false)

/-- The operation a core's engine computes: that of the lower core under DUALCORE, whose blocks both cores compute (R126, R431);
with the core whose queue holds it. -/
def State.matHead (s : State) (core : Nat) : Option (Nat × MatOp) :=
  match (s.core core).matq with
  | o :: _ => some (core, o)
  | [] => s.teams.findSome? fun t => match t.place with
    | .on c (some u) => if u = core then ((s.core c).matq.find? fun o => o.team == t.key && o.started).map fun o => (c, o) else none
    | _ => none

/-- K_BLOCK_COMPLETE: a core's engine has computed the block; `differs` is the row check's finding (R110). The upper core of a
DUALCORE pair computes the block too, and a difference there ends or replays it (R431). -/
def execKBlockComplete (core : Nat) (differs : Bool) (s : State) : Host.Outcome State Fault Refusal :=
  match s.matHead core with
  | none => .next s
  | some (home, o) =>
    if !o.started || o.passed then .next s
    else match s.team? o.team, (s.team? o.team).bind fun t => s.grid? t.grid with
      | some t, some g =>
        let other := if o.paired then s.otherHalf o else none
        let src : Nat × Team × MatOp := match other with
          | some (c, x) => if o.half = 1 then (c, (s.team? x.team).getD t, x) else (home, t, o)
          | none => (home, t, o)
        let bs := bLines g o o.nextK
        if s.pairSaving t o || (o.paired && other.isNone) then .next s
        else match bs.find? fun a => (s.bLoc t g a).isNone with
        | some a => .next ((s.failPartner o).killTeam t (matDiag s home t g o a))
        | none =>
          let ns := s.bNeeds t g bs
          let us := ns.map Prod.snd
          let far := s.bAway home t o ns
          if far ≠ [] then .next (s.askOnce (.mat home o.team o.id) far)
          else if !blockPresent t g o src.2.1 src.2.2 o.nextK ||
              us.any (fun u => s.ownedOn t.ctx ((s.ctx t.ctx).path o.hcur) u.loc) then .next s
          else if home ≠ core then (if differs then .next (wakeAll (s.rowDiffers home core t o)) else .next s)
          else
            let s00 := ((s.forceOthers (some core) (us.map Use1.loc)).useAll us).takeNonce
            let got := s00.bRead core t o ns
            let o : MatOp := { o with got := o.got ++ got }
            let s0 := if got = [] then s00 else s00.updMat core o fun x => { x with got := o.got }
            let src : Nat × Team × MatOp := if o.paired && o.half = 1 then src else (core, t, o)
            let r := s0.fireMat core o (slotElem (o.slotA g)).int
            if differs || r.2 then .next (wakeAll (r.1.rowDiffers core core t o))
            else
              let s1 := r.1
              let ws := o.region (blockWord t g o src.2.1 src.2.2 o.nextK)
              match other with
              | none => .next (wakeAll (s1.addBlock core t o ws))
              | some (c, x) =>
                if !x.passed then
                  let s2 := s1.updMat core o fun y => { y with
                    got := y.got ++ readOwn t y (bOwn g y y.nextK), passed := true, pairWait := some (s.cluster (core / 4)).kcyc }
                  .next (s2.updMat src.1 src.2.2 fun y => { y with got := y.got ++ readOwn src.2.1 y (aReads g y y.nextK) })
                else match s.team? x.team, (s.team? x.team).bind fun t => s.grid? t.grid with
                  | some u, some h =>
                    let sx : Team × MatOp := if x.half = 1 then (t, o) else (u, x)
                    let wx := x.region (blockWord u h x sx.1 sx.2 x.nextK)
                    .next (wakeAll ((s1.addBlock core t o ws).addBlock c u x wx))
                  | _, _ => .next s1
      | _, _ => .next s

/-! ## Operand bytes read early (R232, R430) -/

/-- The engine reads bytes of its current operation before the block that uses them: each at one time between the
operation's commit and the end of that block; lines of peers are asked for (R31). -/
def State.readEarly (s : State) (core : Nat) (as : List Nat) : State :=
  match (s.core core).matq with
  | [] => s
  | o :: _ => match s.team? o.team, (s.team? o.team).bind fun t => s.grid? t.grid with
    | some t, some g =>
      let new := as.filter fun a => (o.read? a).isNone
      let own := (new.filter fun a => decide (0x01F0000000000000 ≤ a) && !t.absentAt (a - 0x01F0000000000000)).map fun a =>
        (a, sget (0 : Byte) t.scratch (a - 0x01F0000000000000))
      let at_ := (new.filter fun a => o.started && decide (a < 0x01F0000000000000)).filterMap fun a =>
        (s.bLoc t g a).bind fun u => if s.ownedOn t.ctx ((s.ctx t.ctx).path o.hcur) u.loc then none else some (a, u)
      let ls := at_.filter fun l => (s.bByte core t o l.2.loc).isSome
      let s1 := (s.forceOthers (some core) (ls.map fun l => l.2.loc)).useAll (ls.map Prod.snd)
      let far := ls.map fun l => (l.1, (s1.bByte core t o l.2.loc).getD 0)
      (s1.updMat core o fun x => { x with got := x.got ++ own ++ far }).askOnce (.mat core o.team o.id)
        ((at_.map fun l => l.2.loc).filter fun loc => (s.bByte core t o loc).isNone)
    | _, _ => s

/-! ## PAIR_WATCHDOG (R433) -/

/-- A half that has waited PAIR_WATCHDOG_CYCLES cycles of its own clock, no save having stopped the pair (R198): both complete with
PAIRFAIL. -/
def State.pairDog (s : State) (core : Nat) : State :=
  match (s.core core).matq with
  | [] => s
  | o :: _ =>
    match o.pairWait, (s.team? o.team).bind fun t => s.grid? t.grid with
    | some k, some g =>
      if ((s.team? o.team).map fun t => s.pairSaving t o).getD false || decide ((s.cluster (core / 4)).kcyc < k + 1000 * g.record.pairCycles) then s
      else (s.failPartner o).endMat core o statusPAIRFAIL o.nextK
    | _, _ => s

/-- PAIR_WATCHDOG. -/
def execPairWatchdog (core : Nat) (s : State) : Host.Outcome State Fault Refusal := .next (s.pairDog core)

end Sys2Proof.Machine
end

