-- ==== Sys2Proof/Machine/Record.lean ====
section
/-! DEFINITION. The launch record: its fields and the order of their checks (R163 to R167), and the hulls of declared
regions (R171). -/
namespace Sys2Proof.Machine

/-! ## Fields of a record (R163) -/

/-- The record in its 256 bytes. -/
def parseRecord (b : List Byte) : LRec :=
  let fl := fieldAt b 4 4
  let entry (off : Nat) : Option Nat := if fieldAt b off 4 = 0xFFFFFFFF then none else some (fieldAt b off 4)
  { restartable := fl.testBit 0, dualcore := fl.testBit 1, fuseL1 := fl.testBit 2, paired := fl.testBit 3
    hall := fl.testBit 4, hypo := fl.testBit 5
    codeBase := fieldAt b 8 8, entryVec := entry 0x10, entryMat := entry 0x14, entryMsq := entry 0x18
    trapEntry := fieldAt b 0x1C 4, warpsVec := fieldAt b 0x20 1, warpsMat := fieldAt b 0x21 1, accTiles := fieldAt b 0x22 1
    ringCount := fieldAt b 0x23 1 % 8, ringLog := fieldAt b 0x23 1 / 16
    regsVec := fieldAt b 0x24 2, regsMat := fieldAt b 0x26 2, scratchBytes := fieldAt b 0x28 4, privateBytes := fieldAt b 0x2C 4
    gridX := fieldAt b 0x30 4, gridY := fieldAt b 0x34 4, gridZ := fieldAt b 0x38 4, hallTeams := fieldAt b 0x3C 1
    prioClass := fieldAt b 0x3D 1, weight := fieldAt b 0x3E 1
    fslot := (List.range 8).map fun i => BitVec.ofNat 32 (fieldAt b (0x40 + 4 * i) 4)
    barrier := (List.range 16).map fun i => fieldAt b (0x60 + 2 * i) 2
    paramBase := fieldAt b 0x80 8, paramBytes := fieldAt b 0x88 4, parkTicks := fieldAt b 0x8C 4, dogTicks := fieldAt b 0x90 4
    preemptBound := fieldAt b 0x94 4, estCycles := fieldAt b 0x98 4, pairCycles := fieldAt b 0x9C 4
    hoaBase := fieldAt b 0xA0 8, hoaBytes := fieldAt b 0xA8 4
    regions := (List.range (Nat.min (fieldAt b 0xAC 1) 4)).map fun i =>
      ⟨fieldAt b (0xB0 + 16 * i) 8, fieldAt b (0xB8 + 16 * i) 4, fieldAt b (0xBC + 16 * i) 4⟩
    doneAddr := fieldAt b 0xF0 8, doneValue := fieldAt b 0xF8 8 }

/-- Teams of a grid (R174). -/
def LRec.teams (r : LRec) : Nat := r.gridX * r.gridY * r.gridZ
/-- Warps of a team, movement apart. -/
def LRec.warps (r : LRec) : Nat := r.warpsVec + r.warpsMat

/-! ## Checks (R164 to R167) -/

/-- Where the windows of R241 start. -/
def windowsFrom : Nat := 0x01F0000000000000

/-- A format slot word (R165). -/
def slotOk (w : Nat) : Bool :=
  let el := w % 16
  let sm := w / 16 % 4
  let sb := w / 256 % 256
  w / 65536 == 0 && w / 64 % 4 == 0 && decide (el < 8) && sm != 3 && (sm == 0 || !(el == 0 || el == 6 || el == 7)) &&
    (if sm = 2 then sb != 255 else sb == 0)

/-- A barrier entry: the warps of the roles it names, none when one is absent (R166). -/
def barCap (r : LRec) (mask : Nat) : Option Nat :=
  if (mask.testBit 0 && r.entryVec.isNone) || (mask.testBit 1 && r.entryMat.isNone) || (mask.testBit 2 && r.entryMsq.isNone) then none
  else some ((if mask.testBit 0 then r.warpsVec else 0) + (if mask.testBit 1 then r.warpsMat else 0) + (if mask.testBit 2 then 1 else 0))

/-- A barrier entry (R166). -/
def barOk (r : LRec) (e : Nat) : Bool :=
  let mask := e / 4096 % 8
  let cnt := e % 64
  e / 64 % 64 == 0 && e / 32768 == 0 && ((mask == 0) == (cnt == 0)) &&
    (match barCap r mask with
      | some c => decide (cnt ≤ c)
      | none => false)

/-- Whether a word index keeps below bit 57 (R164). -/
def wordOk (codeBase idx : Nat) : Bool := decide ((codeBase + 4 * idx) / 2 ^ 57 = 0)

/-- Whether a role entry keeps below bit 57. -/
def entryOk (codeBase : Nat) : Option Nat → Bool
  | some i => wordOk codeBase i
  | none => true

/-- The register count of a role (R163). -/
def regsOk (present : Bool) (n : Nat) : Bool :=
  if present then n % 16 == 0 && decide (16 ≤ n) && decide (n ≤ 512) else n == 0

/-- Rows and row stride of a region's MODE (R167). -/
def Region.rows (g : Region) : Nat := g.mode / 256 % 256
def Region.stride (g : Region) : Nat := g.mode / 65536

/-- The checks of region entry `i` (R167). -/
def regionChecks (b : List Byte) (count i : Nat) : List (Nat × Bool) :=
  let o := 0xB0 + 16 * i
  if count ≤ i then (List.range 16).map fun j => (o + j, fieldAt b (o + j) 1 == 0)
  else
    let g : Region := ⟨fieldAt b o 8, fieldAt b (o + 8) 4, fieldAt b (o + 12) 4⟩
    [(o, decide (g.base < windowsFrom)), (o + 8, g.extent != 0),
     (o + 12, g.mode % 4 != 0 && g.mode / 4 % 64 == 0 && !(decide (1 < g.rows) && decide (64 * g.stride < g.extent)))]

/-- Every check of a record with the offset it names, offsets ascending (R163, R164); `signal` tells whether
DONE_ADDR lies in the signal area. -/
def recordChecks (b : List Byte) (signal : Nat → Bool) : List (Nat × Bool) :=
  let r := parseRecord b
  let vec := r.entryVec.isSome
  let mat := r.entryMat.isSome
  let rg := fieldAt b 0x23 1
  let n := fieldAt b 0xAC 1
  [(0x00, fieldAt b 0 4 == 0x00010000),
   (0x04, fieldAt b 4 4 / 64 == 0 && !(r.paired && (!mat || r.dualcore))),
   (0x08, r.codeBase % 4 == 0 && decide (r.codeBase < windowsFrom)),
   (0x10, (vec || mat) && entryOk r.codeBase r.entryVec), (0x14, entryOk r.codeBase r.entryMat), (0x18, entryOk r.codeBase r.entryMsq),
   (0x1C, r.trapEntry == 0 || wordOk r.codeBase r.trapEntry),
   (0x20, if vec then decide (1 ≤ r.warpsVec) && decide (r.warpsVec ≤ 32) else r.warpsVec == 0),
   (0x21, (if mat then decide (1 ≤ r.warpsMat) && decide (r.warpsMat ≤ 32) else r.warpsMat == 0) && decide (r.warps ≤ 32)),
   (0x22, decide (r.accTiles ≤ if mat then 4 else 0)),
   (0x23, decide (r.ringCount ≤ 4) && rg / 8 % 2 == 0 && decide (r.ringLog ≤ if r.ringCount = 0 then 0 else 4)),
   (0x24, regsOk vec r.regsVec), (0x26, regsOk mat r.regsMat),
   (0x28, r.scratchBytes % 128 == 0 && decide (r.scratchBytes ≤ 524288)),
   (0x2C, r.privateBytes % 16 == 0 && decide (r.privateBytes ≤ 65536)),
   (0x30, r.gridX != 0), (0x34, r.gridY != 0), (0x38, r.gridZ != 0 && decide (r.teams < 2 ^ 32)),
   (0x3C, (if r.hall then decide (1 ≤ r.hallTeams) && decide (r.hallTeams ≤ 4) else r.hallTeams == 1) && r.teams % r.hallTeams == 0 &&
     !(r.dualcore && decide (2 < r.hallTeams))),
   (0x3D, decide (r.prioClass ≤ 3)), (0x3E, r.weight != 0), (0x3F, fieldAt b 0x3F 1 == 0)] ++
  ((List.range 8).map fun i => (0x40 + 4 * i, slotOk (fieldAt b (0x40 + 4 * i) 4))) ++
  ((List.range 16).map fun i => (0x60 + 2 * i, barOk r (fieldAt b (0x60 + 2 * i) 2))) ++
  [(0x80, r.paramBytes == 0 || r.paramBase % 4 == 0), (0x88, r.paramBytes % 4 == 0 && decide (r.paramBytes ≤ 65536)),
   (0x9C, if r.paired then r.pairCycles != 0 else r.pairCycles == 0),
   (0xA0, if r.hypo then r.hoaBase % 128 == 0 && decide (r.hoaBase < windowsFrom) else r.hoaBase == 0),
   (0xA8, if r.hypo then r.hoaBytes != 0 && r.hoaBytes % 128 == 0 else r.hoaBytes == 0),
   (0xAC, decide (n ≤ 4)), (0xAD, fieldAt b 0xAD 1 == 0), (0xAE, fieldAt b 0xAE 1 == 0), (0xAF, fieldAt b 0xAF 1 == 0)] ++
  ((List.range 4).flatMap fun i => regionChecks b n i) ++
  [(0xF0, r.doneAddr == 0 || signal r.doneAddr)]

/-- The offset of the first check a record fails (R164). -/
def recordFault (b : List Byte) (signal : Nat → Bool) : Option Nat :=
  ((recordChecks b signal).find? fun c => !c.2).map Prod.fst

/-! ## Hulls (R171) -/

/-- First and last byte of a region, and whether it is written (R167, R171). -/
def Region.hull (g : Region) : Nat × Nat × Bool :=
  (g.base, g.base + 64 * g.stride * (g.rows - 1) + g.extent - 1, g.mode.testBit 1)

/-- Two regions share a byte and one of them is written. -/
def Region.conflicts (g h : Region) : Bool :=
  decide (g.hull.1 ≤ h.hull.2.1) && decide (h.hull.1 ≤ g.hull.2.1) && (g.hull.2.2 || h.hull.2.2)

/-- Whether launches with two records depend on each other (R171). -/
def LRec.conflicts (a b : LRec) : Bool := a.regions.any fun g => b.regions.any fun h => g.conflicts h

end Sys2Proof.Machine
end

