-- ==== Sys2Proof/Machine/Park.lean ====
section
/-! DEFINITION. When a team is parkable (R191) and the bytes of a save (R196). -/
namespace Sys2Proof.Machine

/-! ## Waiting (R191) -/

/-- Whether every register of a list that is empty awaits a producer of some kind. -/
def Warp.awaits (w : Warp) (need : List (Nat × Nat)) (p : Producer → Bool) : Bool :=
  need.all fun lr => match ((w.lane lr.1).cell lr.2).fill with
    | .empty x => p x
    | _ => true

/-- Whether a register is filled by WAITC, or also by an engine operation or a resolve (R191; engine operations are not in
flight in a team that parks). -/
def Producer.byWaitc : Producer → Bool
  | .waitc _ => true
  | _ => false
def Producer.byHandle : Producer → Bool
  | .waitc _ => true
  | .engine _ => true
  | .access _ => false

/-- The waits of R191 for a warp, and for a movement program, whose barrier forms count too (R447). -/
def Warp.waitParks (w : Warp) : Wait → Bool
  | .empty need => w.awaits need (if w.role == .movement then Producer.byWaitc else Producer.byHandle)
  | .stgw _ _ _ => true
  | .fault _ _ => true
  | .mwait _ => w.role != .movement
  | .bar _ _ => true
  | .barPart _ => true
  | .barHeld _ => true
  | .coll => w.role != .movement
  | .fwait _ => w.role != .movement
  | _ => false

/-- A warp, or movement program, each of whose live lanes waits (R191). -/
def Warp.parked (w : Warp) : Bool := w.lanes.all fun l => l.life != .live || w.waitParks l.wait

/-- Whether an operation waits on the fault queue, which counts as waiting for parking (R249). -/
def CopyOp.faulted (c : CopyOp) : Bool := c.jobs.any fun j => j.fault.isSome

/-- No copy, layout or matrix operation of a team is in flight, but those that wait on the fault queue (R191, R249). -/
def State.enginesIdle (s : State) (key : Nat) : Bool :=
  !(s.copies.any fun c => c.team == key && !c.faulted) && !(s.cores.any fun k => k.matq.any fun o => o.team == key)

/-- Whether a held effect is an atomic. -/
def Eff.isAtom : Eff → Bool
  | .atom _ _ _ _ => true
  | _ => false

/-- Whether a pending access has a lane that has not finished: the fills of the others are dropped (R335, R343). -/
def State.fillsOf (s : State) (key : Nat) (p : Pend) : Bool :=
  p.team == key && (match (s.team? key).bind fun t => t.warpAt p.warp with
    | some w => p.lanes.any fun l => (w.lane l.lane).life != .finished
    | none => false)

/-- No load or atomic of a team is outstanding (R191). -/
def State.accessesIdle (s : State) (key : Nat) : Bool :=
  !(s.pend.any (s.fillsOf key)) && !(s.cores.any fun k => k.hold.any fun h => h.team == key && h.eff.isAtom)

/-- The four conditions of R191. -/
def State.allWait (s : State) (t : Team) : Bool :=
  t.warps.all Warp.parked && t.warps.any (fun w => !w.finished) && s.enginesIdle t.key && s.accessesIdle t.key

/-- Whether a wait of a parked team has ended: a lane stands at its instruction with nothing to wait for, or an operation of it
waits on the fault queue no more (R193, R249). -/
def State.waitEnded (s : State) (t : Team) : Bool :=
  (t.warps.any fun w => w.lanes.any Lane.ready) || s.copies.any fun c => c.team == t.key && !c.faulted

/-- Since when the conditions hold, kept for a placed team with PARK_TICKS (R191); for a parked team, since when one of its
waits has ended (R193). -/
def State.watchPark (s : State) (t : Team) : Team :=
  match s.grid? t.grid with
  | none => t
  | some g =>
    if t.place == .parked then (if s.waitEnded t then { t with parkSince := some (t.parkSince.getD s.tick) } else t)
    else if g.record.parkTicks = 0 then t
    else if t.core?.isSome && !t.leaving.saving && s.allWait t then { t with parkSince := some (t.parkSince.getD s.tick) }
    else { t with parkSince := none }

/-! ## Idle clusters (R89) -/

/-- Whether a warp or movement context of the cluster could issue; one held by the matrix queue cannot (R227). -/
def State.clusterBusy (s : State) (cl : Nat) : Bool :=
  s.teams.any fun t => (t.cores.any fun c => c / 4 == cl) && !t.leaving.saving &&
    t.warps.any fun w => !w.held && !s.matHolds t w && w.lanes.any Lane.ready

/-- Idleness kept over a tick (R89). -/
def Cluster.watchIdle (c : Cluster) (busy : Bool) (tick : Nat) : Cluster :=
  if busy then { c with idleSince := none, idleAdds := 0 } else { c with idleSince := some (c.idleSince.getD tick) }

/-! ## The bytes of a save (R196) -/

/-- S of a team; the scratchpad's term is rounded up where it is no whole number (log 73). -/
def saveBytes (r : LRec) (t : Team) : Nat :=
  let regs := r.warpsVec * r.regsVec + r.warpsMat * r.regsMat
  132 * regs + 768 * r.warps + 4096 + (r.scratchBytes * 1025 + 1023) / 1024 + 131072 * (r.accTiles - t.freed.length)

/-- Cycles a team has executed, in thousandths (R195). -/
def State.executed (s : State) (t : Team) : Nat :=
  match t.core? with
  | some c => t.execBase + ((s.cluster (c / 4)).kcyc - t.execFrom)
  | none => t.execBase

end Sys2Proof.Machine
end

