-- ==== Sys2Proof/Machine/Watch.lean ====
section
/-! DEFINITION. Watched conditions and faults: WAITC_EVALUATE, WAITC_TIMEOUT, BARRIER_WATCHDOG, the plug-in
calls (R59 to R62), FAULT_ENTRY, PAGE_FAULT_REPOST, FAULTACK, PLUGIN_BUDGET_EXPIRY (R248 to R251, R418 to R421). -/
namespace Sys2Proof.Machine

/-! ## WAITC (R421) -/

/-- WAITC_EVALUATE. -/
def execWaitcEvaluate (key : Nat) (s : State) : Host.Outcome State Fault Refusal :=
  match s.waitcs.find? fun w => w.key == key with
  | some w => .next (s.evalWait w)
  | none => .next s

/-- WAITC_TIMEOUT. -/
def execWaitcTimeout (key : Nat) (s : State) : Host.Outcome State Fault Refusal :=
  match s.waitcs.find? fun w => w.key == key with
  | some w => match w.deadline with
    | some d => if d ≤ s.tick then .next (s.timeoutWait w) else .next s
    | none => .next s
  | none => .next s

/-! ## BARRIER_WATCHDOG (R418, R419) -/

/-- Numbers as a set of bits. -/
def bitsOf (ns : List Nat) : Nat := ns.foldl (fun m n => Nat.lor m (2 ^ n)) 0

/-- The warps of the roles a barrier names that are not counted, and 32 for the movement program (R419). -/
def missingOf (t : Team) (r : LRec) (b : Nat) : List Nat :=
  (t.warps.filter fun w => r.barRole b w.role && !(t.bar b).counted.contains w.id).map Warp.id

/-- The PC entry of warp `n` (R419). -/
def dogPc (t : Team) (missing : List Nat) (n : Nat) : Nat :=
  match t.warpAt n with
  | some w =>
    if w.finished || !missing.contains n then 0xFFFFFFFF
    else match w.live with
      | l :: _ => (w.lane l).pc.toNat
      | [] => 0xFFFFFFFF
  | none => 0xFFFFFFFF

/-- The watchdog record (R419). -/
def dogRecord (s : State) (t : Team) (r : LRec) (b first : Nat) : List Byte :=
  let x := t.bar b
  let miss := missingOf t r b
  leList 8 s.tick ++ leList 8 first ++ leList 4 t.index ++ leList 1 b ++ leList 1 ((r.barrier[b]?).getD 0 / 4096 % 8) ++
    leList 1 (r.barCount b) ++ leList 1 x.counted.length ++ leList 8 (bitsOf x.counted) ++ leList 8 (bitsOf miss) ++
    leList 8 (bitsOf ((t.warps.filter Warp.finished).map Warp.id)) ++ leList 1 (x.phase % 2) ++ leList 15 0 ++
    (List.range 32).flatMap fun n => leList 4 (dogPc t miss n)

/-- The warp that a BARTMO record names: the lowest-numbered that is missing and has not finished, with its lowest-numbered live
lane (R479). -/
def dogWarp (t : Team) (r : LRec) (b : Nat) : Option (Warp × Nat) :=
  match lowest (missingOf t r b |>.filter fun n => ((t.warpAt n).map fun w => !w.finished).getD false) with
  | none => none
  | some n => match t.warpAt n with
    | some w => w.live.head?.map fun l => (w, l)
    | none => none

/-- The record of a watchdog (R419, R457, R479). Where every missing warp has finished it names none, and its role is open, as
is the core of a team that is not placed (log 7). -/
def dogDiag (s : State) (t : Team) (g : Grid) (b first : Nat) : Diag :=
  let core := (t.core?).getD (Config.freeNat (s.nonce + 1) % 384)
  let base : Diag := { cause := causeBARTMO, flags := if g.record.trapEntry = 0 then 2 else 0, grid := g.key, team := t.index, warp := 0xFF
                       lane := 0xFF, role := Config.freeNat s.nonce % 3, pc := 0xFFFFFFFF, info := BitVec.ofNat 32 b, addr := 0, core := core
                       part := dogRecord s t g.record b first }
  match dogWarp t g.record b with
  | some (w, l) => { base with
    warp := w.id, lane := l, role := w.role.code, pc := (w.lane l).pc
    flags := base.flags + if w.role == .movement then 4 else 0 }
  | none => base

/-- A watchdog whose count has run out fires: the context ends with BARTMO (R418). -/
def State.barDog (s : State) (team bar : Nat) : State :=
  match s.team? team, (s.team? team).bind fun t => s.grid? t.grid with
  | some t, some g =>
    match (t.bar bar).firstWait with
    | none => s
    | some f =>
      let limit := if g.record.dogTicks = 0 then 10000000 else g.record.dogTicks
      if t.savedAt.isSome || t.place == .gone || decide (s.tick < f + (t.bar bar).paused + limit) then s
      else
        terminateCtx (s.takeNonces 2) t.ctx (dogDiag s t g bar f)
  | _, _ => s

/-- BARRIER_WATCHDOG. -/
def execBarrierWatchdog (team bar : Nat) (s : State) : Host.Outcome State Fault Refusal := .next (s.barDog team bar)

/-! ## Plug-in calls (R59 to R62) -/

/-- A fault of a plug-in counted; the sixteenth disables it (R61). -/
def State.pluginFault (s : State) (vf : Nat) : State :=
  match (s.vf vf).plugin with
  | none => s
  | some p =>
    let s1 := s.updVf vf fun v => { v with plugin := some { p with faults := p.faults + 1, disabled := p.disabled || decide (16 ≤ p.faults + 1) } }
    if p.faults + 1 = 16 then s1.post vf 0x0503 255 255 16 [] else s1

/-- Where a plug-in's code and data lie (R63). -/
def plugCodeAt (vf : Nat) : Nat := (Config.fwAddr 3 vf).toNat
def plugDataAt (vf : Nat) : Nat := (Config.fwAddr 4 vf).toNat

/-- The PMP entries of a running plug-in: its code, data and control pages in entries 8 to 13 (R58, R59, R63). -/
def plugPmp (vf : Nat) (p : Plugin) (entries : List Pmp) : List Pmp :=
  entries.take 8 ++ [.plugCode vf, .plugData vf, if p.control = 0 then .off else .plugControl vf, .off, .off, .off] ++ entries.drop 14

/-- The integer registers at a plug-in's entry: a0 to a5, sp, and zero elsewhere (R62). -/
def plugRegs (vf : Nat) (p : Plugin) (args : List Nat) : List (Nat × DWord) :=
  ssetAll (0 : DWord) [] ((2, BitVec.ofNat 64 (plugDataAt vf + p.dataBytes)) ::
    ((args.take 6).zipIdx.map fun a => (10 + a.2, BitVec.ofNat 64 a.1)))

/-- A firmware core enters a plug-in at ENTRY in U-mode (R62). -/
def FwCore.enterPlugin (f : FwCore) (vf : Nat) (p : Plugin) (args : List Nat) : FwCore :=
  { f with pc := BitVec.ofNat 64 (plugCodeAt vf + p.entry), mode := .u, x := plugRegs vf p args, pmp := plugPmp vf p f.pmp }

/-- The ECALL or exception of a plug-in returns the core to the scheduler firmware, as it was before the call; the entries
of the plug-in stay loaded until the next entry changes them (R58, R62). -/
def FwCore.leavePlugin (f before : FwCore) : FwCore := { before with pmp := f.pmp, call := some (f.pc, f.x) }

/-- The stores of a plug-in in order, each to its data region; the first elsewhere is denied, and nothing follows it (R59). -/
def plugStores (vf : Nat) (p : Plugin) : List (Nat × BitVec 8) → Plugin × Bool
  | [] => (p, true)
  | (a, b) :: ws =>
    if plugDataAt vf ≤ a && decide (a < plugDataAt vf + p.dataBytes) then
      plugStores vf { p with data := sset (0 : Byte) p.data (a - plugDataAt vf) b } ws
    else (p, false)

/-- A call of a plug-in on the firmware core of its partition: the core at the plug-in's entry and back, with what the plug-in
stored in its data region, and whether every store was allowed. -/
def State.callPlugin (s : State) (vf : Nat) (p : Plugin) (args : List Nat) (stores : List (Nat × BitVec 8)) : State × Bool :=
  let r := plugStores vf p stores
  ({ s with fwCores := updKey FwCore.num (fwOf (s.partOfVf vf)) (fun f => (f.enterPlugin vf p args).leavePlugin f) s.fwCores }.updVf vf
    fun v => { v with plugin := some r.1 }, r.2)

/-- What a plug-in stores in a call. -/
def plugWrites : Plug → List (Nat × BitVec 8)
  | .none => []
  | .ecall _ _ ws => ws
  | .exception ws => ws

/-- A hook of a function's plug-in with its arguments: its decision when it lies in the hook's range, else the default; none
when no plug-in is loaded or it is disabled. A call whose budget has run out ends in the default, and what it stored before in its
data region stays (R61, R62). -/
def State.hook (s : State) (vf : Nat) (args : List Nat) (pl : Plug) (inRange : Int → Bool) (dflt : Int) : State × Option Int :=
  match (s.vf vf).plugin with
  | none => (s, none)
  | some p =>
    let r := s.callPlugin vf p args (plugWrites pl)
    if p.expired then (r.1.updVf vf fun v => { v with plugin := v.plugin.map fun q => { q with expired := false } }, some dflt)
    else if p.disabled then (s, none)
    else match pl with
      | .ecall a7 a0 _ => if r.2 && a7 == 0x4F4E5250 && inRange a0 then (r.1, some a0) else (r.1.pluginFault vf, some dflt)
      | _ => (r.1.pluginFault vf, some dflt)

/-- PLUGIN_BUDGET_EXPIRY (R61): the call in progress is ended; its decision will be the default. -/
def execPluginBudgetExpiry (vf : Nat) (s : State) : Host.Outcome State Fault Refusal :=
  match (s.vf vf).plugin with
  | some p =>
    if p.disabled then .next s
    else .next ((s.pluginFault vf).updVf vf fun v => { v with plugin := v.plugin.map fun q => { q with expired := true } })
  | none => .next s

/-! ## Fault entries (R248 to R251) -/

/-- Teams of the contexts of a function. -/
def State.vfTeam (s : State) (vf : Nat) (t : Team) : Bool := (s.ctx t.ctx).vf == vf

/-- Whether a lane waits on an entry, or for room in the queue. -/
def Lane.onFault (l : Lane) (serial : Nat) : Bool :=
  match l.wait with
  | .fault (some n) _ => n == serial
  | _ => false
def Lane.offQueue (l : Lane) : Bool :=
  match l.wait with
  | .fault none _ => true
  | _ => false

/-- Lanes of the function's teams that a test picks try again. -/
def State.retryLanes (s : State) (vf : Nat) (p : Lane → Bool) : State :=
  { s with teams := s.teams.map fun t =>
      if s.vfTeam vf t then { t with warps := t.warps.map fun w =>
        { w with lanes := w.lanes.map fun l => if p l then { l with wait := .none } else l } } else t }

/-- An operation's jobs that a fault holds are tried again (R234, R251). -/
def State.retryOp (s : State) (op : CopyOp) (p : Option Nat → Bool) : State :=
  match s.opIss op with
  | none => s
  | some i =>
    let hit := op.jobs.filter fun j => match j.fault with
      | some n => p n
      | none => false
    let s1 := hit.foldl (fun s j => s.updJob op.key j.line fun j => { j with fault := none }) s
    let r := (hit.filter fun j => j.phys.isNone).foldl (fun (q : State × Bool) j =>
      match spaceOf (128 * j.line) with
      | .own _ => q
      | .hall _ _ => q
      | _ => if q.2 then q.1.takeLine i op { j with fault := none } else q) (s1, true)
    if r.2 then r.1 else r.1.endCopy op true

/-- Operations of the function that wait for an entry, or for room. -/
def State.faultOps (s : State) (vf : Nat) (p : Option Nat → Bool) : List CopyOp :=
  s.copies.filter fun c => ((s.team? c.team).map (s.vfTeam vf)).getD false && c.jobs.any fun j => match j.fault with
    | some n => p n
    | none => false

/-- An entry leaves the queue; what waited for room tries again (R249). -/
def State.freeEntry (s : State) (vf serial : Nat) : State :=
  let s1 := s.updVf vf fun v => { v with faults := v.faults.filter fun e => e.serial != serial }
  let s2 := s1.retryLanes vf Lane.offQueue
  (s2.faultOps vf fun n => n.isNone).foldl (fun s op => s.retryOp op fun n => n.isNone) s2

/-- Retry (R251): every lane and operation of the entry repeats its access. -/
def State.retryFault (s : State) (vf serial : Nat) : State :=
  let ops := s.faultOps vf fun n => n == some serial
  let s1 := (s.freeEntry vf serial).retryLanes vf fun l => l.onFault serial
  wakeAll (ops.foldl (fun s op => s.retryOp op fun n => n == some serial) s1)

/-- The lanes of an entry: team, warp, lane, faulting address. -/
def State.faultLanes (s : State) (vf serial : Nat) : List (Nat × Nat × Nat × Nat) :=
  (s.teams.filter (s.vfTeam vf)).flatMap fun t => t.warps.flatMap fun w =>
    (w.lanes.zipIdx.filter fun l => l.1.onFault serial).map fun l => (t.key, w.id, l.2, match l.1.wait with
      | .fault _ a => a
      | _ => 0)

/-- Kill (R251): each lane takes PAGE, each operation completes in error. -/
def State.killFault (s : State) (vf serial : Nat) : State :=
  let ops := s.faultOps vf fun n => n == some serial
  let ls := s.faultLanes vf serial
  let s1 := ls.foldl (fun s l => s.trapLane l.1 l.2.1 l.2.2.1 causePAGE (BitVec.ofNat 32 l.2.2.1) l.2.2.2) (s.freeEntry vf serial)
  ops.foldl (fun s op => s.endCopy op true) s1

/-- The event of an entry posted, or due again in 1,000,000 ticks when it was dropped (R250); a fault of stage 2 goes to
the hypervisor (R251). -/
def State.postFault (s : State) (vf : Nat) (e : FaultEntry) : State :=
  let r := if e.stage = 2 then (s.emit (.stage2 vf e.serial e.page e.kind), true) else s.postTry vf 0x050B 255 255 (e.serial % 2 ^ 32) (leList 8 e.va ++ leList 1 e.kind ++ leList 1 e.stage ++ leList 2 e.ctx)
  r.1.updVf vf fun v => { v with faults := v.faults.map fun x =>
    if x.serial = e.serial then { x with posted := true, repost := if r.2 then none else some (s.tick + 1000000) } else x }

/-- FAULT_ENTRY (R250): the plug-in decides, else the event is posted. -/
def execFaultEntry (vf serial : Nat) (pl : Plug) (s : State) : Host.Outcome State Fault Refusal :=
  match (s.vf vf).faults.find? fun e => e.serial == serial && !e.posted with
  | none => .next s
  | some e =>
    let r := s.hook vf [2, vf, serial, e.kind, e.stage, e.va] pl (fun d => decide (0 ≤ d) && decide (d ≤ 2)) 0
    match r.2 with
    | some 0 => .next ((r.1.retryFault vf serial).wakeVf vf)
    | some 1 => .next ((r.1.killFault vf serial).wakeVf vf)
    | _ => .next (r.1.postFault vf e)

/-- PAGE_FAULT_REPOST (R250). -/
def execPageFaultRepost (vf serial : Nat) (s : State) : Host.Outcome State Fault Refusal :=
  match (s.vf vf).faults.find? fun e => e.serial == serial with
  | some e => match e.repost with
    | some t => if t ≤ s.tick then .next (s.postFault vf e) else .next s
    | none => .next s
  | none => .next s

/-! ## SBI answers (R46, R54) -/

def sbiOk : Int := 0
def sbiNotSupported : Int := -2
def sbiInvalidParam : Int := -3
def sbiDenied : Int := -4
def sbiInvalidAddress : Int := -5
def sbiAlreadyAvailable : Int := -6

/-- The extension number of the Onaen extension (R46), and that of HSM, whose function 0 is hart_start. -/
def onaenExt : Nat := 0x4F4E4145
def hsmExt : Nat := 0x48534D

/-- Whether a core's registers make a call: the extension in a7, the function in a6, and the arguments from a0 on (R46, R54). -/
def Hart.asks (h : Hart) (ext fid : Nat) (args : List Nat) : Bool :=
  h.getX 17 == ext && h.getX 16 == fid && args.zipIdx.all fun a => h.getX (10 + a.2) == a.1

/-- Whether a call can come: from a started hart in HS-mode that waits for nothing and whose registers make the call (R46, R54). -/
def State.mayCall (s : State) (by_ : Caller) (ext fid : Nat) (args : List Nat) : Bool :=
  match by_ with
  | .pldm => false
  | .hart n => ((s.hart? n).map fun h => h.status == .started && h.mode == .s && h.await.isNone && h.asks ext fid args).getD false

/-- A call is in progress: its hart goes on when it returns (R53, R54). -/
def State.holdCall (s : State) (by_ : Caller) : State :=
  match by_ with
  | .pldm => s
  | .hart n => s.updHart n fun h => { h with calling := true }

/-- What an answer over the management port says, as numbers. -/
def Out.fields : Out → List Nat
  | .sensor _ v => [1, v]
  | .pldm ok => [2, if ok then 1 else 0]
  | .pldmCall e => [3, e.natAbs]
  | .spdm (.version v) => [4, v]
  | .spdm (.capabilities a b c) => [5, if a then 1 else 0, if b then 1 else 0, if c then 1 else 0]
  | .spdm (.algorithms a h) => [6, a, h]
  | .spdm (.digests d) => [7, d.toNat]
  | .spdm (.certificate bs left) => [8, left, bs.length, leNum bs]
  | .spdm (.challenge sig) => [9, sig.toNat]
  | .spdm (.measurements ms) => 10 :: ms.flatMap fun m => [m.1, m.2.toNat]
  | .spdm (.measCount n) => [11, n]
  | .spdm .error => [12]
  | _ => []

/-- The packets of a message, of at most a transmission unit each: the header of MCTP with the marks of the first and the last
packet and the sequence number, and a part of the message (R39; log 60). -/
def mctpPackets (unit seq : Nat) : Nat → List Byte → List (List Byte)
  | 0, _ => []
  | n + 1, bs =>
    let last := decide (bs.length ≤ unit)
    ([1, 0, 0, BitVec.ofNat 8 ((if seq = 0 then 128 else 0) + (if last then 64 else 0) + seq % 4 * 16)] ++ bs.take unit) ::
      if last then [] else mctpPackets unit (seq + 1) n (bs.drop unit)

/-- An answer over the management port leaves in MCTP packets, one per datagram to UDP port 0x0FE2 (R39). -/
def State.reply (s : State) (o : Out) : State :=
  let b := Config.mgmtBytes o.fields
  (mctpPackets s.ctrl.unit 0 (b.length + 1) b).foldl (fun s p => s.emit (.mctp 0x0FE2 p)) (s.emit o)

/-- The answer of a call, after which the hart goes on: a0 holds the error code, a1 and a2 the results of the calls that have
some (R54); over PLDM the equivalent response (R128, R130). -/
def State.answer (s : State) (by_ : Caller) (err : Int) (results : List Nat) : State :=
  match by_ with
  | .pldm => s.reply (.pldmCall err)
  | .hart n => s.updHart n fun h =>
      let h1 := results.zipIdx.foldl (fun h r => h.put (.x (11 + r.2)) r.1) (h.put (.x 10) (BitVec.ofInt 64 err).toNat)
      { h1 with pc := h1.pc + 4, calling := false }

/-- FAULTACK (R54, R251). -/
def execFaultack (c : Call) (serial act : Nat) (s : State) : Host.Outcome State Fault Refusal :=
  if !s.mayCall c.by_ onaenExt 3 [c.n, serial, act] then .next s
  else match (s.vf c.n).faults.find? fun e => e.serial == serial with
  | none => .next (s.answer c.by_ sbiInvalidParam [])
  | some _ =>
    if act = 0 then .next (((s.retryFault c.n serial).wakeVf c.n).answer c.by_ sbiOk [])
    else if act = 1 then .next (((s.killFault c.n serial).wakeVf c.n).answer c.by_ sbiOk [])
    else .next (s.answer c.by_ sbiInvalidParam [])

end Sys2Proof.Machine
end

