-- ==== Sys2Proof/Machine/Queue.lean ====
section
/-! DEFINITION. Queues: NOTIFY and the QCB (R133 to R139), the start of commands (R140 to R144), LAUNCH and its
completion (R145 to R147, R168, R170, R171), SIGNAL, WAIT, FENCE (R148 to R150), interrupts (R160), and the
function-level reset (R132). -/
namespace Sys2Proof.Machine

/-- `a - b` modulo 2^32. -/
def sub32 (a b : Nat) : Nat := (a + 2 ^ 32 - b % 2 ^ 32) % 2 ^ 32

/-! ## Contexts (R135) -/

/-- The context numbers that checkpoint images hold, with which a restore reinstates its contexts (R130, R135). -/
def State.imageCtxs (s : State) : List Nat :=
  (s.images ++ ((s.ckpt.bind CkptRun.image).toList)).flatMap fun i => i.saves.flatMap fun v => v.ctxs.map Ctx.num

/-- The context of a function's queues with two roots: that of a registered queue, else a new one whose number the
device chooses, one of no image where there is one (log 66); none when all numbers are taken. At its start its cache counters and
limits are 0: lines that an earlier context of the number left count toward none (R184). -/
def State.ctxFor (s : State) (vf satp hgatp : Nat) : State × Option Nat :=
  match s.queues.find? fun x => x.vf == vf && x.sh.satp.toNat == satp && x.sh.hgatp.toNat == hgatp with
  | some x => (s, some x.ctx)
  | none =>
    let open_ := (List.range 4096).filter fun n => !(s.ctxs.any fun c => c.num == n)
    let away := open_.filter fun n => !s.imageCtxs.contains n
    let free := if away = [] then open_ else away
    match free[Config.freeNat s.nonce % Nat.max free.length 1]? with
    | some n => ({ s.takeNonce with
        ctxs := s.ctxs ++ [{ num := n, vf := vf, satp := satp, hgatp := hgatp }]
        lines := s.lines.filter fun l => l.ctx != n
        limits := serase s.limits n }, some n)
    | none => (s.takeNonce, none)

/-- A context without queues and without grids ends, with its hypotheses and cached translations. -/
def State.dropCtx (s : State) (ctx : Nat) : State :=
  if s.queues.any (fun x => x.ctx == ctx) || s.grids.any (fun g => g.ctx == ctx) then s
  else
    let s1 := s.dropHypo ctx
    { s1 with ctxs := s1.ctxs.filter (fun c => c.num != ctx), tlb := s1.tlb.filter fun e => e.ctx != ctx }

/-- A queue is unregistered. -/
def State.dropQueue (s : State) (vf q : Nat) : State :=
  match s.queue? vf q with
  | none => s
  | some x => { s with queues := s.queues.filter fun y => !(y.vf == vf && y.num == q) }.dropCtx x.ctx

/-! ## The QCB (R137, R138) -/

/-- The bytes 0x20 to 0x2F of the QCB as the shadow has them (R136, R138). -/
def Queue.privBytes (x : Queue) : List Byte :=
  leList 1 x.sh.prioClass ++ leList 1 x.vf ++ leList 1 (if x.sh.scopeSys then 1 else 0) ++ leList 1 x.sh.qpriv.toNat ++
    leList 4 x.sh.irqVec.toNat ++ leList 8 x.sh.irqAddr.toNat

/-- The offset of the first privileged byte that differs from the shadow (R138). -/
def Queue.tampered (x : Queue) (b : List Byte) : Option Nat :=
  ((List.range 16).find? fun j => (b[0x20 + j]?) != (x.privBytes[j]?)).map (0x20 + ·)

/-- Whether the fields latched lie inside their limits (R136, R137). -/
def latchOk (b : List Byte) : Bool :=
  fieldAt b 0 8 % 4096 == 0 && decide (4 ≤ fieldAt b 8 1) && decide (fieldAt b 8 1 ≤ 12) && fieldAt b 0x30 8 % 4096 == 0 &&
    decide (1 ≤ fieldAt b 0x38 1) && decide (fieldAt b 0x38 1 ≤ 16)

/-- IRQ_COUNT in force; one above its range is left open (R136). -/
def irqCountOf (n nonce : Nat) : Nat := if n = 0 then 1 else if n ≤ 1024 then n else Config.freeNat nonce
/-- IRQ_TIME in force (R136). -/
def irqTimeOf (n : Nat) : Nat := if n = 0 then 32 else Nat.min n 1000

/-- The interrupt fields of a QCB read take effect; clearing IRQ_EN discards the count (R137, R160). A read that lowers
IRQ_COUNT to the count already pending sends nothing by itself: the next counted completion or IRQ_TIME does (log 62). -/
def Queue.takeIrq (x : Queue) (b : List Byte) (nonce : Nat) : Queue :=
  let en := (fieldAt b 9 1).testBit 1
  { x with irqEn := en, irqCount := irqCountOf (fieldAt b 10 2) nonce, irqTime := irqTimeOf (fieldAt b 12 2)
           irqPend := if en then x.irqPend else 0, irqSince := if en then x.irqSince else 0 }

/-- The queue is enabled with the fields latched (R137). -/
def Queue.enableWith (x : Queue) (b : List Byte) : Queue :=
  { x with enable := true, stopped := false, ringFault := false, ringBase := fieldAt b 0 8, ringLog := fieldAt b 8 1
           sigBase := fieldAt b 0x30 8, sigPages := fieldAt b 0x38 1 }

/-- What a NOTIFY's read of the QCB does, apart from its fault (R137, R138). -/
def State.takeQcb (s : State) (vf q : Nat) (x : Queue) (b : List Byte) : State :=
  let s1 := (s.updQueue vf q fun x => x.takeIrq b s.nonce).takeNonce
  let s2 := match x.tampered b with
    | some off => (s1.updQueue vf q fun x => { x with tamper := true }).post vf 0x0504 q 255 off []
    | none => s1
  let on := (fieldAt b 9 1).testBit 0
  if on && !x.enable then
    (if latchOk b then s2.updQueue vf q fun x => x.enableWith b else s2.ringFaulted vf q 3)
  else if on then s2
  else s2.updQueue vf q fun x => { x with enable := false }

/-- The bound of a NOTIFY: the latched RING_LOG2, or the one read where none was latched yet. -/
def Queue.ringMax (x : Queue) (b : List Byte) : Nat := 2 ^ (if x.ringLog = 0 then fieldAt b 8 1 else x.ringLog)

/-- What the slots of commands `first` on hold now (R140). -/
def State.slotsNow (s : State) (x : Queue) (first : Nat) : Nat → List (Nat × Nat × List Byte)
  | 0 => []
  | n + 1 =>
    match s.devRange x.ctx .read (x.slot first) 128 with
    | some us => (first % 2 ^ 32, x.slot first, us.map fun u => s.baseByte u.loc) :: s.slotsNow x (first + 1) n
    | none => s.slotsNow x (first + 1) n

/-- The ring of the commands that a NOTIFY covers: the one latched, else the one the QCB names (R137, R140). -/
def Queue.ringFor (x : Queue) (b : List Byte) : Queue :=
  if x.enable then x else { x with ringBase := fieldAt b 0 8, ringLog := fieldAt b 8 1 % 16 }

/-- The slots of the commands a NOTIFY covers as they stand, and those of earlier ones that lie in another ring than was
thought (R140). -/
def State.seeSlots (s : State) (y : Queue) (b : List Byte) (t : Nat) : List (Nat × Nat × List Byte) :=
  let r := y.ringFor b
  let old := s.slotsNow r y.head (sub32 y.tail y.head)
  (old.map fun e => (y.seen.find? fun x => x.1 == e.1 && x.2.1 == e.2.1).getD e) ++ s.slotsNow r y.tail (sub32 t y.tail)

/-- NOTIFY (R133, R137); it begins the exit of the function's partition from an idle state (R100). -/
def execNotify (vf q t : Nat) (s : State) : Host.Outcome State Fault Refusal :=
  let s := s.wakeVf vf
  match s.queue? vf q with
  | none => .next s
  | some x =>
    match s.devRead x.ctx x.sh.qcbAddr.toNat 64 with
    | none => .next (s.ringStop vf q 2)
    | some (s1, b) =>
      let s2 := s1.takeQcb vf q x b
      match s2.queue? vf q with
      | none => .next s2
      | some y =>
        if sub32 t y.completed ≤ y.ringMax b ∧ sub32 t y.tail ≤ y.ringMax b then
          .next ((s2.updQueue vf q fun z => { z with tail := t % 2 ^ 32, seen := s2.seeSlots y b t }).writeQcb vf q)
        else .next (s2.ringStop vf q 0)

/-! ## The start of a command (R140, R141, R144) -/

/-- A WAIT that has started holds what follows (R144). -/
def Queue.waiting (x : Queue) : Bool := x.started.any fun c => c.op == 3 && !c.done

/-- Whether the queue may fetch the command at HEAD. -/
def State.mayFetch (s : State) (x : Queue) : Bool :=
  x.fetching && x.head != x.tail && !x.waiting && (s.part (s.partOfVf x.vf)).places

/-- Each aligned 8-byte word of a command is the old or the new one where they differ (R140). -/
def mixWords (nonce : Nat) (old new : List Byte) : List Byte :=
  (List.range 16).flatMap fun j =>
    let o := (old.drop (8 * j)).take 8
    let n := (new.drop (8 * j)).take 8
    if o ≠ n && Config.freeBool (nonce + j) then o else n

/-- The command at HEAD as the device reads it. -/
def State.readCmd (s : State) (x : Queue) : Option (State × List Byte) :=
  match s.devRead x.ctx (x.slot x.head) 128 with
  | none => none
  | some (s1, b) =>
    match x.seen.find? fun e => e.1 == x.head with
    | some e => some (s1.takeNonces 16, if e.2.1 = x.slot x.head then mixWords s.nonce e.2.2 b else b)
    | none => some (s1, b)

/-- Whether the OP of a command is assigned (R141). -/
def opKnown (b : List Byte) : Bool := decide (1 ≤ fieldAt b 0 1) && decide (fieldAt b 0 1 ≤ 7)

/-- The offset of the first header field outside its limits (R141). -/
def headFault (b : List Byte) : Option Nat :=
  if 8 ≤ fieldAt b 1 1 then some 1 else if fieldAt b 2 2 ≠ 0 then some 2 else none

/-- The first body byte that is not zero among those the OP does not define; `keep` tells the ones it defines (R141). -/
def zeroFault (b : List Byte) (keep : Nat → Bool) : Option Nat :=
  (List.range 112).findSome? fun j => if !keep (8 + j) && fieldAt b (8 + j) 1 ≠ 0 then some (8 + j) else none

/-- The first of the checks of a body that fails, the zero bytes among them: its offset and status code. Checks are
(offset, code, passed), offsets ascending. -/
def bodyBad (checks : List (Nat × Nat × Bool)) (z : Option Nat) : Option (Nat × Nat) :=
  match checks.find? fun c => !c.2.2, z with
  | some c, some o => if o < c.1 then some (o, 1) else some (c.1, c.2.1)
  | some c, none => some (c.1, c.2.1)
  | none, some o => some (o, 1)
  | none, none => none

/-- The command at HEAD starts: HEAD moves on and the command is listed (R139, R144). -/
def State.startCmd (s : State) (x : Queue) (b : List Byte) : State :=
  (s.updQueue x.vf x.num fun x => { x with
    head := (x.head + 1) % 2 ^ 32
    started := x.started ++ [{ idx := x.head, op := fieldAt b 0 1, flags := fieldAt b 1 1 }]
    seen := x.seen.filter fun e => e.1 != x.head }).writeQcb x.vf x.num

/-- A command of a queue: when the one at HEAD is picked and its start condition holds, it is started, its header is
judged, and `body` acts, told of the first byte that should be zero; a ring that faults stops the queue (R139 to R144). -/
def runCmd (s : State) (vf q : Nat) (pick : List Byte → Bool) (alone : Bool) (extra : Bool) (keep : Nat → Bool)
    (body : State → Queue → Nat → List Byte → Option Nat → State) : State :=
  match s.queue? vf q with
  | none => s
  | some x =>
    if !s.mayFetch x then s
    else match s.readCmd x with
      | none => s.ringStop vf q 1
      | some (s1, b) =>
        if !pick b || ((alone || (fieldAt b 1 1).testBit 1) && x.started != []) || !extra then s
        else
          let s2 := s1.startCmd x b
          match if opKnown b then headFault b else none with
          | some off => s2.completeCmd vf q x.head 1 off
          | none => body s2 x x.head b (zeroFault b keep)

/-- The OP of a command. -/
def isOp (n : Nat) (b : List Byte) : Bool := fieldAt b 0 1 == n

/-! ## LAUNCH (R145, R147, R162, R168, R170, R171) -/

/-- An 8-byte address in the signal area of a queue (R148, R163). -/
def Queue.signalAt (x : Queue) (a : Nat) : Bool := a % 8 == 0 && (x.signalPage a).isSome

/-- What reading, checking and admitting a record gives. -/
inductive Admit where
  | unread
  | bad (off : Nat)
  | noParams
  | ok (r : LRec) (params : List Byte)
  deriving DecidableEq, Repr

/-- A launch record read once and its parameters copied (R145, R162, R164, R168). -/
def State.readLaunch (s : State) (x : Queue) (addr : Nat) : State × Admit :=
  if addr % 64 ≠ 0 then (s, .unread)
  else match s.devRead x.ctx addr 256 with
    | none => (s, .unread)
    | some (s1, b) =>
      match recordFault b x.signalAt with
      | some off => (s1, .bad off)
      | none =>
        let r := parseRecord b
        if r.paramBytes = 0 then (s1, .ok r [])
        else match s1.devRead x.ctx r.paramBase r.paramBytes with
          | some (s2, ps) => (s2, .ok r ps)
          | none => (s1, .noParams)

/-- A grid is added, to read its code as memory stands (R245). -/
def State.addGrid (s : State) (x : Queue) (origin : Origin) (addr : Nat) (r : LRec) (params : List Byte) (cls weight : Nat)
    (deps : List Nat) (code : List Host.Cell) : State :=
  { s.takeKey with grids := s.grids ++
      [{ key := s.nextKey, vf := x.vf, ctx := x.ctx, origin := origin, owner := x.num, record := r, recAddr := addr, params := params, code := code
         cls := cls, weight := weight, bound := r.preemptBound, deps := deps, remaining := r.teams, clamped := !x.sh.scopeSys }] }

/-- Task records in use in a partition (R170). -/
def State.recordsUsed (s : State) (part : Nat) : Nat :=
  s.grids.countP fun g => !g.ended && s.partOfVf g.vf == part && (match g.origin with
    | .queue _ _ => true
    | .gate _ _ _ _ => false)

/-- The launches a new one depends on (R171). -/
def State.depsOf (s : State) (ctx : Nat) (r : LRec) : List Nat :=
  (s.grids.filter fun g => g.ctx == ctx && !g.ended && g.record.conflicts r && (match g.origin with
    | .queue _ _ => true
    | .gate _ _ _ _ => false)).map Grid.key

/-- The class in force (R147). -/
def classOf (queue rec : Nat) : Nat := if rec = 0 then queue else Nat.max queue rec

/-- The body of LAUNCH (R60, R145, R147). -/
def launchBody (pl : Plug) (s : State) (x : Queue) (idx : Nat) (b : List Byte) (z : Option Nat) : State :=
  let addr := fieldAt b 8 8
  match bodyBad [(8, 4, addr % 64 == 0)] z with
  | some e => s.completeCmd x.vf x.num idx e.2 e.1
  | none =>
  match s.readLaunch x addr with
  | (s1, .unread) => s1.completeCmd x.vf x.num idx 4 8
  | (s1, .bad off) => s1.completeCmd x.vf x.num idx 2 off
  | (s1, .noParams) => s1.completeCmd x.vf x.num idx 4 0x80
  | (s1, .ok r ps) =>
    let h := s1.hook x.vf [1, x.vf, x.num, r.weight, classOf x.sh.prioClass r.prioClass] pl (fun d => decide (1 ≤ d) && decide (d ≤ 255)) r.weight
    h.1.addGrid x (.queue x.num idx) addr r ps (classOf x.sh.prioClass r.prioClass) ((h.2.map Int.toNat).getD r.weight) (s1.depsOf x.ctx r) s1.mem

/-- LAUNCH. -/
def execLaunch (vf q : Nat) (pl : Plug) (s : State) : Host.Outcome State Fault Refusal :=
  .next (runCmd s vf q (isOp 1) false (decide (s.recordsUsed (s.partOfVf vf) < 4096)) (fun o => decide (o < 0x10)) (launchBody pl))

/-! ## LAUNCH_COMPLETE (R146) -/

/-- Whether every team of a grid has left and no effect of it is outstanding (R146). -/
def State.gridDone (s : State) (g : Grid) : Bool :=
  !g.ended && g.nextTeam == g.record.teams && g.requeued == [] && !(s.teams.any fun t => t.grid == g.key)

/-- The stores of a context become visible at device scope. -/
def State.publishCtx (s : State) (ctx : Nat) : State :=
  (s.cores.map Core.num).foldl (fun s c =>
    s.publish c (((s.core c).dirty.filter fun d => d.ctx == ctx && d.tag == 0).map fun d => d.lineOn c)) s

/-- DONE_VALUE written to DONE_ADDR, and whether it could be (R146, R158). -/
def State.writeDone (s : State) (g : Grid) : State × Bool :=
  if g.record.doneAddr = 0 then (s, true)
  else match s.devWrite g.ctx g.record.doneAddr (leList 8 g.record.doneValue) with
    | some s1 => (s1.markSignal g.vf g.owner g.record.doneAddr, true)
    | none => (s, false)

/-- LAUNCH_COMPLETE. -/
def execLaunchComplete (grid : Nat) (s : State) : Host.Outcome State Fault Refusal :=
  match s.grid? grid with
  | none => .next s
  | some g =>
    match g.origin with
    | .gate _ _ _ _ => .next s
    | .queue _ _ =>
      if !s.gridDone g then .next s
      else
        let r := (s.publishCtx g.ctx).writeDone g
        .next ((r.1.endGrid g (if r.2 then 0 else 4) (if r.2 then 0 else 0xF0)).sweep.dropCtx g.ctx)

/-! ## SIGNAL, WAIT, FENCE, unknown OPs (R141, R148 to R150) -/

/-- Whether a committed effect of an ended launch of a context is still in a hold (R150, R456). -/
def State.ctxHeld (s : State) (ctx : Nat) : Bool :=
  s.cores.any fun k => k.hold.any fun h => ((s.team? h.team).map fun t => t.ctx == ctx && t.place == .gone).getD false

/-- Whether accesses of a function's partition toward peers, or of the device, with numbers below a bound are not answered (R257). -/
def State.peersOut (s : State) (vf below : Nat) : Bool :=
  s.asks.any fun a => decide (a.tag < below) && (match a.who with
    | .device => true
    | _ => (a.who.core?.map fun c => (s.part (s.partOfVf vf)).coreNums.contains c).getD false)

/-- Whether a queue's SIGNAL or FENCE at a scope acts at system scope (R148, R150). -/
def Queue.atSystem (x : Queue) (scope : Nat) : Bool := x.sh.scopeSys && scope == 3

/-- A SIGNAL stores or adds, once what its release covers is done: at system scope peers have acknowledged what came before
(R148, R257). -/
def State.finishSignal (s : State) (x : Queue) (c : Started) : State :=
  if s.peersOut x.vf c.mask then s
  else
    let s0 := s.publishCtx x.ctx
    let old := if c.cond = 1 then s0.devRead x.ctx c.addr 8 else some (s0, [])
    match old with
    | none => s0.completeCmd x.vf x.num c.idx 4 8
    | some (s1, o) =>
      match s1.devWrite x.ctx c.addr (leList 8 (leNum o + c.value)) with
      | none => s0.completeCmd x.vf x.num c.idx 4 8
      | some s2 => (s2.markSignal x.vf x.num c.addr).completeCmd x.vf x.num c.idx 0 0

/-- A started command replaced by one with its operands. -/
def State.keepCmd (s : State) (x : Queue) (c : Started) : State :=
  s.updQueue x.vf x.num fun x => { x with started := x.started.map fun d => if d.idx = c.idx then c else d }

/-- The body of SIGNAL. -/
def signalBody (s : State) (x : Queue) (idx : Nat) (b : List Byte) (z : Option Nat) : State :=
  let a := fieldAt b 8 8
  match bodyBad [(8, 4, x.signalAt a), (0x18, 1, decide (fieldAt b 0x18 1 ≤ 1)), (0x19, 1, fieldAt b 0x19 1 == 2 || fieldAt b 0x19 1 == 3)] z with
  | some e => s.completeCmd x.vf x.num idx e.2 e.1
  | none =>
    let c : Started := { idx := idx, op := 2, addr := a, value := fieldAt b 0x10 8, cond := fieldAt b 0x18 1, flags := fieldAt b 1 1
                         mask := if x.atSystem (fieldAt b 0x19 1) then s.nextKey else 0 }
    (s.keepCmd x c).finishSignal x c

/-- The command of an OP that a queue has started and that still waits. -/
def State.waitingCmd (s : State) (vf q op : Nat) : Option (Queue × Started) :=
  (s.queue? vf q).bind fun x => (x.started.find? fun c => c.op == op && !c.done).map fun c => (x, c)

/-- SIGNAL: it starts, or, started at system scope, it ends once peers have acknowledged. -/
def execSignalCmd (vf q : Nat) (s : State) : Host.Outcome State Fault Refusal :=
  match s.waitingCmd vf q 2 with
  | some (x, c) => .next (s.finishSignal x c)
  | none => .next (runCmd s vf q (isOp 2) true (!((s.queue? vf q).map fun x => s.ctxHeld x.ctx).getD false) (fun o => decide (o < 0x1A)) signalBody)

/-- The condition of a WAIT (R149). -/
def waitHolds (cond word value mask : Nat) : Bool :=
  let a := Nat.land word mask
  let b := Nat.land value mask
  match cond with
  | 0 => a == b
  | 1 => a != b
  | 2 => decide (b ≤ a)
  | _ => decide (a < b)

/-- A WAIT is evaluated: TIMEOUT once its time has passed, else OK when its condition holds and BADADDR when its read faults
(R149). -/
def State.evalCmd (s : State) (x : Queue) (c : Started) : State :=
  if (c.deadline.map fun d => decide (d ≤ s.tick)).getD false then s.completeCmd x.vf x.num c.idx 5 0
  else match s.devRead x.ctx c.addr 8 with
  | none => s.completeCmd x.vf x.num c.idx 4 8
  | some (s1, w) =>
    if waitHolds c.cond (leNum w) c.value c.mask then s1.completeCmd x.vf x.num c.idx 0 0
    else s1.updQueue x.vf x.num fun x => { x with started := x.started.map fun d =>
      if d.idx = c.idx then { d with lastEval := s.tick, word := leNum w } else d }

/-- The body of WAIT. -/
def waitBody (s : State) (x : Queue) (idx : Nat) (b : List Byte) (z : Option Nat) : State :=
  let a := fieldAt b 8 8
  let c : Started := { idx := idx, op := 3, addr := a, value := fieldAt b 0x10 8, mask := fieldAt b 0x18 8, cond := fieldAt b 0x20 1
                       flags := fieldAt b 1 1, deadline := if fieldAt b 0x24 4 = 0 then none else some (s.tick + 1000 * fieldAt b 0x24 4) }
  match bodyBad [(8, 4, a % 8 == 0), (0x20, 1, decide (c.cond ≤ 3))] z with
  | some e => s.completeCmd x.vf x.num idx e.2 e.1
  | none => (s.updQueue x.vf x.num fun x => { x with started := x.started.map fun d => if d.idx = idx then c else d }).evalCmd x c

/-- WAIT. -/
def execWaitCmd (vf q : Nat) (s : State) : Host.Outcome State Fault Refusal :=
  .next (runCmd s vf q (isOp 3) false true (fun o => decide (o < 0x21) || (decide (0x24 ≤ o) && decide (o < 0x28))) waitBody)

/-- The WAIT a queue stands at. -/
def Queue.waitCmd? (x : Queue) : Option Started := x.started.find? fun c => c.op == 3 && !c.done

/-- WAIT_REEVALUATE (R149). -/
def execWaitReevaluate (vf q : Nat) (s : State) : Host.Outcome State Fault Refusal :=
  match s.queue? vf q with
  | none => .next s
  | some x => match x.waitCmd? with
    | none => .next s
    | some c => .next (s.evalCmd x c)

/-- WAIT_TIMEOUT (R149). -/
def execWaitTimeout (vf q : Nat) (s : State) : Host.Outcome State Fault Refusal :=
  match s.queue? vf q with
  | none => .next s
  | some x => match x.waitCmd? with
    | none => .next s
    | some c => match c.deadline with
      | none => .next s
      | some d => if s.tick < d then .next s else .next (s.completeCmd vf q c.idx 5 0)

/-- Whether a WAIT is due for evaluation: its word at L2 has changed, 1,000 ticks have passed, or its time has (R149). -/
def State.waitDue (s : State) (x : Queue) (c : Started) : Bool :=
  decide (c.lastEval + 1000 ≤ s.tick) || (c.deadline.map fun d => decide (d ≤ s.tick)).getD false ||
  (match s.devRange x.ctx .read c.addr 8 with
   | some us => us.all (fun u => !isPeer u.loc) && leNum (us.map fun u => s.baseByte u.loc) != c.word
   | none => true)

/-- The WAITs that are due are evaluated. -/
def State.waitTick (s : State) : State :=
  s.queues.foldl (fun s x => match x.waitCmd? with
    | some c => if s.waitDue x c then s.evalCmd x c else s
    | none => s) s

/-- A FENCE ends once peers have acknowledged what its system scope covers; beyond core scope the stores of its context are visible
at device scope (R150, R257, R260). -/
def State.finishFence (s : State) (x : Queue) (c : Started) : State :=
  if s.peersOut x.vf c.mask then s
  else (if c.cond = 0 then s else s.publishCtx x.ctx).completeCmd x.vf x.num c.idx 0 0

/-- FENCE (R150): at its start every effect of the earlier commands is complete, those of terminated launches too; it ends at once,
or, at system scope, once peers have acknowledged. -/
def execQueueFence (vf q : Nat) (s : State) : Host.Outcome State Fault Refusal :=
  match s.waitingCmd vf q 7 with
  | some (x, c) => .next (s.finishFence x c)
  | none => .next (runCmd s vf q (isOp 7) true (!((s.queue? vf q).map fun x => s.ctxHeld x.ctx).getD false) (fun o => o == 8) fun s x idx b z =>
    match bodyBad [(8, 1, decide (fieldAt b 8 1 ≤ 3))] z with
    | some e => s.completeCmd x.vf x.num idx e.2 e.1
    | none =>
      let c : Started := { idx := idx, op := 7, cond := fieldAt b 8 1, flags := fieldAt b 1 1
                           mask := if x.atSystem (fieldAt b 8 1) then s.nextKey else 0 }
      (s.keepCmd x c).finishFence x c)

/-- UNKNOWN_OP_COMMAND (R141). -/
def execUnknownOpCommand (vf q : Nat) (s : State) : Host.Outcome State Fault Refusal :=
  .next (runCmd s vf q (fun b => !opKnown b) false true (fun _ => true) fun s x idx _ _ =>
    s.completeCmd x.vf x.num idx 1 0)

/-! ## IRQ_TIME_EXPIRY (R160), FUNCTION_LEVEL_RESET (R123, R132) -/

/-- IRQ_TIME_EXPIRY. -/
def execIrqTimeExpiry (vf q : Nat) (s : State) : Host.Outcome State Fault Refusal :=
  match s.queue? vf q with
  | none => .next s
  | some x =>
    if x.irqEn && x.irqPend != 0 && decide (x.irqSince + 1000 * (x.irqTime : Int) ≤ (s.tick : Int)) then .next (s.sendMsi vf q) else .next s

/-- FUNCTION_LEVEL_RESET. -/
def execFunctionLevelReset (vf : Nat) (s : State) : Host.Outcome State Fault Refusal :=
  let qs := (s.queues.filter fun x => x.vf == vf).map Queue.num
  .next ((qs.foldl (fun s q => s.dropQueue vf q) s).updVf vf fun v =>
    { v with evtBase := 0, evtHead := 0, evtTail := 0, evtLost := 0, cnt := {} })

end Sys2Proof.Machine
end

