-- ==== Sys2Proof/Machine/Slalom.lean ====
section
/-! DEFINITION. The slalom table: TABLE commands, table boundaries, gate instances (R151 to R155). -/
namespace Sys2Proof.Machine

/-- A slalom table changed. -/
def State.updSlalom (s : State) (p : Nat) (f : Slalom → Slalom) : State := s.updPart p fun q => { q with slalom := f q.slalom }

/-- The gate of a number. -/
def Slalom.gate? (t : Slalom) (n : Nat) : Option Gate := (t.gates.find? fun g => g.1 == n).map Prod.snd

/-- The gates with one set or cleared. -/
def Slalom.putGate (t : Slalom) (n : Nat) (g : Option Gate) : Slalom :=
  { t with gates := (t.gates.filter fun x => x.1 != n) ++ match g with
      | some g => [(n, g)]
      | none => [] }

/-- The first instance of a gate that took effect at a tick (R151). -/
def Slalom.firstInst (t : Slalom) (g : Gate) (eff : Nat) : Nat := (eff - t.epoch - g.offset + t.cycleNs - 1) / Nat.max t.cycleNs 1

/-- The nominal start of an instance (R151). -/
def Slalom.nominal (t : Slalom) (g : Gate) (n : Nat) : Nat := t.epoch + n * t.cycleNs + g.offset

/-- The boundary at which a change whose command started at a tick takes effect (R152). -/
def Slalom.boundary (t : Slalom) (start : Nat) : Nat :=
  t.epoch + (start + 10000 - t.epoch + t.cycleNs - 1) / Nat.max t.cycleNs 1 * t.cycleNs

/-- A deferred instance is dropped, with GATE_SKIP to the gate's owner (R152, R153). -/
def State.dropDeferred (s : State) (n : Nat) (g : Gate) : State :=
  match g.deferred with
  | some d => s.post g.vf 0x0507 g.queue n d.n []
  | none => s

/-- A gate change takes effect at a tick (R151, R152). -/
def State.applyGate (s : State) (p n : Nat) (g : Option Gate) (eff : Nat) : State :=
  let s1 := match (s.part p).slalom.gate? n with
    | some old => s.dropDeferred n old
    | none => s
  s1.updSlalom p fun t => t.putGate n (g.map fun g => { g with next := t.firstInst g eff })

/-! ## TABLE commands (R152, R153) -/

/-- The body bytes TABLE defines. -/
def tableKeep (o : Nat) : Bool :=
  decide (o < 0x0A) || (decide (0x10 ≤ o) && decide (o < 0x21)) || (decide (0x28 ≤ o) && decide (o < 0x2C)) || (decide (0x30 ≤ o) && decide (o < 0x38))

/-- The cycle against which a SETGATE's fields are checked: that in force, else a pending one (R152, R153). -/
def Slalom.limit (t : Slalom) : Option Nat := if t.active then some t.cycleNs else t.pendCycle.map fun c => c.1

/-- A change of a gate: at once on an inactive table, else at its boundary (R152, R153). Ownership is judged at the start, by
the gates in force then (log 62). -/
def State.changeGate (s : State) (x : Queue) (idx n : Nat) (g : Option Gate) : State :=
  let p := s.partOfVf x.vf
  let t := (s.part p).slalom
  if ((t.gate? n).map fun o => o.vf != x.vf).getD false then s.completeCmd x.vf x.num idx 8 9
  else if t.active then s.updSlalom p fun t => { t with pendGates := t.pendGates ++ [(n, g, s.tick, ⟨x.vf, x.num, idx⟩)] }
  else (s.applyGate p n g s.tick).completeCmd x.vf x.num idx 0 0

/-- The body of SETGATE; a TOP that is not assigned is judged here (R152). -/
def setGateBody (s : State) (x : Queue) (idx : Nat) (b : List Byte) (z : Option Nat) : State :=
  let lim := (s.part (s.partOfVf x.vf)).slalom.limit
  let g : Gate := { vf := x.vf, queue := x.num, offset := fieldAt b 0x10 4, deadline := fieldAt b 0x14 4, template := fieldAt b 0x18 8
                    policy := fieldAt b 0x20 1 }
  let below (v : Nat) : Bool := (lim.map fun c => decide (v < c)).getD true
  let upto (v : Nat) : Bool := (lim.map fun c => decide (v ≤ c)).getD true
  if !x.sh.qpriv.getLsbD 0 then s.completeCmd x.vf x.num idx 8 0
  else match bodyBad [(8, 1, fieldAt b 8 1 == 0), (0x10, 1, below g.offset), (0x14, 1, decide (1 ≤ g.deadline) && upto g.deadline),
      (0x18, 1, g.template % 64 == 0), (0x20, 1, decide (g.policy ≤ 3))] z with
    | some e => s.completeCmd x.vf x.num idx e.2 e.1
    | none => s.changeGate x idx (fieldAt b 9 1) (some g)

/-- The body of CLEARGATE. -/
def clearGateBody (s : State) (x : Queue) (idx : Nat) (b : List Byte) (z : Option Nat) : State :=
  if !x.sh.qpriv.getLsbD 0 then s.completeCmd x.vf x.num idx 8 0
  else match z with
    | some off => s.completeCmd x.vf x.num idx 1 off
    | none => s.changeGate x idx (fieldAt b 9 1) none

/-- The body of SETCYCLE: an earlier pending one is cancelled (R152, R153). -/
def setCycleBody (s : State) (x : Queue) (idx : Nat) (b : List Byte) (z : Option Nat) : State :=
  let p := s.partOfVf x.vf
  let cyc := fieldAt b 0x28 4
  let ep := fieldAt b 0x30 8
  if !x.sh.qpriv.getLsbD 0 then s.completeCmd x.vf x.num idx 8 0
  else match bodyBad [(0x28, 1, decide (1000 ≤ cyc) && decide (cyc ≤ 1000000000)), (0x30, 1, decide (s.tick + 10000 ≤ ep))] z with
    | some e => s.completeCmd x.vf x.num idx e.2 e.1
    | none =>
      let s1 := s.updSlalom p fun t => { t with pendCycle := some (cyc, ep, ⟨x.vf, x.num, idx⟩) }
      match (s.part p).slalom.pendCycle with
      | some (_, _, c) => s1.completeCmd c.vf c.queue c.cmd 6 0
      | none => s1

/-- Whether a command is TABLE with a TOP that the test picks. -/
def isTable (top : Nat → Bool) (b : List Byte) : Bool := isOp 4 b && top (fieldAt b 8 1)

/-- SETGATE. -/
def execSetGate (vf q : Nat) (s : State) : Host.Outcome State Fault Refusal :=
  .next (runCmd s vf q (isTable fun t => t != 1 && t != 2) true true tableKeep setGateBody)

/-- CLEARGATE. -/
def execClearGate (vf q : Nat) (s : State) : Host.Outcome State Fault Refusal :=
  .next (runCmd s vf q (isTable fun t => t == 1) true true tableKeep clearGateBody)

/-- SETCYCLE. -/
def execSetCycle (vf q : Nat) (s : State) : Host.Outcome State Fault Refusal :=
  .next (runCmd s vf q (isTable fun t => t == 2) true true tableKeep setCycleBody)

/-! ## TABLE_BOUNDARY (R152, R153) -/

/-- The gates that are valid at a new EPOCH: those in force, and those whose pending change the EPOCH itself, a boundary of the new
table, brings about (R152, R153). -/
def Slalom.gatesAt (t : Slalom) (ep : Nat) : List (Nat × Gate) :=
  ((t.pendGates.filter fun g => decide (g.2.2.1 + 10000 ≤ ep)).foldl (fun u g => u.putGate g.1 g.2.1) t).gates

/-- A pending SETCYCLE takes effect at its EPOCH, or completes with BADCMD (R152, R153). -/
def State.applyCycle (s : State) (p cyc ep : Nat) (c : TableCmd) : State :=
  let t := (s.part p).slalom
  let s1 := s.updSlalom p fun t => { t with pendCycle := none }
  if (t.gatesAt ep).any fun g => decide (cyc ≤ g.2.offset) || decide (cyc < g.2.deadline) then s1.completeCmd c.vf c.queue c.cmd 1 0x28
  else
    let s2 := t.gates.foldl (fun s g => s.dropDeferred g.1 g.2) s1
    (s2.updSlalom p fun t => { t with
      active := true, cycleNs := cyc, epoch := ep
      gates := t.gates.map fun g => (g.1, { g.2 with next := 0, deferred := none }) }).completeCmd c.vf c.queue c.cmd 0 0

/-- The pending gate changes whose boundary has come by a tick, in the order of their commands (R152). -/
def State.applyGates (s : State) (p upto : Nat) : State :=
  let t := (s.part p).slalom
  let due := t.pendGates.filter fun g => t.active && decide (t.boundary g.2.2.1 ≤ upto)
  let s1 := s.updSlalom p fun u => { u with pendGates := u.pendGates.filter fun g => !(t.active && decide (t.boundary g.2.2.1 ≤ upto)) }
  due.foldl (fun s g => (s.applyGate p g.1 g.2.1 (t.boundary g.2.2.1)).completeCmd g.2.2.2.vf g.2.2.2.queue g.2.2.2.cmd 0 0) s1

/-- TABLE_BOUNDARY: a SETCYCLE at its EPOCH follows the gate changes of the old table due by then, which its check covers (R153). -/
def execTableBoundary (part : Nat) (s : State) : Host.Outcome State Fault Refusal :=
  let s1 := match (s.part part).slalom.pendCycle with
    | some (cyc, ep, c) => if ep ≤ s.tick then (s.applyGates part ep).applyCycle part cyc ep c else s
    | none => s
  .next (s1.applyGates part s.tick)

/-! ## Gate instances (R154, R155) -/

/-- The running instance of a gate of a partition (R155). -/
def State.running? (s : State) (part gate : Nat) : Option Grid :=
  s.grids.find? fun g => !g.ended && s.partOfVf g.vf == part && (match g.origin with
    | .gate n _ _ _ => n == gate
    | .queue _ _ => false)

/-- The number of a gate's instance. -/
def Grid.inst (g : Grid) : Nat := match g.origin with
  | .gate _ n _ _ => n
  | .queue _ _ => 0

/-- An instance is launched, or its GATE_BADREC is posted (R154): with the VALUE of a TEMPLATE that cannot be read also where
the queue that owns the gate is registered no more (log 62). -/
def State.launchGate (s : State) (n : Nat) (g : Gate) (d : Deferred) : State :=
  let bad (s : State) (v : Nat) : State := s.post g.vf 0x050A g.queue n v []
  match s.queue? g.vf g.queue with
  | none => bad s 0x80000018
  | some x =>
    match s.readLaunch x g.template with
    | (s1, .unread) => bad s1 0x80000018
    | (s1, .bad off) => bad s1 off
    | (s1, .noParams) => bad s1 0x80
    | (s1, .ok r ps) =>
      (s1.addGrid x (.gate n d.n d.nominal d.deadline) g.template r ps 0 r.weight [] s1.mem).updGrid s1.nextKey fun k => { k with missed := d.missed }

/-- Whether a table change is due by a tick and not made yet. -/
def Slalom.changeDue (t : Slalom) (tick : Nat) : Bool :=
  (t.pendCycle.map fun c => decide (c.2.1 ≤ tick)).getD false || (t.active && t.pendGates.any fun g => decide (t.boundary g.2.2.1 ≤ tick))

/-- The deferred instance of a gate with nothing running is launched (R155). -/
def State.launchDeferred (s : State) (part gate : Nat) : State :=
  match (s.part part).slalom.gate? gate, s.running? part gate with
  | some g, none => match g.deferred with
    | some d => (s.updSlalom part fun t => t.putGate gate (some { g with deferred := none })).launchGate gate g d
    | none => s
  | _, _ => s

/-- The deferred instances of every gate with nothing running are launched (R155). -/
def State.deferTick (s : State) : State :=
  (s.parts.flatMap fun p => (p.slalom.gates.filter fun g => g.2.deferred.isSome).map fun g => (p.num, g.1)).foldl
    (fun s g => s.launchDeferred g.1 g.2) s

/-- GATE_INSTANCE_START (R154, R155); a deferred instance whose forerunner has ended was launched before. -/
def execGateInstanceStart (part gate : Nat) (s : State) : Host.Outcome State Fault Refusal :=
  let s := s.launchDeferred part gate
  let t := (s.part part).slalom
  match t.gate? gate with
  | none => .next s
  | some g =>
    let nom := t.nominal g g.next
    if !t.active || decide (s.tick < nom) || t.changeDue nom then .next s
    else
      let d : Deferred := { n := g.next, nominal := nom, deadline := nom + g.deadline }
      let s1 := s.updSlalom part fun t => t.putGate gate (some { g with next := g.next + 1 })
      match s.running? part gate with
      | none => .next (s1.launchGate gate g d)
      | some old =>
        if g.policy = 2 then
          .next (((s1.post g.vf 0x0509 g.queue gate old.inst []).endGrid old 6 0).sweep.launchGate gate g d)
        else if g.policy = 3 then .next (s1.post g.vf 0x0508 g.queue gate g.next [])
        else if g.policy = 1 ∧ g.deferred.isNone then
          .next (s.updSlalom part fun t => t.putGate gate (some { g with next := g.next + 1, deferred := some d }))
        else .next (s1.post g.vf 0x0507 g.queue gate g.next [])

/-- GATE_INSTANCE_COMPLETE (R154, R155). -/
def execGateInstanceComplete (part gate : Nat) (s : State) : Host.Outcome State Fault Refusal :=
  match s.running? part gate with
  | none => .next (s.launchDeferred part gate)
  | some g =>
    if !s.gridDone g then .next s
    else
      let r := (s.publishCtx g.ctx).writeDone g
      let s1 := if r.2 then r.1 else r.1.post g.vf 0x050A g.owner gate 0xF0 []
      .next (((s1.endGrid g 0 0).sweep.launchDeferred part gate).dropCtx g.ctx)

/-- DEADLINE_MISS (R154), of a running or a deferred instance. -/
def execDeadlineMiss (part gate inst : Nat) (s : State) : Host.Outcome State Fault Refusal :=
  let run := s.grids.find? fun g => !g.ended && !g.missed && s.partOfVf g.vf == part && (match g.origin with
    | .gate n i _ d => n == gate && i == inst && decide (d ≤ s.tick)
    | .queue _ _ => false)
  match run with
  | some g => .next ((s.updGrid g.key fun k => { k with missed := true }).post g.vf 0x0506 g.owner gate inst [])
  | none =>
    match (s.part part).slalom.gate? gate with
    | none => .next s
    | some g => match g.deferred with
      | none => .next s
      | some d =>
        if d.n == inst && !d.missed && decide (d.deadline ≤ s.tick) then
          .next ((s.updSlalom part fun t => t.putGate gate (some { g with deferred := some { d with missed := true } })).post g.vf 0x0506 g.queue gate inst [])
        else .next s

/-- The next gate start of a table (R100, R151). -/
def Slalom.nextStart (t : Slalom) : Option Nat :=
  let starts := (if t.active then t.gates.map fun g => t.nominal g.2 g.2.next else []) ++
    (match t.pendCycle with
     | some c => t.gates.map fun g => c.2.1 + g.2.offset
     | none => [])
  starts.foldl (fun m n => some (match m with
    | some k => Nat.min k n
    | none => n)) none

end Sys2Proof.Machine
end

