-- ==== Sys2Proof/Machine/Place.lean ====
section
/-! DEFINITION. Where teams are placed: groups, capacities and the search (R177 to R181), classes and turns
(R172 to R175), reservations (R176), fused L1s (R182), TEAM_PLACE, PLACEMENT_RESERVATION, TEAM_LEAVE (R335). -/
namespace Sys2Proof.Machine

/-! ## Groups (R178, R179) -/

/-- The teams placed together with team `i`: its hall, its pair, or itself. -/
def LRec.group (r : LRec) (i : Nat) : List Nat :=
  if r.hall then (List.range r.hallTeams).map fun j => i / r.hallTeams * r.hallTeams + j
  else if r.paired then [i / 2 * 2, i / 2 * 2 + 1].filter fun j => decide (j < r.teams)
  else [i]

/-- The pair of team `i` within its hall or its grid; none for a team without a partner. -/
def LRec.pairOf (r : LRec) (i : Nat) : Option (List Nat) :=
  if !r.paired then none
  else
    let base := if r.hall then i / r.hallTeams * r.hallTeams else 0
    let n := if r.hall then r.hallTeams else r.teams
    let k := (i - base) / 2
    if base + 2 * k + 1 < base + n then some [base + 2 * k, base + 2 * k + 1] else none

/-! ## Capacities (R177, R180) -/

/-- Teams that stand on a core, but those a test ignores. -/
def State.onCore (s : State) (core : Nat) (ignore : Nat → Bool) : List Team :=
  s.teams.filter fun t => t.cores.contains core && !ignore t.key

/-- Registers per lane of a warp of a role (R177). -/
def LRec.regsOf (r : LRec) : Role → Nat
  | .vector => r.regsVec
  | .matrix => r.regsMat
  | .movement => 0

/-- The pipe of a warp on a core: the second core's under DUALCORE. -/
def pipeOn (t : Team) (w : Warp) (core : Nat) : Nat :=
  match t.place with
  | .on c _ => if c = core then w.pipe else w.pipe2
  | _ => w.pipe

/-- Free registers per lane and free warp slots of a pipe (R177). -/
def State.pipeFree (s : State) (core : Nat) (ignore : Nat → Bool) (p : Nat) : Nat × Nat :=
  let ws := (s.onCore core ignore).flatMap fun t =>
    let r := ((s.grid? t.grid).map Grid.record).getD {}
    (t.warps.filter fun w => w.role != .movement && pipeOn t w core == p).map fun w => r.regsOf w.role
  (2048 - ws.sum, 16 - ws.length)

/-- The pipe that gets the next warp: the most free registers among those with a free slot, ties to the lower (R180). -/
def bestPipe (ps : List (Nat × Nat)) : Option Nat :=
  (ps.zipIdx.filter fun p => p.1.2 != 0).foldl (fun (o : Option (Nat × Nat)) p => match o with
    | none => some (p.2, p.1.1)
    | some (i, f) => if f < p.1.1 then some (p.2, p.1.1) else some (i, f)) none |>.map Prod.fst

/-- The pipes of warps in ascending WARPID; none where one does not fit (R180). -/
def assignPipes : List (Nat × Nat) → List Nat → Option (List Nat)
  | _, [] => some []
  | ps, n :: ns =>
    match bestPipe ps with
    | none => none
    | some p =>
      if ((ps[p]?).getD (0, 0)).1 < n then none
      else (assignPipes (updAt ps p fun f => (f.1 - n, f.2 - 1)) ns).map (p :: ·)

/-- The registers of the warps of a team, in ascending WARPID (R180). -/
def LRec.needs (r : LRec) : List Nat := List.replicate r.warpsVec r.regsVec ++ List.replicate r.warpsMat r.regsMat

/-- Scratchpad lines taken on a core: first line and count. -/
def State.linesTaken (s : State) (core : Nat) (ignore : Nat → Bool) : List (Nat × Nat) :=
  (s.onCore core ignore).map fun t =>
    (match t.place with
      | .on c _ => if c = core then t.line else t.line2
      | _ => t.line, (((s.grid? t.grid).map Grid.record).getD {}).scratchBytes / 128)

/-- The lowest run of `n` free lines (R177). -/
def freeLines (taken : List (Nat × Nat)) (n : Nat) : Option Nat :=
  ((0 :: taken.map fun t => t.1 + t.2).filter fun a => decide (a + n ≤ 4096) &&
    taken.all fun t => decide (a + n ≤ t.1) || decide (t.1 + t.2 ≤ a)).foldl (fun o a => match o with
      | none => some a
      | some b => some (Nat.min a b)) none

/-- Whether a core meets a team's demand: the pipes of its warps and its first scratchpad line (R177, R180). -/
def State.coreFit (s : State) (core : Nat) (r : LRec) (ignore : Nat → Bool) : Option (List Nat × Nat) :=
  let k := s.core core
  let recs := (s.onCore core ignore).map fun t => ((s.grid? t.grid).map Grid.record).getD {}
  if k.degraded || k.retired || (k.matDegraded && r.entryMat.isSome) then none
  else if 4 < (recs.map LRec.accTiles).sum + r.accTiles then none
  else if r.entryMsq.isSome && decide (8 ≤ recs.countP fun x => x.entryMsq.isSome) then none
  else match assignPipes ((List.range 4).map (s.pipeFree core ignore)) r.needs, freeLines (s.linesTaken core ignore) (r.scratchBytes / 128) with
    | some ps, some l => some (ps, l)
    | _, _ => none

/-- Private backing of a team (R177). -/
def LRec.privateNeed (r : LRec) : Nat := r.privateBytes * 32 * r.warps

/-- Private backing in use in a partition: of every team of it, parked ones too. -/
def State.poolUsed (s : State) (part : Nat) (ignore : Nat → Bool) : Nat :=
  ((s.teams.filter fun t => t.place != .gone && !ignore t.key && s.partOfVf ((s.ctx t.ctx).vf) == part).map fun t =>
    (((s.grid? t.grid).map Grid.record).getD {}).privateNeed).sum

/-- The context for which a cluster's L1s are fused, while a team of it stands there (R182). -/
def State.fusedFor (s : State) (cl : Nat) : Option Nat :=
  (s.cluster cl).fused.filter fun c => s.teams.any fun t => t.ctx == c && t.cores.any fun k => k / 4 == cl

/-- Whether a cluster may take a team: fused L1s are of one context (R182). -/
def State.clusterFit (s : State) (cl ctx : Nat) (r : LRec) (ignore : Nat → Bool) : Bool :=
  let others := s.teams.any fun t => (t.cores.any fun c => c / 4 == cl) && t.ctx != ctx && !ignore t.key
  !(others && (r.fuseL1 || (s.fusedFor cl).isSome))

/-! ## The search (R178, R179) -/

/-- A place found for one team: its index, cores, pipes and first lines. -/
structure Spot where
  idx : Nat
  core : Nat
  upper : Option Nat
  pipes : List Nat
  pipes2 : List Nat
  line : Nat
  line2 : Nat
  deriving DecidableEq, Repr

/-- Whether a core lies in a hall's order: above the cores of earlier teams and below those of later ones (R179). -/
def LRec.inOrder (r : LRec) (placed : List (Nat × Nat)) (i c : Nat) : Bool :=
  !r.hall || placed.all fun x => (decide (i ≤ x.1) || decide (x.2 < c)) && (decide (x.1 ≤ i) || decide (c < x.2))

/-- A spot for one team on one core of a cluster, the first that may take it and fits. -/
def State.singleSpot (s : State) (cl : Nat) (r : LRec) (ignore : Nat → Bool) (may : Nat → Bool) (i : Nat) : Option (List Spot) :=
  ([4 * cl, 4 * cl + 1, 4 * cl + 2, 4 * cl + 3].filter may).findSome? fun c =>
    (s.coreFit c r ignore).map fun f => [{ idx := i, core := c, upper := none, pipes := f.1, pipes2 := [], line := f.2, line2 := 0 }]

/-- A spot for one team on a core pair (R178). -/
def State.dualSpot (s : State) (cl : Nat) (r : LRec) (ignore : Nat → Bool) (may : Nat → Bool) (i : Nat) : Option (List Spot) :=
  ([4 * cl, 4 * cl + 2].filter fun c => may c && may (c + 1)).findSome? fun c =>
    match s.coreFit c r ignore, s.coreFit (c + 1) r ignore with
    | some f, some h => some [{ idx := i, core := c, upper := some (c + 1), pipes := f.1, pipes2 := h.1, line := f.2, line2 := h.2 }]
    | _, _ => none

/-- Spots for two paired teams on a core pair, the first on the lower core (R178). -/
def State.pairSpot (s : State) (cl : Nat) (r : LRec) (ignore : Nat → Bool) (may : Nat → Bool) (i j : Nat) : Option (List Spot) :=
  ([4 * cl, 4 * cl + 2].filter fun c => may c && may (c + 1)).findSome? fun c =>
    match s.coreFit c r ignore, s.coreFit (c + 1) r ignore with
    | some f, some h => some [{ idx := i, core := c, upper := none, pipes := f.1, pipes2 := [], line := f.2, line2 := 0 },
        { idx := j, core := c + 1, upper := none, pipes := h.1, pipes2 := [], line := h.2, line2 := 0 }]
    | _, _ => none

/-- Spots for teams in one cluster, on cores not kept for another; `placed` lists the members of their group that stand there
already, or get a place in this step, with their cores (R178, R179). -/
def State.clusterSpots (s : State) (cl : Nat) (r : LRec) (ignore : Nat → Bool) (keep : List Nat) :
    Nat → List (Nat × Nat) → List Nat → Option (List Spot)
  | 0, _, _ => some []
  | _, _, [] => some []
  | n + 1, placed, i :: is =>
    let may (c : Nat) : Bool := !keep.contains c && !(placed.any fun x => x.2 == c) && r.inOrder placed i c
    let here : Option (List Spot) :=
      if r.dualcore then s.dualSpot cl r ignore may i
      else match r.pairOf i with
        | some [a, b] =>
          (match (placed.find? fun x => x.1 == a || x.1 == b) with
            | some x => s.singleSpot cl r ignore (fun c => may c && c == (if i = a then x.2 - 1 else x.2 + 1)) i
            | none => if i = a ∧ is.contains b then s.pairSpot cl r ignore may a b else s.singleSpot cl r ignore may i)
        | _ => s.singleSpot cl r ignore may i
    match here with
    | none => none
    | some sp =>
      let used := sp.flatMap fun x => (x.idx, x.core) :: (x.upper.toList.map fun u => (x.idx, u))
      (s.clusterSpots cl r ignore keep n (placed ++ used) (is.filter fun j => !(sp.any fun x => x.idx == j))).map (sp ++ ·)

/-- The clusters of a partition in the order of the search (R178). -/
def searchOrder (p : Part) (last : Option Nat) : List Nat :=
  match last with
  | none => p.clusters
  | some l => (p.clusters.filter fun c => decide (l < c)) ++ p.clusters.filter fun c => decide (c ≤ l)

/-- Cores kept for the team of a reservation (R176). -/
def State.keptCores (s : State) (p : Part) (g i : Nat) : List Nat :=
  match p.reserve with
  | some (rg, ri, cs) => if (rg = g ∧ ri = i) || ((s.grid? rg).map Grid.ended).getD true then [] else cs
  | none => []

/-- The spots of teams that are placed in one step: the first cluster in the order of the search that holds them
(R178, R179); `ignore` picks teams thought away. -/
def State.findSpots (s : State) (p : Part) (g : Grid) (is : List Nat) (ignore : Nat → Bool) (keep : List Nat) : Option (List Spot) :=
  let r := g.record
  let grp := r.group ((is.head?).getD 0)
  let stay := (s.teams.filter fun t => t.grid == g.key && grp.contains t.index && !is.contains t.index && !ignore t.key).flatMap fun t =>
    t.cores.map fun c => (t.index, c)
  let again := s.teams.any fun t => t.grid == g.key && is.contains t.index && t.place != .gone
  if !again && decide (p.pool < s.poolUsed p.num ignore + is.length * r.privateNeed) then none
  else ((searchOrder p (s.ctx g.ctx).lastCluster).filter fun c => stay.all fun x => x.2 / 4 == c).findSome? fun c =>
    if s.clusterFit c g.ctx r ignore then s.clusterSpots c r ignore keep 4 stay is else none

/-! ## What waits (R172 to R175) -/

/-- Whether a launch may be dispatched (R169, R172). -/
def State.dispatchable (s : State) (g : Grid) : Bool :=
  !g.ended && g.deps.all (fun d => ((s.grid? d).map Grid.ended).getD true) &&
  !(g.record.hypo && g.nextTeam == 0 && g.requeued == [] && s.grids.any fun h => h.key != g.key && h.ctx == g.ctx && !h.ended && h.record.hypo &&
    (h.nextTeam != 0 || h.requeued != []) && (h.record.hoaBase != g.record.hoaBase || h.record.hoaBytes != g.record.hoaBytes))

/-- The next teams of a grid never placed, or to be placed again after a flush (R174, R195). -/
def Grid.fresh (g : Grid) : List Nat :=
  match g.requeued with
  | [] => if g.nextTeam < g.record.teams then g.record.group g.nextTeam else []
  | i :: is =>
    let m := is.foldl Nat.min i
    (g.record.group m).filter g.requeued.contains

/-- Teams that wait for a placement. -/
structure Cand where
  grid : Grid
  idx : List Nat
  resumed : Bool
  deriving DecidableEq, Repr

/-- The first index of a candidate: with its grid it names the candidate. -/
def Cand.first (c : Cand) : Nat := (c.idx.head?).getD 0

/-- When a team became ready to be placed again. -/
def Team.readyAt (t : Team) : Option Nat := match t.place with
  | .ready n => some n
  | _ => none

/-- The resumed teams of a class, each with those of its hall or pair that are ready with it (R202), in the order in which they became ready (R175, R202). -/
def State.resumedOf (s : State) (part cls : Nat) : List Cand :=
  let ts := s.teams.filter fun t => t.readyAt.isSome && ((s.grid? t.grid).map fun g => g.cls == cls && !g.ended && s.partOfVf g.vf == part).getD false
  let grp (t : Team) : List Team := s.teams.filter fun u => u.grid == t.grid && u.place != .gone &&
    (((s.grid? t.grid).map fun g => g.record.group t.index).getD [t.index]).contains u.index
  let whole := ts.filter fun t => (grp t).all fun u => match u.place with
    | .on _ _ => !u.leaving.saving
    | .ready n => decide (n ≤ t.readyAt.getD 0)
    | _ => false
  let sorted := whole.foldl (fun l t => (l.filter fun u => decide (u.readyAt.getD 0 < t.readyAt.getD 0)) ++ [t] ++
    l.filter fun u => !decide (u.readyAt.getD 0 < t.readyAt.getD 0)) ([] : List Team)
  sorted.filterMap fun t => (s.grid? t.grid).map fun g => { grid := g, idx := (g.record.group t.index).filter fun i => (grp t).any fun u => u.index == i && u.readyAt.isSome, resumed := true }

/-- The instance order of class 0: nominal start, then gate number (R173). -/
def gateBefore (a b : Grid) : Bool :=
  match a.origin, b.origin with
  | .gate n _ x _, .gate m _ y _ => decide (x < y) || (x == y && decide (n < m))
  | _, _ => false

/-- The gate instances with teams to place, in the order in which they are served (R173). -/
def State.gatesNext (s : State) (part : Nat) : List Cand :=
  let gs := s.grids.filter fun g => g.cls == 0 && s.partOfVf g.vf == part && g.fresh != [] && s.dispatchable g
  (gs.foldl (fun l g => (l.filter fun h => !gateBefore g h) ++ [g] ++ l.filter (gateBefore g)) []).map fun g =>
    { grid := g, idx := g.fresh, resumed := false }

/-- The queue a grid came from, as one number in the order of the cycle (R174). -/
def Grid.qid (g : Grid) : Nat := g.vf * 64 + g.owner

/-- The dispatchable launches of a class with teams to place, in the order of their launches. -/
def State.launchesOf (s : State) (part cls : Nat) : List Grid :=
  s.grids.filter fun g => g.cls == cls && s.partOfVf g.vf == part && g.fresh != [] && s.dispatchable g

/-- The cycle of queues of a class (R174). -/
def State.cycleOf (s : State) (part cls : Nat) : List Nat :=
  let qs := ((s.launchesOf part cls).map Grid.qid).eraseDups
  (List.range (192 * 64)).filter qs.contains

/-- The next teams a queue places, and its oldest dispatchable launch's weight (R174). -/
def State.queueNext (s : State) (part cls qid : Nat) : Option (Cand × Nat) :=
  ((s.launchesOf part cls).find? fun g => g.qid == qid).map fun g => ({ grid := g, idx := g.fresh, resumed := false }, g.weight)

/-- The turn of a class: the queue visited and the teams it has placed in this visit. -/
def Part.turn (p : Part) (cls : Nat) : Option (Nat × Nat) := (p.turns.find? fun t => t.1 == cls).map Prod.snd

/-- The queues in the order in which this pass visits them, with the teams each has placed: the visit in progress goes
on while it has teams left (R174). -/
def State.visits (s : State) (p : Part) (cls : Nat) : List (Nat × Nat) :=
  let cyc := s.cycleOf p.num cls
  match p.turn cls with
  | none => cyc.map fun q => (q, 0)
  | some (q, n) =>
    let goes := ((s.queueNext p.num cls q).map fun c => decide (n < c.2)).getD false
    (if goes then [(q, n)] else []) ++ (((cyc.filter fun x => decide (q < x)) ++ cyc.filter fun x => decide (x ≤ q)).map fun x => (x, 0))

/-- What waits in a class in the order in which it is tried, with the turn each would leave (R173 to R175). -/
def State.candidates (s : State) (p : Part) (cls : Nat) : List (Cand × Option (Nat × Nat)) :=
  ((s.resumedOf p.num cls).map fun c => (c, none)) ++
  (if cls = 0 then (s.gatesNext p.num).map fun c => (c, none)
   else (s.visits p cls).filterMap fun v => (s.queueNext p.num cls v.1).map fun c => (c.1, some (v.1, v.2 + c.1.idx.length)))

/-- The first candidate of a class that fits now. -/
def State.pickClass (s : State) (p : Part) (cls : Nat) : Option (Cand × Option (Nat × Nat) × List Spot) :=
  (s.candidates p cls).findSome? fun c =>
    (s.findSpots p c.1.grid c.1.idx (fun _ => false) (s.keptCores p c.1.grid.key c.1.first)).map fun sp => (c.1, c.2, sp)

/-- The head team of the highest waiting class (R176). -/
def State.headCand (s : State) (p : Part) : Option Cand :=
  [0, 1, 2, 3].findSome? fun cls => ((s.candidates p cls).head?).map Prod.fst

/-! ## Placing (R181, R243, R308) -/

/-- A warp as it is placed (R308). -/
def freshWarp (id : Nat) (role : Role) (pipe pipe2 : Nat) (entry : Nat) : Warp :=
  { id := id, role := role, pipe := pipe, pipe2 := pipe2
    lanes := List.replicate (if role = .movement then 1 else 32) { pc := BitVec.ofNat 32 entry }
    masks := 0xFFFFFFFF :: List.replicate 11 0
    mwait := List.replicate 12 0
    tokens := if role = .movement then List.replicate 8 {} else [] }

/-- The warps of a team as it is placed. -/
def freshWarps (r : LRec) (sp : Spot) : List Warp :=
  ((List.range r.warps).map fun n =>
    let role := if n < r.warpsVec then Role.vector else Role.matrix
    freshWarp n role ((sp.pipes[n]?).getD 0) ((sp.pipes2[n]?).getD 0) ((if n < r.warpsVec then r.entryVec else r.entryMat).getD 0)) ++
  match r.entryMsq with
  | some e => [freshWarp 32 .movement 0 0 e]
  | none => []

/-- The lowest private slot free in a context (R243). -/
def State.freeSlot (s : State) (ctx : Nat) : Nat :=
  let held := (s.teams.filter fun t => t.ctx == ctx && t.holdsSlot).map Team.slot
  ((List.range (held.length + 1)).find? fun n => !held.contains n).getD 0

/-- The L1s of a cluster fuse for a context, or stop being fused: both write them back (R182). -/
def State.setFused (s : State) (cl : Nat) (ctx : Option Nat) : State :=
  [4 * cl, 4 * cl + 1, 4 * cl + 2, 4 * cl + 3].foldl State.publishAll (s.updCluster cl fun c => { c with fused := ctx })

/-- The last team of a context leaves a cluster with fused L1s (R182). -/
def State.unfuse (s : State) (cores : List Nat) : State :=
  ((cores.map (· / 4)).eraseDups).foldl (fun s cl => match (s.cluster cl).fused with
    | some c => if s.teams.any fun t => t.ctx == c && t.cores.any fun k => k / 4 == cl then s else s.setFused cl none
    | none => s) s

/-- What a placement changes beside the team: the search's start, the fused L1s, the order of placements. -/
def State.noteSpot (s : State) (part : Nat) (g : Grid) (sp : Spot) : State :=
  let cl := sp.core / 4
  let s1 := (s.updCtx g.ctx fun c => { c with lastCluster := some cl }).updPart part fun p => { p with seq := p.seq + 1 }
  if g.record.fuseL1 && (s1.cluster cl).fused != some g.ctx then s1.setFused cl (some g.ctx) else s1

/-- A team never placed is placed (R177 to R181). -/
def State.placeFresh (s : State) (part : Nat) (g : Grid) (sp : Spot) : State :=
  let r := g.record
  let t : Team :=
    { key := s.nextKey, grid := g.key, ctx := g.ctx, index := sp.idx, place := .on sp.core sp.upper, slot := s.freeSlot g.ctx
      warps := freshWarps r sp, rings := List.replicate r.ringCount (List.replicate (2 ^ r.ringLog) false), barriers := List.replicate 16 {}
      lastCommit := s.tick, execFrom := (s.cluster (sp.core / 4)).kcyc, placeSeq := (s.part part).seq, line := sp.line, line2 := sp.line2 }
  { s.takeKey with teams := s.teams ++ [t] }.noteSpot part g sp

/-- Barriers whose watchdog did not count while pre-emption had the team saved (R200). -/
def Barrier.pausedBy (b : Barrier) (n : Nat) : Barrier := if b.firstWait.isSome then { b with paused := b.paused + n } else b

/-- A warp placed again: its pipes, and held for its wave where the team was parked (R97, R193). -/
def Warp.resumed (w : Warp) (sp : Spot) (parked : Bool) : Warp :=
  if w.role == .movement then w
  else { w with pipe := (sp.pipes[w.id]?).getD 0, pipe2 := (sp.pipes2[w.id]?).getD 0, held := parked && !w.finished }

/-- The matrix and copy operations of a resumed team go on (R198). -/
def State.resumeOps (s : State) (t : Team) (core : Nat) : State :=
  let s1 := s.updCore core fun k => { k with matq := k.matq ++ t.mats }
  let ops := s1.copies.filter fun c => c.team == t.key
  ops.foldl (fun s op =>
    let op1 := { op with core := core, started := false }
    let s2 := { s with copies := s.copies.map fun (c : CopyOp) => if c.key = op.key then op1 else c }
    let s3 := if op.kind = .lxf && op.left_ && decide ((s2.cluster (core / 4)).layq.length < 16) then
        s2.updCluster (core / 4) fun c => { c with layq := c.layq ++ [op.key] } else s2
    match s3.opIss op1 with
    | none => s3
    | some i =>
      let r := (op.jobs.filter fun j => !j.done && j.fault.isNone && (match spaceOf (128 * j.line) with
        | .own _ => false
        | .hall _ _ => false
        | _ => true)).foldl (fun (p : State × Bool) j => if p.2 then p.1.takeLine i op1 j else p) (s3, true)
      if r.2 then r.1 else r.1.endCopy op1 true) s1

/-- A team that was parked or saved is placed again (R193, R198 to R202). Its promoted entries keep their queue (R201). -/
def State.placeAgain (s : State) (part : Nat) (g : Grid) (sp : Spot) : State :=
  match s.teams.find? fun t => t.grid == g.key && t.index == sp.idx && t.place != .gone with
  | none => s
  | some t =>
    let parked := t.savedAt.isNone
    let pause := (t.savedAt.map fun a => s.tick - a).getD 0
    let s1 := s.updTeam t.key fun t => { t with
      place := .on sp.core sp.upper, leaving := .none, cloak := 0, savedAt := none, parkSince := none, mats := []
      line := sp.line, line2 := sp.line2, placeSeq := (s.part part).seq, execFrom := (s.cluster (sp.core / 4)).kcyc
      barriers := t.barriers.map fun b => b.pausedBy pause
      warps := t.warps.map fun w => w.resumed sp parked }
    let s2 := (s1.resumeOps t sp.core).noteSpot part g sp
    let s3 := if parked then giveRelease s2 sp.core t.key ((t.warps.filter fun w => w.role != .movement && !w.finished).map Warp.id) else s2
    ({ s3 with waitcs := s3.waitcs.map fun (w : WaitC) => if w.team = t.key then { w with lastEval := 0 } else w }).orphans t.key

/-- A candidate placed on its spots. -/
def State.placeCand (s : State) (part : Nat) (c : Cand) (turn : Option (Nat × Nat)) (sps : List Spot) : State :=
  let s0 := s.unfuse (sps.map Spot.core)
  let s1 := sps.foldl (fun s sp => if c.resumed then s.placeAgain part c.grid sp else s.placeFresh part c.grid sp) s0
  let s2 := if c.resumed then s1
    else s1.updGrid c.grid.key fun g =>
      if g.requeued = [] then { g with nextTeam := g.nextTeam + c.idx.length } else { g with requeued := g.requeued.filter fun i => !c.idx.contains i }
  s2.updPart part fun p => { p with
    turns := match turn with
      | some t => (c.grid.cls, t) :: p.turns.filter fun x => x.1 != c.grid.cls
      | none => p.turns
    reserve := match p.reserve with
      | some (g, i, cs) => if g = c.grid.key ∧ i = c.first then none else some (g, i, cs)
      | none => none }

/-- The wait of the head team that fits nowhere is timed (R176). -/
def State.watchHead (s : State) (p : Part) : State :=
  match s.headCand p with
  | none => s.updPart p.num fun q => { q with headSince := none }
  | some c =>
    let fits := (s.findSpots p c.grid c.idx (fun _ => false) (s.keptCores p c.grid.key c.first)).isSome
    s.updPart p.num fun q => { q with headSince :=
      if fits then none
      else match q.headSince with
        | some (g, i, t) => if g = c.grid.key ∧ i = c.first then some (g, i, t) else some (c.grid.key, c.first, s.tick)
        | none => some (c.grid.key, c.first, s.tick) }

/-- The visits in progress of classes whose next team does not fit end (R174): no weight reaches 256. -/
def Part.endVisits (p : Part) (tried : Nat → Bool) : Part :=
  { p with turns := p.turns.map fun t => if tried t.1 then (t.1, t.2.1, 256) else t }

/-- TEAM_PLACE (R173 to R181). -/
def execTeamPlace (part : Nat) (s : State) : Host.Outcome State Fault Refusal :=
  let p := s.part part
  if !p.places then .next s
  else
    let s1 := s.watchHead p
    match [0, 1, 2, 3].findSome? fun cls => s.pickClass p cls with
    | none => .next (s1.updPart part fun p => p.endVisits fun _ => true)
    | some (c, turn, sps) => .next (wakeAll ((s1.updPart part fun p => p.endVisits fun k => decide (k < c.grid.cls)).placeCand part c turn sps))

/-- The sets of `n` members of a list, in order. -/
def setsOf : Nat → List Nat → List (List Nat)
  | 0, _ => [[]]
  | _ + 1, [] => []
  | n + 1, x :: xs => (setsOf n xs).map (x :: ·) ++ setsOf (n + 1) xs

/-- The spots of a candidate on a set of cores, once the teams there, but those of its own hall or pair, have left (R176). -/
def State.spotsOn (s : State) (p : Part) (c : Cand) (cs : List Nat) : Option (List Spot) :=
  let own (t : Team) : Bool := t.grid == c.grid.key && (c.grid.record.group c.first).contains t.index
  s.findSpots p c.grid c.idx (fun k => ((s.team? k).map fun t => t.cores.any cs.contains && !own t).getD false)
    (p.coreNums.filter fun k => !cs.contains k)

/-- The first core or core set, in the order of the search, on which a candidate would fit once the teams there have left
(R176, R178). -/
def State.reservable (s : State) (p : Part) (c : Cand) : Option (List Spot) :=
  let n := c.idx.length * if c.grid.record.dualcore then 2 else 1
  ((searchOrder p (s.ctx c.grid.ctx).lastCluster).flatMap fun cl => setsOf n [4 * cl, 4 * cl + 1, 4 * cl + 2, 4 * cl + 3]).findSome? (s.spotsOn p c)

/-- PLACEMENT_RESERVATION (R176). -/
def execPlacementReservation (part : Nat) (s : State) : Host.Outcome State Fault Refusal :=
  let p := s.part part
  match s.headCand p, p.headSince with
  | some c, some (g, i, t) =>
    let free := match p.reserve with
      | some (rg, _, _) => ((s.grid? rg).map Grid.ended).getD true
      | none => true
    if !free || !(g == c.grid.key && i == c.first) || decide (s.tick < t + 100000) ||
        (s.findSpots p c.grid c.idx (fun _ => false) []).isSome then .next s
    else match s.reservable p c with
      | none => .next s
      | some sps => .next (s.updPart part fun p => { p with reserve := some (g, i, sps.flatMap fun sp => sp.core :: sp.upper.toList) })
  | _, _ => .next s

/-! ## TEAM_LEAVE (R335) -/

/-- Whether everything R335 asks of a team holds. -/
def State.mayLeave (s : State) (t : Team) : Bool :=
  t.core?.isSome && t.warps.all Warp.finished && !(s.copies.any fun c => c.team == t.key) &&
  !(s.cores.any fun k => k.matq.any fun o => o.team == t.key) && !(s.resolving.any fun r => r.team == t.key) &&
  !(s.cores.any fun k => k.hold.any fun h => h.team == t.key) && decide (t.lastCommit + 200 ≤ s.tick)

/-- TEAM_LEAVE. -/
def execTeamLeave (team : Nat) (s : State) : Host.Outcome State Fault Refusal :=
  match s.team? team with
  | none => .next s
  | some t =>
    if !s.mayLeave t then .next s
    else
      let s1 := s.endTeam team
      .next (wakeAll (({ s1 with teams := s1.teams.filter fun u => u.key != team }.updGrid t.grid fun g =>
        { g with remaining := g.remaining - 1 }).unfuse t.cores))

end Sys2Proof.Machine
end

