-- ==== Sys2Proof/Machine/Preempt.lean ====
section
/-! DEFINITION. Parking and waking (R191 to R193), requests for room with drain, save and flush (R194 to R196),
saves (R197 to R202): TEAM_PARK, TEAM_WAKE, PREEMPT_REQUEST, DRAIN_TIMEOUT, SAVE_COMPLETE. -/
namespace Sys2Proof.Machine

/-! ## The cloakroom (R192) -/

/-- The partition of a team. -/
def State.partOf (s : State) (t : Team) : Nat := s.partOfVf (s.ctx t.ctx).vf

/-- Free bytes of a partition's cloakroom. -/
def State.cloakFree (s : State) (part : Nat) : Nat :=
  (s.part part).cloakSize - ((s.teams.filter fun t => t.place != .gone && s.partOf t == part).map Team.cloak).sum

/-- S of a team (R196). -/
def State.saveNeed (s : State) (t : Team) : Nat := saveBytes (((s.grid? t.grid).map Grid.record).getD {}) t

/-- The teams of a hall or pair that a team belongs to, itself included (R202). -/
def State.groupOf (s : State) (t : Team) : List Team :=
  let g := (((s.grid? t.grid).map Grid.record).getD {}).group t.index
  s.teams.filter fun u => u.grid == t.grid && u.place != .gone && g.contains u.index

/-- A save begins: its bytes are taken and the team issues no more (R192, R197). -/
def State.startSave (s : State) (park : Bool) (t : Team) : State :=
  s.updTeam t.key fun u => { u with leaving := .save park, cloak := s.saveNeed t }

/-! ## TEAM_PARK, TEAM_WAKE (R191 to R193) -/

/-- Whether a team has been parkable for PARK_TICKS (R191). -/
def State.parkable (s : State) (t : Team) : Bool :=
  let n := (((s.grid? t.grid).map Grid.record).getD {}).parkTicks
  t.core?.isSome && !t.leaving.saving && !t.noPark && n != 0 && s.allWait t && (t.parkSince.map fun a => decide (a + n ≤ s.tick)).getD false

/-- TEAM_PARK: a parkable team parks where the cloakroom has room for it (R192). -/
def execTeamPark (team : Nat) (s : State) : Host.Outcome State Fault Refusal :=
  match s.team? team with
  | none => .next s
  | some t =>
    if !s.parkable t then .next s
    else if s.saveNeed t ≤ s.cloakFree (s.partOf t) then .next (s.startSave true t)
    else .next (s.updTeam t.key fun x => { x with noPark := true })

/-- A team becomes ready for placement, after every one that already is (R175). -/
def State.makeReady (s : State) (t : Team) : State :=
  let p := s.partOf t
  (s.updTeam t.key fun u => { u with place := .ready (s.part p).seq }).updPart p fun q => { q with seq := q.seq + 1 }

/-- The parked teams of a hall or pair become ready with the first of them: it resumes as a whole (R202). -/
def State.readyGroup (s : State) (t : Team) : State :=
  ((s.groupOf t).filter fun u => u.place == .parked).foldl State.makeReady s

/-- A parked team whose wait has ended becomes ready. -/
def State.wakeParked (s : State) (team : Nat) : State :=
  match s.team? team with
  | none => s
  | some t => if t.place == .parked && s.waitEnded t then s.readyGroup t else s

/-- TEAM_WAKE. -/
def execTeamWake (team : Nat) (s : State) : Host.Outcome State Fault Refusal := .next (s.wakeParked team)

/-! ## SAVE_COMPLETE (R197, R198) -/

/-- Whether a save has nothing left to wait for (R197); an LXF stops after a whole chunk of its output (R198). -/
def State.saveReady (s : State) (t : Team) : Bool :=
  t.leaving.saving && t.core?.isSome && decide (t.lastCommit + 200 ≤ s.tick) && !(s.pend.any (s.fillsOf t.key)) &&
  !(s.cores.any fun k => k.hold.any fun h => h.team == t.key) && !(s.copies.any fun c => c.team == t.key && c.midChunk)

/-- A matrix operation stops before its next K-block (R198). -/
def MatOp.stop (o : MatOp) : MatOp := { o with started := false, passed := false, pairWait := none, fails := 0 }

/-- The copies of a team stop at the next line; lines not written are released from ownership (R198). -/
def State.stopCopies (s : State) (key : Nat) : State :=
  let keys := (s.copies.filter fun c => c.team == key).map CopyOp.key
  { s with
    copies := s.copies.map fun (c : CopyOp) => if c.team = key then
      { c with started := false, jobs := c.jobs.map fun j => if j.done then j else { j with phys := none } } else c
    owned := s.owned.filter fun o => !keys.contains o.key
    clusters := s.clusters.map fun (c : Cluster) => { c with
      layq := c.layq.filter fun k => !keys.contains k
      releases := c.releases.filter fun r => r.team != key } }

/-- A lane as a save records it: released lanes have gone on, lanes that try again do so after resume. -/
def Lane.saved (l : Lane) : Lane := if l.wait = .wave then l.past else if l.wait = .retry then { l with wait := .none } else l

/-- The team leaves its cores; its state stays with it (R197, R198). -/
def State.finishSave (s : State) (t : Team) : State :=
  let mats := (s.cores.flatMap fun k => k.matq.filter fun o => o.team == t.key).map MatOp.stop
  let park := match t.leaving with
    | .save p => p
    | _ => false
  let s1 := s.stopCopies t.key
  let s2 := { s1 with cores := s1.cores.map fun (k : Core) => { k with
    matq := k.matq.filter fun o => o.team != t.key
    undo := k.undo.filter fun u => u.team != t.key } }
  let s3 := s2.updTeam t.key fun u => { u with
    place := .parked, leaving := .none, mats := mats, execBase := s.executed t, parkSince := none
    savedAt := if park then none else some s.tick
    warps := u.warps.map fun w => { w with held := false, lanes := w.lanes.map Lane.saved } }
  let s4 := if park then s3 else s3.readyGroup t
  { s4 with teams := s4.teams.map fun u => if s4.partOf u = s.partOf t then { u with noPark := false } else u }.unfuse t.cores

/-- SAVE_COMPLETE. -/
def execSaveComplete (team : Nat) (s : State) : Host.Outcome State Fault Refusal :=
  match s.team? team with
  | none => .next s
  | some t => if s.saveReady t then .next (wakeAll (s.finishSave t)) else .next s

/-! ## Requests for room (R194, R195) -/

/-- How a victim leaves. -/
inductive Way where
  | drain | save | flush
  deriving DecidableEq, Repr

/-- The allowed ways for a hall, pair or team, each with its latency and cost, in the order that breaks ties (R195). -/
def State.ways (s : State) (g : List Team) : List (Way × Nat × Nat) :=
  let r := ((g.head?).bind fun t => (s.grid? t.grid).map Grid.record).getD {}
  let mhz (t : Team) : Nat := (s.cluster (((t.core?).getD 0) / 4)).mhz
  let e (t : Team) : Nat := s.executed t / 1000
  let up (n d : Nat) : Nat := (n + d - 1) / Nat.max d 1
  let top (l : List Nat) : Nat := l.foldl Nat.max 0
  let saveL (t : Team) : Nat := Nat.max 200 (up (s.saveNeed t) 128)
  (if r.estCycles = 0 then [] else [(Way.drain, top (g.map fun t => up ((r.estCycles - e t) * 1000) (mhz t)), 0)]) ++
  (if (g.map s.saveNeed).sum ≤ s.cloakFree (((g.head?).map s.partOf).getD 0) then [(Way.save, top (g.map saveL), (g.map fun t => 2 * saveL t).sum)] else []) ++
  (if r.restartable then [(Way.flush, 1000, (g.map fun t => up (e t * 1000) (mhz t) + 1000).sum)] else [])

/-- The first of the ways with the least figure. -/
def leastBy (f : Way × Nat × Nat → Nat) (ws : List (Way × Nat × Nat)) : Option (Way × Nat × Nat) :=
  ws.foldl (fun o w => match o with
    | none => some w
    | some v => if f w < f v then some w else some v) none

/-- The way chosen under a bound, given as a number of quarter ticks; 0 means none (R195). -/
def chooseWay (ws : List (Way × Nat × Nat)) (bound4 : Nat) : Option (Way × Nat × Nat) :=
  match leastBy (fun w => w.2.2) (ws.filter fun w => bound4 == 0 || decide (4 * w.2.1 ≤ bound4)) with
  | some w => some w
  | none => leastBy (fun w => w.2.1) ws

/-- Victims begin to leave (R195). -/
def State.evict (s : State) (g : List Team) (w : Option (Way × Nat × Nat)) : State :=
  match w with
  | none => g.foldl (fun s t => s.updTeam t.key fun u => { u with leaving := .drain none }) s
  | some (.drain, l, _) => g.foldl (fun s t => s.updTeam t.key fun u => { u with leaving := .drain (some (s.tick + 2 * l)) }) s
  | some (.save, _, _) => g.foldl (fun s t => s.startSave false t) s
  | some (.flush, _, _) => (g.foldl State.flushTeam s).unfuse (g.flatMap Team.cores)

/-- Placed teams of classes below `cls`, not leaving yet: the lowest class first, in it the youngest placement (R194). -/
def State.victims (s : State) (part cls : Nat) : List Team :=
  let rank (t : Team) : Nat := ((s.grid? t.grid).map Grid.cls).getD 0
  let before (a b : Team) : Bool := decide (rank b < rank a) || (rank a == rank b && decide (b.placeSeq < a.placeSeq))
  (s.teams.filter fun t => t.core?.isSome && t.leaving == .none && s.partOf t == part && decide (cls < rank t)).foldl (fun l t =>
    (l.filter fun u => before u t) ++ [t] ++ l.filter fun u => !before u t) []

/-- The victims, in order, until what they free fits the requester; none where it never does (R194). -/
def State.pickVictims (s : State) (p : Part) (c : Cand) : List Team → List Nat → List (List Team) → Option (List (List Team))
  | ts, gone, acc =>
    if (s.findSpots p c.grid c.idx gone.contains []).isSome then some acc
    else match ts with
      | [] => none
      | t :: rest =>
        if gone.contains t.key then s.pickVictims p c rest gone acc
        else
          let g := (s.groupOf t).filter fun u => u.core?.isSome
          s.pickVictims p c rest (gone ++ g.map Team.key) (acc ++ [g])

/-- The requester of a partition and its victims: the first that waits and fits nowhere, for which room can be made. -/
def State.requester (s : State) (p : Part) : Option (Cand × List (List Team)) :=
  let leaving := (s.teams.filter fun t => t.leaving != .none).map Team.key
  [0, 1, 2, 3].findSome? fun cls => (s.candidates p cls).findSome? fun c =>
    if (s.findSpots p c.1.grid c.1.idx (fun _ => false) []).isSome then none
    else (s.pickVictims p c.1 (s.victims p.num cls) leaving []).map fun v => (c.1, v)

/-- PREEMPT_REQUEST (R60, R194, R195). -/
def execPreemptRequest (part : Nat) (pl : Plug) (s : State) : Host.Outcome State Fault Refusal :=
  match s.requester (s.part part) with
  | none => .next s
  | some (_, []) => .next s
  | some (c, gs) =>
    let h := s.hook c.grid.vf [3, c.grid.vf, c.grid.bound] pl (fun d => decide (-2 ≤ d) && decide (d ≤ 2)) 0
    let bound4 := c.grid.bound * 2 ^ ((h.2.getD 0) + 2).toNat
    .next (wakeAll (gs.foldl (fun s g => s.evict g (chooseWay (s.ways g) bound4)) h.1))

/-- A drain that has taken twice its L becomes a save, or a flush where no save is allowed (R195). -/
def State.drainOut (s : State) (team : Nat) : State :=
  match s.team? team with
  | none => s
  | some t => match t.leaving with
    | .drain (some u) =>
      if s.tick < u || t.core?.isNone then s
      else
        let g := (s.groupOf t).filter fun u => u.core?.isSome && !u.leaving.saving
        match (s.ways g).find? fun w => w.1 != .drain with
        | some w => wakeAll (s.evict g (some w))
        | none => s
    | _ => s

/-- DRAIN_TIMEOUT (R195). -/
def execDrainTimeout (team : Nat) (s : State) : Host.Outcome State Fault Refusal := .next (s.drainOut team)

end Sys2Proof.Machine
end

