-- ==== Sys2Proof/Machine/Clocks.lean ====
section
/-! DEFINITION. Clocks and ratios of the clusters (R82 to R86), and the end of an exit from an idle state (R100). -/
namespace Sys2Proof.Machine

/-! ## Clocks and ratios (R84, R85) -/

/-- The ratio of a frequency: LOW, NOM, BOOST (R84). -/
def ratioOf (mhz : Nat) : Nat := if mhz ≤ 1100 then 0 else if mhz ≤ 1700 then 1 else 2

/-- The lowest frequency of a ratio (R84). -/
def lowestOf (ratio : Nat) : Nat := if ratio = 0 then 600 else if ratio = 1 then 1300 else 1900

/-- A cluster asked for a frequency: at once within a ratio, else with the switches it takes; one asked for during a
switch waits for its end (R83, R85); one whose partition is in C2 stays at 0.6 GHz on LOW (R99; log 46). -/
def Cluster.toClock (c : Cluster) (mhz tick : Nat) : Cluster :=
  let mhz := if c.low then 600 else mhz
  if c.switchEnd.isSome then { c with targetMhz := mhz }
  else if ratioOf mhz = c.ratio then { c with mhz := mhz, targetMhz := mhz }
  else if c.ratio < ratioOf mhz then
    { c with mhz := lowestOf c.ratio, targetMhz := mhz, switchEnd := some (tick + 1000), switchTo := [c.ratio + 1] }
  else { c with mhz := mhz, targetMhz := mhz, switchEnd := some (tick + 1000), switchTo := [c.ratio - 1] }

/-- The end of a ratio switch: the clock moves on, or the next switch starts (R85). -/
def Cluster.switched (c : Cluster) (tick : Nat) : Cluster :=
  { c with ratio := (c.switchTo.head?).getD c.ratio, switchEnd := none, switchTo := [] }.toClock c.targetMhz tick

/-- The frequencies of the throttle ladder (R82). -/
def ladder (throt : Nat) : Nat := ([1700, 1500, 1300, 1100, 850, 600][throt]?).getD 600

/-- The frequency of BOOSTF (R104). -/
def Cluster.boostMhz (c : Cluster) : Nat := if c.boostF = 0 then 1900 else if c.boostF = 1 then 2000 else 2100

/-- The frequency of a cluster in its grant's state, with the frequency that its throttle allows (R86, R91). -/
def Cluster.wanted (c : Cluster) (nominal : Nat) : Nat :=
  match c.grant with
  | .nom => nominal
  | .rise => c.boostMhz
  | .boost => c.boostMhz
  | .fall => 1900
  | .descend => 1700

/-- The clusters of a partition run as their grants and its throttle have it, in C2 on LOW (R86, R91, R99). -/
def State.clockPart (s : State) (part : Nat) : State :=
  let p := s.part part
  p.clusters.foldl (fun s c => s.updCluster c fun k =>
    { k with low := p.idle == 2 }.toClock ({ k with low := p.idle == 2 }.wanted (ladder p.throt)) s.tick) s

/-! ## Cycles and issue slots (R82, R94, R204, R451) -/

/-- A cluster's clock runs through `cap` thousandths of a full-rate cycle. Stretched cycles take double time; what is left after
the last of them runs at full rate, and counts toward the halved span (R94). -/
def Cluster.run (c : Cluster) (cap : Nat) : Cluster :=
  if cap < 2 * c.stretch then { c with kcyc := c.kcyc + cap / 2, stretch := c.stretch - cap / 2 }
  else { c with kcyc := c.kcyc + (cap - c.stretch), stretch := 0, halved := c.halved - (cap - 2 * c.stretch) }

/-- What is left of the current tick passes for a cluster. -/
def Cluster.tick (c : Cluster) : Cluster := { c.run (c.mhz - c.used) with used := 0 }

/-- Part of the current tick passes for a cluster. -/
def Cluster.part (c : Cluster) (n : Nat) : Cluster :=
  let cap := Nat.min (2 * n) ((c.mhz - c.used - 1) / 2 * 2)
  { c.run cap with used := c.used + cap }

/-- The number of a cluster's cycle now. -/
def Cluster.cycle (c : Cluster) : Nat := c.kcyc / 1000

/-- Whether a pipe may not issue in a cycle: an odd one of the 64 after an alarm's stretched cycles, or of the floor's
alternation, which an alarm's sequence replaces and after which it starts again (R82, R94). -/
def Cluster.barred (c : Cluster) (n : Nat) : Bool :=
  let floor (from_ : Nat) : Bool := match c.floorFrom with
    | some f => decide (Nat.max f from_ ≤ n) && (n - Nat.max f from_) % 2 == 1
    | none => false
  match c.alarm with
  | none => floor 0
  | some a => if n ≤ a then floor 0 else if n ≤ a + 6 then false else if n ≤ a + 70 then (n - (a + 7)) % 2 == 1 else floor (a + 71)

/-- The earliest cycle from `n` on in which a pipe may issue. -/
def Cluster.openFrom (c : Cluster) (n : Nat) : Nat := if c.barred n then n + 1 else n

/-- The exit of a partition ends: it is active, its clusters run as their grants and its throttle have it, and from C4 the others are in
C3 (R86, R99, R100). -/
def State.endExit (s : State) (part : Nat) : State :=
  let s1 : State := if s.c4 then { s with c4 := false, parts := s.parts.map fun (p : Part) => if p.idle = 4 then { p with idle := 3 } else p } else s
  ({ s1 with parts := updKey Part.num part (fun p => { p with idle := 0, wakeAt := none }) s1.parts }).clockPart part

end Sys2Proof.Machine
end

