-- ==== Sys2Proof/Machine/Due.lean ====
section
/-! DEFINITION. What falls due as ticks pass: WAITC (R421), barrier and pair watchdogs (R418, R433), publication (R256), parked
teams (R193), drains (R195), PAGE_FAULT events (R250) and counted completions (R160). -/
namespace Sys2Proof.Machine

/-! ## WAITC (R421) -/

/-- One WAITC at a tick: its timeout, or the evaluation that is due 1,000 ticks after the last; during a save too (R197, R421). -/
def State.waitcAt (s : State) (w : WaitC) : State :=
  if (w.deadline.map fun d => decide (d ≤ s.tick)).getD false then s.timeoutWait w
  else if decide (w.lastEval + 1000 ≤ s.tick) || s.wouldFill w then s.evalAsk w
  else s

/-! ## Watchdogs (R418, R433) -/

/-- The barriers on which a lane waits, by linear team index and then by barrier number (R418). -/
def State.dogs (s : State) : List (Nat × Nat × Nat) :=
  (s.teams.flatMap fun t => if t.place == .gone then [] else
    (t.barriers.zipIdx.filter fun b => b.1.firstWait.isSome).map fun b => (16 * t.index + b.2, t.key, b.2)).foldl (fun l d => putBy Prod.fst d l) []

/-! ## All of it -/

/-- Whether a team drains (R195). -/
def Leaving.drains : Leaving → Bool
  | .drain _ => true
  | _ => false

/-- PAGE_FAULT events that were dropped are posted again (R250). -/
def State.repostDue (s : State) (vf : Nat) : State :=
  ((s.vf vf).faults.filter fun e => (e.repost.map fun t => decide (t ≤ s.tick)).getD false).foldl (fun s e => s.postFault vf e) s

/-- An MSI whose IRQ_TIME has passed is sent 1,000 ticks later at the latest (R160). -/
def State.irqDue (s : State) (x : Queue) : State :=
  if x.irqEn && x.irqPend != 0 && decide (x.irqSince + 1000 * (x.irqTime : Int) + 1000 ≤ (s.tick : Int)) then s.sendMsi x.vf x.num else s

/-- What is due at a tick. -/
def State.dueTick (s : State) : State :=
  let s1 := s.waitcs.foldl State.waitcAt s
  let s2 := s1.dogs.foldl (fun s d => s.barDog d.2.1 d.2.2) s1
  let s3 := (s2.cores.map Core.num).foldl (fun s c => (s.publishDue c).pairDog c) s2
  let s4 := (s3.teams.filter fun t => t.place == .parked && (t.parkSince.map fun a => decide (a + 1000 ≤ s.tick)).getD false).foldl
    (fun s t => s.wakeParked t.key) s3
  let s5 := (s4.teams.filter fun t => t.leaving.drains).foldl (fun s t => s.drainOut t.key) s4
  let s6 := (s5.vfs.map Vf.num).foldl State.repostDue s5
  s6.queues.foldl State.irqDue s6

end Sys2Proof.Machine
end

