-- ==== Sys2Proof/Machine/Time.lean ====
section
/-! DEFINITION. Time (R41, R94, R95, R451) and the run of the selected warp: fetch, decode, execute (R315,
R318). -/
namespace Sys2Proof.Machine

/-- Whether the clock of a cluster runs: it belongs to a partition that is in no idle state (R77, R99). -/
def State.clocked (s : State) (cluster : Nat) : Bool :=
  s.parts.any fun p => p.galleries.getLsbD (cluster / 2) && p.idle == 0

/-- The waves of every cluster that are due (R97). -/
def State.waves (s : State) : State :=
  (s.clusters.map Cluster.num).foldl (fun s c => wavesOf s c (((s.cluster c).releases.map (·.warps.length)).sum)) s

/-- A partition one exit latency before its next gate start begins its exit (R100). -/
def Part.gateExit (p : Part) (tick : Nat) : Part :=
  match p.slalom.nextStart with
  | some n => if n ≤ tick + 1000 * exitMicros p.idle.toNat then p.beginExit tick else p
  | none => p

/-- Exits from idle states begin before gates and end once their latency has passed (R100). -/
def State.idleTick (s : State) : State :=
  let s1 : State := { s with parts := s.parts.map fun (p : Part) => p.gateExit s.tick }
  (s1.parts.filter fun p => (p.wakeAt.map fun t => decide (t ≤ s.tick)).getD false).foldl (fun s p => s.endExit p.num) s1

/-- The period of the daily clear of the filters (R121). -/
def dayTicks : Nat := 86400000000000

/-- One tick passes: waves leave (R97), teams whose lanes all wait and idle clusters are timed (R89, R191), promoted
entries rejoin their queues (R188), orphans take HORPH at the latest (R277), effects leave
their cores and undo entries retire at the tick they are due (R112, R213), WAITs that are due are evaluated (R149), deferred
gate instances start (R155), exits from idle states go on (R100), conditions and watchdogs run (R418, R421, R433), and filters are
cleared each day (R121). Every core and cluster has the one count: a difference of 0 within the 2 ticks that
R43 allows (log 61). -/
def State.tickOne (s : State) : State :=
  let s0 := s.waves
  let s1 : State := { s0 with
    tick := s0.tick + 1
    clusters := s0.clusters.map fun c => (if s0.clocked c.num then c.tick else c).watchIdle (s0.clusterBusy c.num) s0.tick
    teams := s0.teams.map fun t => let u := s0.watchPark t; { u with warps := u.warps.map Warp.rejoin } }
  let s2 := s1.coresDue.waitTick.deferTick.idleTick.orphansDue.dueTick
  if s2.tick % dayTicks = 0 then s2.clearFilters else s2

/-- Ticks pass. -/
def State.pass (s : State) : Nat → State
  | 0 => s
  | n + 1 => s.tickOne.pass n

/-- The bytes of a word (R3). -/
def wordBytes (w : Nat) : List Byte := leBytes 4 w

/-- What the selected warp's next instruction is. -/
inductive Fetched where
  /-- its line lies on a peer, which has not sent it yet (R31) -/
  | away (i : Iss) (lines : List Nat)
  /-- no warp is selected or it cannot issue -/
  | idle
  /-- the fetch raises PAGE (R332) -/
  | page (i : Iss)
  /-- no instruction (R318), with what its translation used -/
  | bad (i : Iss) (w : Nat) (u : Use1)
  | ok (i : Iss) (ins : Instr) (u : Use1)

/-- Fetch and decode. -/
def State.fetched (s : State) : Fetched :=
  match s.issue with
  | none => .idle
  | some i =>
    if undoFull s i then .idle
    else if s.fetchAway i i.pc ≠ [] then .away i (s.fetchAway i i.pc)
    else match s.fetchAt i i.pc with
      | none => .page i
      | some (w, u) =>
        match decodeBytes (wordBytes w) with
        | .ok (ins, _) => .ok i ins u
        | .error _ => .bad i w u

/-! ## Issue slots (R204) -/

/-- The pipes an issue uses: its core's, and under DUALCORE that of the upper core (R180). -/
def Iss.pipes (i : Iss) : List (Nat × Nat) := i.team.cores.zip [i.warp.pipe, i.warp.pipe2]

/-- The cycle of the slot in which the issue's next instruction has issued: the earliest that each of its pipes has free, not before
the warp's fourth check before it; none while that cycle has not come (R94, R204). -/
def State.slotFor (s : State) (i : Iss) : Option Nat :=
  let c := s.cluster (i.core / 4)
  let first := i.pipes.foldl (fun n p => match (s.core p.1).slots.find? fun x => x.1 == p.2 with
    | some x => Nat.max n (x.2 + 1)
    | none => n) ((i.warp.checks[3]?).getD 0)
  if c.openFrom first ≤ c.cycle then some (c.openFrom first) else none

/-- The slot is used, and the check takes place now (R204). -/
def State.useSlot (s : State) (i : Iss) (n : Nat) : State :=
  (i.pipes.foldl (fun s p => s.updCore p.1 fun k => { k with slots := (p.2, n) :: k.slots.filter fun x => x.1 != p.2 }) s).updTeam i.team.key
    fun t => t.updWarp i.warp.id fun w => { w with checks := ((s.cluster (i.core / 4)).cycle :: w.checks).take 4 }

/-- The time of an executed instruction passes (log 6), and the pass of the checker is used. -/
def State.afterRun (s : State) : State := { s with go := false }.pass s.pace

end Sys2Proof.Machine
end

