-- ==== Sys2Proof/Machine/Check.lean ====
section
/-! DEFINITION. The checkers and strikes: CHECK, CORE_SELF_TEST, STRIKE_REPORT, DUALCORE_MISMATCH
(R107 to R114, R126, R127, R206 to R213, R237, R238). -/
namespace Sys2Proof.Machine

/-! ## Degraded cores and hard mismatches (R109) -/

/-- The partition that owns a core, 255 for none (R67). -/
def State.partAt (s : State) (core : Nat) : Nat := ((s.parts.find? fun p => p.galleries.getLsbD (core / 8)).map Part.num).getD 255

/-- CLUSTER and core-in-cluster as an event carries them (R490). -/
def coreBytes (core : Nat) : List Byte := leList 1 (core / 4) ++ leList 1 (core % 4)

/-- Every other team on a core is pre-empted by save, halls and pairs as a whole, where the cloakroom has room (R109, R192, R202). -/
def State.saveOthers (s : State) (core key : Nat) : State :=
  (s.teams.filter fun t => t.cores.contains core && t.key != key).foldl (fun s t =>
    let g := (s.groupOf t).filter fun u => u.core?.isSome && !u.leaving.saving && u.key != key
    if (s.teams.any fun u => u.key == t.key && u.leaving.saving) || decide (s.cloakFree (s.partOf t) < (g.map s.saveNeed).sum) then s
    else g.foldl (fun s u => s.startSave false u) s) s

/-- A core is marked degraded (R109). -/
def State.degrade (s : State) (core key : Nat) : State := (s.updCore core fun k => { k with degraded := true }).saveOthers core key

/-- CHKH is taken at the issue's instruction and logged, and the cores are degraded (R109). -/
def State.hardMismatch (s : State) (i : Iss) (cores : List Nat) (lane : Nat) (w0 w1 : Word) : State :=
  let op := w0.toNat / 2 ^ 24
  let s1 := takeTrap s i { cause := causeCHKH, info := BitVec.ofNat 32 (op * 2 ^ 24 + lane), lane := lane } w0 w1 i.entry
  let s2 := s1.count (i.team.vf s) fun c => { c with chkh := satInc c.chkh }
  let s3 := cores.foldl (fun s c => s.logEvent 0x0102 2 (sourceOfCore c) (s.partAt c)
    (coreBytes c ++ leList 1 i.warp.id ++ leList 1 lane ++ leList 4 i.pc.toNat ++ leList 1 op)) s2
  cores.foldl (fun s c => s.degrade c i.team.key) s3

/-! ## CHECK (R107, R108, R206 to R208, R238) -/

/-- Whether an instruction writes no v register. -/
def writesNoV : Instr → Bool
  | .nop | .pblk _ | .imx _ | .bra _ | .jmp _ | .jmpi _ | .setprio _ | .exit | .winb _ | .yield | .brk _ | .trap _ | .rft
  | .isetp _ | .fsetp _ | .dsetp _ | .st _ | .sts _ | .stl _ | .prf _ | .spres _ | .fence _ | .cctlClean _ | .cctlInval _
  | .cctlCleanAll _ | .red _ | .hset _ | .bar _ | .bara _ | .barw _ | .stgwImm _ | .stgwReg _ | .stgaImm _ | .stgaReg _
  | .ftest _ | .fcan _ | .mjoin _ | .mleave _ | .mwait _ | .mst _ | .mact _ | .pset _ | .pld _ | .tst _ | .tzero _ | .tfree _
  | .cpy _ | .cpyt _ | .cpym _ | .lxf _ | .tkw _ | .tkwBar _ | .tkwBarw _ | .tkt _ | .tktBar _ | .spclr _ | .spset _ | .swr _ => true
  | _ => false

/-- The instruction an issue checks: for IMX the word it extends (R316). -/
def State.checkedAs (s : State) (i : Iss) (ins : Instr) : Instr × Word :=
  match ins with
  | .imx _ => match s.fetchAt i (i.pc + 1) with
    | some (w, _) => ((match decode w with
      | .ok x => x
      | .error _ => ins), BitVec.ofNat 32 w)
    | none => (ins, 0)
  | _ => (ins, 0)

/-- An armed fault of KIND 1 of a core acts on a lane-instruction that writes a v register: the lane it corrupts (R238, R470). -/
def State.inject (s : State) (i : Iss) (ins : Instr) (core : Nat) : State × Option Nat :=
  let v := (s.core core).inj
  let lane := v.toNat / 4 % 32
  if v.toNat % 4 == 1 && !i.movement && !writesNoV (s.checkedAs i ins).1 && i.active.contains lane then
    ((s.updCore core fun k => { k with inj := k.inj &&& ~~~3 }).logEvent 0x0107 0 (sourceOfCore core) (s.partAt core)
      (coreBytes core ++ leList 2 0 ++ leList 4 v.toNat ++ leList 1 lane ++ leList 1 i.warp.id), some lane)
  else (s, none)

/-- The warp of an issue changed. -/
def State.updIss (s : State) (i : Iss) (f : Warp → Warp) : State := s.updTeam i.team.key fun t => t.updWarp i.warp.id f

/-- Whether a core is the upper one of an issue's DUALCORE pair (R126). -/
def Iss.upperCore (i : Iss) (core : Nat) : Bool := (i.team.cores.drop 1).contains core

/-- Walk mode of a warp on a core (R108, R126). -/
def Warp.walkOn (w : Warp) (upper : Bool) : Nat := if upper then w.walk2 else w.walk

/-- Mismatches in a row of the issue's instruction on a core (R108). -/
def Iss.streak (i : Iss) (core : Nat) : Nat :=
  ((i.warp.streak.find? fun k => k.1 == core && k.2.1 == i.pc && k.2.2.1 == i.entry).map fun k => k.2.2.2).getD 0

/-- The streak of the issue's instruction on a core set. -/
def Iss.setStreak (i : Iss) (core n : Nat) (w : Warp) : Warp :=
  let rest := w.streak.filter fun k => !(k.1 == core && k.2.1 == i.pc && k.2.2.1 == i.entry)
  { w with streak := if n = 0 then rest else (core, i.pc, i.entry, n) :: rest }

/-- A mismatch found by a core's checker bank (R107 to R109): counted, and hard in walk mode; `inval` tells whether the line
involved was invalidated since the instruction's previous mismatch. -/
def State.mismatch (s : State) (i : Iss) (ins : Instr) (core lane : Nat) (inval : Bool) : State :=
  let s1 := (s.updCore core fun k => { k with mismatches := k.mismatches + 1 }).count (i.team.vf s) fun c => { c with mismatch := satInc c.mismatch }
  let n := i.streak core
  let up := i.upperCore core
  if i.warp.walkOn up ≠ 0 then s1.hardMismatch i [core] lane (wordOf ins) (s.checkedAs i ins).2
  else if (1 ≤ n && !inval) || decide (8 ≤ n + 1) then
    (s1.updIss i fun w =>
      let w1 := i.setStreak core 0 w
      if up then { w1 with walk2 := 64 } else { w1 with walk := 64 }).count (i.team.vf s) fun c => { c with walk := satInc c.walk }
  else s1.updIss i (i.setStreak core (n + 1))

/-- The checks of an issue by its cores, each with its own checker bank (R126): the state and the mismatches found, those of
armed faults first, then the lane that `differs` on the core it names, the upper of a pair or the lower. -/
def State.checkAll (s : State) (i : Iss) (ins : Instr) (differs : Option (Nat × Bool)) : State × List (Nat × Nat) :=
  let r := i.team.cores.foldl (fun (p : State × List (Nat × Nat)) c =>
    let q := p.1.inject i ins c
    (q.1, p.2 ++ q.2.toList.map fun l => (c, l))) (s, [])
  let own := match differs with
    | some (l, upper) => (i.team.cores[if upper then 1 else 0]?.toList.filter fun c => i.active.contains l && !(r.2.any fun m => m.1 == c)).map fun c => (c, l)
    | none => []
  (r.1, r.2 ++ own)

/-- A warp selected for its next check: promoted entries whose lanes have unblocked are back in their queue (R188). -/
def State.chosen (s : State) (team warp : Nat) : State :=
  { s.updTeam team fun t => t.updWarp warp Warp.rejoin with sel := some (team, warp) }

/-- CHECK: the checker banks check the next instruction of a warp. They agree, and the next step commits it, or the lane
`differs`, on the lower or the upper core of a pair, or an injected fault does not; `slow` and `keep` are facts of the check
(logs 2, 4, 8). Without an issue slot of its pipe it is not due (R94, R204); an orphan at an instruction
boundary takes HORPH and issues nothing (R277). -/
def execCheck (team warp : Nat) (slow keep : Bool) (differs : Option (Nat × Bool)) (inval : Bool) (s : State) :
    Host.Outcome State Fault Refusal :=
  let s1 := s.chosen team warp
  let pass (s : State) : State := { s with env := { slow := slow, keep := keep }, go := true }
  match s.orphanNow team warp with
  | some o => .next (s.trapLane team warp o.1 causeHORPH o.2 0)
  | none =>
  match s1.fetched with
  | .idle => .next s
  | .away i ls => .next (s1.awaitCode i ls)
  | .ok i ins _ => match s1.slotFor i with
    | none => .next s
    | some n =>
      let r := (s1.useSlot i n).checkAll i ins differs
      match r.2 with
      | [] => .next (pass (s1.useSlot i n))
      | ms => .next (ms.foldl (fun s m => s.mismatch i ins m.1 m.2 inval) r.1)
  | .page i => match s1.slotFor i with
    | none => .next s
    | some n => .next (pass (s1.useSlot i n))
  | .bad i _ _ => match s1.slotFor i with
    | none => .next s
    | some n => .next (pass (s1.useSlot i n))

/-- Whether CHECK of a warp has something to do now. -/
def State.checkable (s : State) (team warp : Nat) : Bool :=
  (s.orphanNow team warp).isSome || match (s.chosen team warp).fetched with
    | .idle => false
    | .away _ _ => true
    | .ok i _ _ => ((s.chosen team warp).slotFor i).isSome
    | .page i => ((s.chosen team warp).slotFor i).isSome
    | .bad i _ _ => ((s.chosen team warp).slotFor i).isSome

/-! ## CORE_SELF_TEST (R109, R110) -/

/-- CORE_SELF_TEST: the test of a degraded core ends. -/
def execCoreSelfTest (core : Nat) (pass : Bool) (s : State) : Host.Outcome State Fault Refusal :=
  let k := s.core core
  if !(k.degraded || k.matDegraded) || k.retired then .next s
  else if pass then .next (s.updCore core fun k => { k with degraded := false, matDegraded := false })
  else
    let p := s.partAt core
    .next ((s.updCore core fun k => { k with retired := true }).logEvent 0x0104 2 (sourceOf 1 (fwOf p)) p (coreBytes core))

/-! ## Rollback (R112, R113, R313) -/

/-- A lane as a rollback restores it: what waited for something outside the core tries again. -/
def Lane.rolled (l : Lane) : Lane :=
  match l.wait with
  | .wave => l.past
  | .retry => { l with wait := .none }
  | .fault _ _ => { l with wait := .none }
  | .barHeld _ => { l with wait := .none }
  | _ => l

/-- A warp as a rollback restores it: walk mode of the warp as it is, `now`, goes on and its count restarts (R114). -/
def Warp.rolled (now : Option Warp) (w : Warp) : Warp :=
  let n := now.getD w
  { w with held := false, streak := [], walk := if n.walk = 0 then 0 else 64, walk2 := if n.walk2 = 0 then 0 else 64, lanes := w.lanes.map Lane.rolled }

/-- A team as it stood before the oldest of some commits, given newest first (R113). -/
def Team.rollBack (t : Team) (us : List Undo) : Team :=
  match us.getLast? with
  | none => t
  | some o => { t with
    warps := o.warps.map fun w => w.rolled (t.warpAt w.id), rings := o.rings, barriers := o.barriers, absent := o.absent, ops := o.ops
    mmaCount := o.mmaCount, mmapCount := o.mmapCount, freed := o.freed
    scratch := us.foldl (fun m u => ssetAll (0 : Byte) m u.scratch) t.scratch
    tiles := us.foldl (fun m u => ssetAll (0 : Word) m u.tiles) t.tiles }

/-- The commits of a team from a tick on, newest first. -/
def State.commitsSince (s : State) (t : Team) (since : Nat) : List Undo :=
  match t.core? with
  | some c => (s.core c).undo.filter fun u => u.team == t.key && decide (since ≤ u.tick)
  | none => []

/-- Ids of creations that a core still holds for some teams from a tick on: context and id (R397). -/
def Core.creations (k : Core) (ts : List Nat) (since : Nat) : List (Nat × Nat) :=
  k.hold.filterMap fun h => match h.eff with
    | .node c n => if ts.contains h.team && decide (since ≤ h.tick) then some (c, n) else none
    | _ => none

/-- A node's creation undone: its id goes back to the core's reservation (R397). -/
def Ctx.uncreate (core id : Nat) (c : Ctx) : Ctx :=
  { c with nodes := c.nodes.filter fun n => n.id != id, reserved := c.reserved ++ [(core, id)] }

/-- A WAITC whose register still waits for it. -/
def State.awaited (s : State) (w : WaitC) : Bool :=
  match (s.team? w.team).bind fun t => t.warpAt w.warp with
  | some k => (k.lane w.lane).regs.any fun r => r.2.fill == .empty (.waitc w.key)
  | none => false

/-- The commits of some teams from a tick on are rolled back: in-core state restored, held effects and commands
discarded, and a block in progress of a team or its pair (R112, R113, R433). -/
def State.rollBack (s : State) (ts : List Nat) (since : Nat) : State :=
  let out (team tick : Nat) : Bool := ts.contains team && decide (since ≤ tick)
  let back := s.cores.flatMap fun k => (k.creations ts since).map fun c => (k.num, c)
  let pairs := ts ++ ts.flatMap fun t => (((s.team? t).bind s.pairTeam).map Team.key).toList
  let core (k : Core) : Core :=
    let hold := k.hold.filter fun h => !out h.team h.tick
    { k with
      hold := hold, stsRel := Nat.min k.stsRel hold.length
      undo := k.undo.filter fun u => !out u.team u.tick
      matq := (k.matq.filter fun o => !out o.team o.tick).map fun (o : MatOp) =>
        if pairs.contains o.team then { o with passed := false, pairWait := if o.started then none else o.pairWait } else o }
  let s1 : State := { s with teams := s.teams.map fun (t : Team) => if ts.contains t.key then t.rollBack (s.commitsSince t since) else t }
  let s2 : State := { s1 with
    go := false
    cores := s1.cores.map core
    clusters := s1.clusters.map fun (c : Cluster) => { c with releases := c.releases.filter fun r => !ts.contains r.team }
    pend := s1.pend.filter fun p => !out p.team p.tick
    copies := s1.copies.filter fun c => !out c.team c.tick }
  let s3 : State := { s2 with waitcs := s2.waitcs.filter fun w => !ts.contains w.team || s2.awaited w }
  let s4 := back.foldl (fun s b => s.updCtx b.2.1 (Ctx.uncreate b.1 b.2.2)) s3
  wakeAll ((s4.ctxs.map Ctx.num).foldl State.freeIds s4)

/-- STRIKE_REPORT (R112 to R114): the named cores, and the other core of a DUALCORE pair, roll back; held effects of teams that
have ended go too. -/
def execStrikeReport (cluster : Nat) (cores : BitVec 4) (s : State) : Host.Outcome State Fault Refusal :=
  let named := ((List.range 4).filter fun c => cores.getLsbD c).map (4 * cluster + ·)
  match named with
  | [] => .next s
  | first :: _ =>
    let since := s.tick - 199
    let both := named ++ (s.teams.filter fun t => t.cores.any named.contains).flatMap Team.cores
    let ts := s.teams.filter fun t => t.cores.any both.contains ||
      (t.place == .gone && named.any fun c => (s.core c).hold.any fun h => h.team == t.key)
    let hit := ts.filter fun t => s.commitsSince t since != []
    let s1 := s.rollBack (ts.map Team.key) since
    let s2 := ((hit.map fun t => t.vf s).eraseDups).foldl (fun s v => s.count v fun c => { c with strikes := satInc c.strikes }) s1
    .next (s2.logEvent 0x0101 1 (sourceOfCore first) (s.partAt first)
      (leList 1 cluster ++ leList 1 cores.toNat ++ leList 6 0 ++ leList 8 s.tick))

/-! ## DUALCORE_MISMATCH (R126, R127) -/

/-- The commits of one warp among those of its team, newest first: those whose entry differs from the warp as the next
newer entry, or the team, has it. -/
def warpCommits (warp : Nat) : Team → List Undo → List Undo
  | _, [] => []
  | t, u :: us =>
    let rest := warpCommits warp { t with warps := u.warps } us
    if findKey Warp.id warp u.warps = t.warpAt warp then rest else u :: rest

/-- DUALCORE_MISMATCH: the commit `back` of a warp, counted from its newest, differs between the two cores, which roll back
to before it (R127). -/
def execDualcoreMismatch (team warp lane back : Nat) (s : State) : Host.Outcome State Fault Refusal :=
  match s.team? team with
  | none => .next s
  | some t =>
    match (warpCommits warp t (s.commitsSince t (s.tick - 100)))[back]? with
    | none => .next s
    | some u =>
      if t.cores.length < 2 then .next s
      else
        let again := ((findKey Warp.id warp u.warps).map Warp.dual).getD false
        let s1 := s.rollBack ((s.teams.filter fun x => x.cores.any t.cores.contains).map Team.key) u.tick
        if !again then .next (s1.updTeam team fun t => t.updWarp warp fun w => { w with dual := true })
        else match (s1.team? team).bind fun t => (t.warpAt warp).bind fun w => issueOf s1 t w with
          | none => .next s1
          | some i =>
            let w0 := s1.wordAt i i.pc
            .next (s1.takeNonce.hardMismatch i t.cores lane w0 (match decode w0.toNat with
              | .ok x => (s1.checkedAs i x).2
              | .error _ => 0))

end Sys2Proof.Machine
end

