-- ==== Sys2Proof/Machine/Contain.lean ====
section
/-! DEFINITION. Corrected and uncorrectable errors and partition teardown: ECC_CORRECTED, CBF_CLEAR, ECC_UNCORRECTABLE,
TAG_ERROR, PARTITION_TEARDOWN (R115 to R125, R490). -/
namespace Sys2Proof.Machine

/-! ## Corrected errors (R116, R119 to R121) -/

/-- Hash i of a row key (R119): `i` is loaded into the register of the reflected CRC; the rule does not say whether its own
bit order is reflected too (log 64). -/
def cbfHash (i : Nat) (key : Word) : Nat := (~~~crcFrom (BitVec.ofNat 32 i) (leList 4 key.toNat)).toNat % 65536

/-- A channel's filter and counts. -/
def State.chan (s : State) (n : Nat) : Channel := (findKey Channel.num n s.chans).getD { num := n }

/-- The least of the four counters of a row (R120). -/
def Channel.estimate (c : Channel) (key : Word) : Nat :=
  (List.range 4).foldl (fun m i => Nat.min m (sget 0 c.cbf (cbfHash i key))) 15

/-- A corrected error taken by a filter (R120). -/
def Channel.take (c : Channel) (key : Word) : Channel :=
  let js := ((List.range 4).map fun i => cbfHash i key).eraseDups
  { c with
    cbf := js.foldl (fun m j => sset 0 m j (Nat.min 15 (sget 0 m j + 1))) c.cbf
    scattered := if c.estimate key = 0 then c.scattered + 1 else c.scattered
    total := c.total + 1 }

/-- The events of a corrected error in HBM (R119, R120, R490). -/
def State.logRow (s : State) (n part : Nat) (key : Word) (kind : Nat) : State :=
  s.logEvent kind 1 (sourceOf 3 n) part (leList 2 n ++ leList 2 0 ++ leList 4 key.toNat)

/-! ## Whose an error is (R122) -/

/-- The function that assigned memory holds an address for. -/
def State.vfOfAddr (s : State) (a : Nat) : Option Nat :=
  (s.vfs.find? fun v => v.ranges.any fun r => decide (r.1 ≤ a) && decide (a < r.1 + r.2)).map Vf.num

/-- The one function whose teams a core runs. -/
def State.vfOfCore (s : State) (core : Nat) : Option Nat :=
  match ((s.teams.filter fun t => t.cores.contains core).map fun t => t.vf s).eraseDups with
  | [v] => some v
  | _ => none

/-- The function an error counts for: that of the access that found it, the one whose teams alone the unit ran, or the one
whose memory the address lies in. -/
def State.errVf (s : State) (unit : ErrUnit) (team addr : Option Nat) : Option Nat :=
  match (team.bind s.team?).map fun t => t.vf s with
  | some v => some v
  | none => match (match unit with
      | .core n => s.vfOfCore n
      | _ => none) with
    | some v => some v
    | none => addr.bind s.vfOfAddr

/-- The partition that owns a unit. -/
def State.unitPart (s : State) (unit : ErrUnit) : Nat := s.galleryPart (unitGallery unit)

/-- ECC_CORRECTED: a corrected error of a unit; in HBM with its row key. -/
def execEccCorrected (unit : ErrUnit) (row : Option Word) (by_ : Found) (s : State) : Host.Outcome State Fault Refusal :=
  if !unitOk unit then .next s
  else
    let part := s.unitPart unit
    let s1 := s.attribute (s.errVf unit by_.team by_.addr) part fun c => { c with ce := satInc c.ce }
    match unit, row with
    | .channel n, some key =>
      if 2 ^ 25 ≤ key.toNat then .next s
      else
        let c := s.chan n
        let s2 := if c.estimate key = 0 then s1.logRow n part key 0x0201 else s1
        let s3 := if c.estimate key = 2 then s2.logRow n part key 0x0202 else s2
        .next { s3 with chans := updOr Channel.num n { num := n } (fun c => c.take key) s3.chans }
    | _, _ => .next s1

/-- CBF_CLEAR: every filter is cleared, here on request; the daily clear is a step of time (R121). -/
def execCbfClear (s : State) : Host.Outcome State Fault Refusal := .next s.clearFilters

/-! ## Uncorrectable errors (R117, R118, R122) -/

/-- The record of a team ended by an error that names no lane: the fields of the lane are left open (R457; log 7). -/
def State.openDiag (s : State) (t : Team) (cause : Nat) : Diag :=
  let n := s.nonce
  { cause := cause, flags := if (((s.grid? t.grid).map Grid.record).getD {}).trapEntry = 0 then 2 else 0, grid := t.grid, team := t.index
    warp := Config.freeNat n % 33, lane := Config.freeNat (n + 1) % 32, role := Config.freeNat (n + 2) % 3
    pc := Config.freeWord n, info := Config.freeWord (n + 1), addr := Config.freeNat (n + 3) % 2 ^ 64
    core := (t.core?).getD (Config.freeNat (n + 4) % 384)
    part := leList 4 (Config.freeWord (n + 2)).toNat ++ leList 4 (Config.freeWord (n + 3)).toNat ++ leList 1 (Config.freeNat (n + 5)) }

/-- A team ends by an error in its core-internal state: flushed and placed again where RESTARTABLE is set, else its context is
terminated, and committed effects stand (R117, R456). -/
def State.endByError (s : State) (t : Team) : State :=
  match s.grid? t.grid with
  | some g => if g.record.restartable then s.flushTeam t else terminateCtx (s.takeNonces 8) t.ctx (s.openDiag t causeECCU)
  | none => s

/-- ECC_UNCORR is logged (R117, R490). -/
def State.logUncorr (s : State) (unit part addr : Nat) : State :=
  s.logEvent 0x0203 2 (unit % 65536) part (leList 2 unit ++ leList 6 0 ++ leList 8 addr)

/-- An uncorrectable error counted where it is attributed (R122, R123). -/
def State.countUe (s : State) (vf : Option Nat) (part : Nat) : State := s.attribute vf part fun c => { c with ue := satInc c.ue }

/-- A line is poisoned where the error lies: core-dirty in the L1 of the unit, or at L2 and beyond (R117). -/
def State.poisonAt (s : State) (unit : ErrUnit) (l : Nat) : State :=
  match unit with
  | .core c => if (s.core c).dirty.any fun d => lineOf d.loc == l then
      s.updCore c fun k => { k with poison := if k.poison.contains l then k.poison else k.poison ++ [l] } else s.poisonLine (some l)
  | _ => s.poisonLine (some l)

/-- ECC_UNCORRECTABLE of a unit; `team` is the one whose access found it. -/
def execEccUncorrectable (at_ : UncorrAt) (n : Nat) (unit : ErrUnit) (team : Option Nat) (s : State) : Host.Outcome State Fault Refusal :=
  let part := s.unitPart unit
  let src := (unitSource unit)
  if !unitOk unit then .next s
  else match at_ with
  | .clean => .next ((s.attribute (s.errVf unit team (some n)) part fun c => { c with ce := satInc c.ce }).logUncorr src part (128 * lineOf n))
  | .line => .next (((s.countUe (s.errVf unit team (some n)) part).poisonAt unit (lineOf n)).logUncorr src part (128 * lineOf n))
  | .team =>
    match s.team? n with
    | none => .next s
    | some t =>
      if t.place == .gone then .next s
      else .next (wakeAll (((s.countUe (some (t.vf s)) part).logUncorr src part 0).endByError t))

/-! ## Teardown (R124, R125) -/

/-- The teams of a partition that have not ended. -/
def State.teamsIn (s : State) (part : Nat) : List Team := s.teams.filter fun t => t.place != .gone && s.partOf t == part

/-- The contexts of a partition. -/
def State.ctxsIn (s : State) (part : Nat) : List Nat := (s.ctxs.filter fun c => s.partOfVf c.vf == part).map Ctx.num

/-- The cores of a partition stop: held effects and commands are discarded, with the copies of teams that have ended
(R124, R456). -/
def State.stopCores (s : State) (cores : List Nat) : State :=
  let keys := (s.copies.filter fun c => cores.contains c.core).map CopyOp.key
  { s with
    go := false
    copies := s.copies.filter fun c => !cores.contains c.core
    owned := s.owned.filter fun o => !keys.contains o.key
    pend := s.pend.filter fun p => !((s.team? p.team).map fun t => t.place == .gone && t.cores.any cores.contains).getD false
    cores := s.cores.map fun (k : Core) => if cores.contains k.num then { k with hold := [], undo := [], matq := [], stsRel := 0 } else k }

/-- Every pending command of a queue completes with PART_RESET: the started ones and those not fetched yet (R124). -/
def State.resetQueue (s : State) (vf q : Nat) : State :=
  match s.queue? vf q with
  | none => s
  | some x =>
    let flags (n : Nat) : Nat := ((x.seen.find? fun e => e.1 == n).map fun e => fieldAt e.2.2 1 1).getD 0
    let rest : List Started := (List.range (sub32 x.tail x.head)).map fun j =>
      { idx := (x.head + j) % 2 ^ 32, op := 0, flags := flags ((x.head + j) % 2 ^ 32) }
    let s1 := s.updQueue vf q fun x => { x with started := x.started ++ rest, head := x.tail, seen := [] }
    ((x.started ++ rest).filter fun c => !c.done).foldl (fun s c => s.completeCmd vf q c.idx 7 0) s1

/-- Steps 1 to 3 of a teardown, which a restore takes too (R124, R130). -/
def State.endWork (s : State) (part : Nat) : State :=
  let s1 := s.stopCores (s.part part).coreNums
  let s2 := (s1.teamsIn part).foldl (fun s t =>
    (((s.takeNonces 8).writeDiag (t.vf s) (s.openDiag t causePARTRESET)).endTeam t.key).dropEffects t.key) s1
  let s3 := (s2.grids.filter fun g => !g.ended && s.partOfVf g.vf == part).foldl (fun s g => s.endGrid g 7 0) s2
  let s4 := (s.ctxsIn part).foldl State.dropHypo s3
  let s5 := ((s.queues.filter fun x => s.partOfVf x.vf == part).map fun x => (x.vf, x.num)).foldl (fun s x => s.resetQueue x.1 x.2) s4
  let s6 := (s.vfsOf part).foldl (fun s v => s.post v 0x0502 255 255 0 []) s5
  ({ s6 with
    vfs := s6.vfs.map fun (v : Vf) => if v.part = some part then { v with faults := [] } else v
    parts := s6.parts.map fun (p : Part) => if p.num = part then
      { p with reserve := none, headSince := none, slalom := { p.slalom with pendCycle := none, pendGates := [], gates := p.slalom.gates.map fun (g : Nat × Gate) =>
        (g.1, { g.2 with deferred := none }) } } else p }).sweep

/-- Step 4: clusters, L2 slices and channels of a partition are reset, and its memory is zero (R124). -/
def State.wipe (s : State) (part : Nat) : State :=
  let p := s.part part
  let cs := s.ctxsIn part
  let alive (loc : Nat) : Bool := s.teams.any fun t => decide (2 ^ 56 + t.key * 2 ^ 26 ≤ loc) && decide (loc < 2 ^ 56 + (t.key + 1) * 2 ^ 26)
  { s with
    mem := s.mem.filter fun c => !p.owns c.1 && (decide (c.1 < 2 ^ 56) || alive c.1)
    poison := s.poison.filter fun l => !p.owns (128 * l)
    vers := s.vers.filter fun v => !cs.contains v.ctx
    tlb := s.tlb.filter fun e => !cs.contains e.ctx
    lines := s.lines.filter fun l => !cs.contains l.ctx && !p.owns (128 * l.line)
    cores := s.cores.map fun (k : Core) =>
      let ds := k.dirty.filter fun d => !p.owns d.loc
      if p.coreNums.contains k.num then { k with dirty := [], poison := [], hold := [], undo := [], matq := [], stsRel := 0 } else { k with dirty := ds }
    clusters := s.clusters.map fun (c : Cluster) => if p.clusters.contains c.num then
      { c with releases := [], layq := [], fused := none } else c }

/-- Checkpoints of a partition end (R125). -/
def State.dropCkpt (s : State) (part : Nat) : State :=
  match s.ckpt with
  | some r => if r.parts.contains part then
      { s with ckpt := none, parts := s.parts.map fun (p : Part) => if r.parts.contains p.num then { p with quiet := false } else p } else s
  | none => s

/-- Copies of other partitions that own a line of the partition's memory complete with error (R439). -/
def State.endInto (s : State) (part : Nat) : State :=
  (s.copies.filter fun c => c.jobs.any fun j => !j.done && (j.phys.map fun l => (s.part part).owns (128 * l)).getD false).foldl
    (fun s c => s.endCopy c true) s

/-- A teardown, steps 1 to 4 (R124): from here to its last step the partition accepts nothing, and traffic to it completes with
error (R125). -/
def State.teardown (s : State) (part unit : Nat) : State :=
  let s1 := (((s.endWork part).endInto part).wipe part).dropCkpt part
  wakeAll ((s1.updPart part fun p => { p with accepting := false, down := true }).logEvent 0x0301 3 (sourceOf 1 (fwOf part)) part
    (leList 1 part ++ leList 1 0 ++ leList 2 unit))

/-- PARTITION_TEARDOWN. -/
def execPartitionTeardown (part unit : Nat) (s : State) : Host.Outcome State Fault Refusal :=
  if s.parts.any fun p => p.num == part then .next (s.teardown part unit) else .next s

/-- The last step of a teardown: the partition accepts commands again, where the boot has come past step 6 (R76, R124). -/
def State.endTeardown (s : State) (part : Nat) : State :=
  if (s.part part).down then wakeAll (s.updPart part fun p => { p with down := false, accepting := decide (7 ≤ s.boot.at_) }) else s

/-- TAG_ERROR (R118). -/
def execTagError (at_ : TagAt) (s : State) : Host.Outcome State Fault Refusal :=
  match at_ with
  | .clean _ => .next s
  | .dirty core =>
    let ts := s.teams.filter fun t => t.cores.contains core
    let p := s.partAt core
    .next (wakeAll (ts.foldl (fun s t => match s.team? t.key with
      | some u => if u.place == .gone then s else s.endByError u
      | none => s) ((s.countUe (s.vfOfCore core) p).logUncorr (sourceOfCore core) p 0)))
  | .shared unit =>
    let part := s.unitPart unit
    let shared := match unit with
      | .core _ => false
      | _ => unitOk unit
    if shared && s.parts.any fun p => p.num == part then .next ((s.countUe none part).teardown part (unitSource unit)) else .next s

end Sys2Proof.Machine
end

