-- ==== Sys2Proof/Machine/Links.lean ====
section
/-! DEFINITION. Links, peers and the PTP servo: FLIT_RECEIVE, RETRY_REQUEST, LINK_RETRAIN_COMPLETE, LINK_DOWN, PEER_UNREACH,
PTP_MESSAGE (R24 to R33, R40 to R42). -/
namespace Sys2Proof.Machine

/-! ## Retry buffers (R29 to R31) -/

/-- A link's held flits up to a sequence number are acknowledged; other numbers acknowledge nothing (R29). -/
def Link.acked (l : Link) (seq : Nat) : Link :=
  match l.buf.head? with
  | none => l
  | some f =>
    let n := (sub12 seq f.seq + 1) % 4096
    if n = 0 || l.buf.length < n then l else { l with buf := l.buf.drop n, fails := 0 }

/-- A sequence number that acknowledges is taken, and what waited for room goes on. -/
def State.ackLink (s : State) (n seq : Nat) : State := (s.updLink n fun l => l.acked seq).pump

/-- The held flits of a link go out again, in order (R29). -/
def State.resend (s : State) (n : Nat) : State :=
  match s.link? n with
  | some l => l.buf.foldl (fun s f => s.transmit l f) s
  | none => s

/-- A retry request naming the last flit accepted: retransmission, or retraining after the eighth failure (R29, R30). -/
def State.retry (s : State) (n seq : Nat) : State :=
  let s1 := s.ackLink n seq
  match s1.link? n with
  | none => s1
  | some l =>
    if l.buf = [] || !l.carries then s1
    else if 8 ≤ l.fails + 1 then s1.updLink n fun l => { l with fails := l.fails + 1, retrainAt := some s.tick }
    else (s1.updLink n fun l => { l with fails := l.fails + 1 }).resend n

/-- RETRY_REQUEST. -/
def execRetryRequest (link seq : Nat) (s : State) : Host.Outcome State Fault Refusal :=
  match s.link? link with
  | some l => if l.carries then .next (wakeAll (s.retry link (seq % 4096))) else .next s
  | none => .next s

/-- LINK_RETRAIN_COMPLETE: of a link that retrains, or of one that is down. -/
def execLinkRetrainComplete (link : Nat) (s : State) : Host.Outcome State Fault Refusal :=
  match s.link? link with
  | none => .next s
  | some l =>
    if l.carries then .next s
    else .next (wakeAll (((s.updLink link fun l => { l with up := true, retrainAt := none, fails := 0 }).resend link).pump))

/-- The flits of a down link wait again, ahead of those that wait already (R30). -/
def State.moveFlits (s : State) (fs : List Flit) : State :=
  { s with stranded := ((fs.map Flit.peer).eraseDups).foldl (fun ws p =>
      updOr Stranded.peer p { peer := p, flits := [] } (fun w => { w with flits := (fs.filter fun f => f.peer == p) ++ w.flits }) ws) s.stranded }

/-- LINK_DOWN: retraining has not completed within 1 ms. -/
def execLinkDown (link : Nat) (s : State) : Host.Outcome State Fault Refusal :=
  match s.link? link with
  | none => .next s
  | some l => match l.retrainAt with
    | none => .next s
    | some t =>
      if s.tick < t + 1000000 then .next s
      else
        let s1 := (s.updLink link fun l => { l with up := false, retrainAt := none, buf := [], fails := 0 }).moveFlits l.buf
        .next (wakeAll (s1.pump.logEvent 0x0701 1 (sourceOf 4 link) 255 (leList 1 link ++ leList 3 0 ++ leList 4 l.fails)))

/-! ## Answers of peers (R24, R30, R32, R33, R117, R125) -/

/-- A warp's lane that issued a discarded store: one of its live lanes. -/
def State.someLane (s : State) (team warp : Nat) : Option Nat :=
  match (s.team? team).bind fun t => t.warpAt warp with
  | some w => w.live[Config.freeNat s.nonce % Nat.max w.live.length 1]?
  | none => none

/-- A live lane takes a trap for an access that a peer did not perform: PAGE, or ECCU for a poisoned line; TRAPINFO[15:8]
names the peer, TRAPADDR the line in system physical memory (R24, R30, R117; log 59). -/
def State.awayTrap (s : State) (a : Ask) (e : PeerEnd) (team warp lane : Nat) : State :=
  match (s.team? team).bind fun t => t.warpAt warp with
  | some w => if (w.lane lane).life = .live then
      s.trapLane team warp lane (if e = .poisoned then causeECCU else causePAGE) (BitVec.ofNat 32 (lane + 256 * a.peer)) (128 * a.line) else s
  | none => s

/-- The lanes of a pending access that a request serves. -/
def Ask.serves (a : Ask) (l : PendLane) : Bool :=
  if a.cls = 4 then a.lanes.contains l.lane else l.val.isNone && isPeer l.loc && lineOf l.loc == a.line

/-- A pending access's lanes that a request serves get values. -/
def State.putAnswer (s : State) (a : Ask) (key : Nat) (f : Pend → PendLane → Nat) : State :=
  { s with pend := s.pend.map fun p => if p.key = key then
      { p with lanes := p.lanes.map fun l => if a.serves l then { l with val := some (f p l) } else l } else p }

/-- An application core's request completes with error: the access that waits traps, and a store that went on is an access
fault of stores, with its address, where the core then stands; an access that waits meanwhile is made again (log 73). -/
def State.failHart (s : State) (n : Nat) (a : Ask) : State :=
  if a.cls = 1 || a.cls = 4 then s.updHart n fun h => h.answered none
  else
    let s1 : State := { s with asks := s.asks.filter fun x => !(x.who == .hart n && (x.cls == 1 || x.cls == 4)) }
    s1.updHart n fun h =>
      if h.status = .started then ({ h with await := none } : Hart).trapped 7 (128 * a.line) else h

/-- A matrix operation's read of B from a peer fails: an operand fault that names the peer and the line (R24, R30, R252). -/
def State.failMat (s : State) (a : Ask) (core team id : Nat) : State :=
  match (s.core core).matq.find? (fun o => o.team == team && o.id == id), s.team? team, (s.team? team).bind fun t => s.grid? t.grid with
  | some o, some t, some g =>
    let d := matDiag s core t g o (128 * a.line)
    (s.failPartner o).killTeam t { d with info := BitVec.ofNat 32 (o.lane + 256 * a.peer) }
  | _, _, _ => s

/-- A request completes with error at its requester (R30, R33). A register it would have filled holds a free value. A WAITC and
a fetch ask again, and find the peer reached or not (R24, R421); for an access of the device itself the spec names no error
(log 73). -/
def State.failAsk (s : State) (a : Ask) (e : PeerEnd) : State :=
  match a.who with
  | .copy _ key => match s.copies.find? fun c => c.key == key with
    | some op => s.endCopy op true
    | none => s
  | .thread _ team warp key =>
    if a.cls = 3 then match s.someLane team warp with
      | some l => s.takeNonce.awayTrap a e team warp l
      | none => s
    else
      let ls := ((s.pend.find? fun p => p.key == key).map fun p => (p.lanes.filter a.serves).map PendLane.lane).getD a.lanes
      ls.foldl (fun s l => s.awayTrap a e team warp l)
        ((s.putAnswer a key fun _ l => Config.freeNat (s.nonce + l.lane)).takeNonces 32)
  | .hart n => s.failHart n a
  | .waitc _ key => s.updWait key fun w => { w with lines := w.lines.filter fun l => l.1 != a.line }
  | .mat core team id => s.failMat a core team id
  | .code _ => s
  | .device => s

/-- The value of a load's lane from a line of a peer, under the bytes that this device decides (R32, R255). -/
def lineValue (p : Pend) (l : PendLane) (bytes : List Byte) : Nat :=
  extend p.bytes p.signed (leNum ((List.range p.bytes).map fun j =>
    ((l.fixed[j]?).getD none).getD ((bytes[l.loc % 128 + j]?).getD 0)))

/-- A request completes at its requester with what the peer sends. -/
def State.takeAnswer (s : State) (a : Ask) (bytes : List Byte) : State :=
  match a.who with
  | .thread _ _ _ key =>
    if a.cls = 1 then s.putAnswer a key fun p l => lineValue p l bytes
    else if a.cls = 4 then s.putAnswer a key fun p l => fieldAt bytes (p.bytes * ((a.lanes.zipIdx.find? fun x => x.1 == l.lane).map (·.2)).getD 0) p.bytes
    else s
  | .copy _ key => if a.cls = 1 then s.updCopy key fun c => { c with lines := c.lines ++ [(a.line, bytes)] } else s
  | .waitc _ key =>
    let s1 := s.updWait key fun w => { w with lines := putLine w.lines a.line bytes }
    (s1.waitcs.filter fun w => w.key == key).foldl State.evalWait s1
  | .mat core team id => s.updCore core fun k => { k with matq := k.matq.map fun (o : MatOp) =>
      if o.team = team ∧ o.id = id then { o with lines := putLine o.lines a.line bytes } else o }
  | .code grid => s.updGrid grid fun g => { g with lines := putLine g.lines a.line bytes }
  | .hart n => if a.cls = 1 || a.cls = 4 then { s with harts := updKey Hart.num n (fun h => h.answered (some bytes)) s.harts } else s
  | .device => s

/-- An answer with the number of a request of fitting class (R27, R33). -/
def State.answered (s : State) (cls tag : Nat) (bytes : List Byte) (e : PeerEnd) : State :=
  let fits (c : Nat) : Bool := if cls = 2 then c == 1 else if cls = 5 then c == 4 else c == 3 || c == 6 || c == 7
  match s.asks.find? fun a => a.tag == tag && fits a.cls with
  | none => s
  | some a =>
    let s1 := { s with asks := s.asks.filter fun x => x.tag != tag }
    if e = .ok then s1.takeAnswer a bytes else s1.failAsk a e

/-- The number of a request. -/
def requestTag : PeerMsg → Option Nat
  | .read _ t _ _ => some t
  | .write _ t _ => some t
  | .atom _ t _ _ _ => some t
  | _ => none

/-- The request of a discarded flit completes with error (R30); a discarded answer is lost. -/
def State.failFlit (s : State) (f : Flit) : State :=
  match (requestTag f.msg).bind fun t => s.asks.find? fun a => a.tag == t with
  | some a => { s with asks := s.asks.filter fun x => x.tag != a.tag }.failAsk a .denied
  | none => s

/-- PEER_UNREACH: flits toward a peer with no link up have waited 10 ms. -/
def execPeerUnreach (peer : Nat) (s : State) : Host.Outcome State Fault Refusal :=
  match s.stranded.find? fun w => w.peer == peer with
  | none => .next s
  | some w => match w.since with
    | none => .next s
    | some t =>
      if s.upLinks peer ≠ [] || decide (s.tick < t + 10000000) then .next s
      else
        let s1 : State := { s with stranded := s.stranded.filter fun x => x.peer != peer }
        let unit := (((s.peers.find? fun p => p.num == peer).map fun p => ((List.range 16).find? fun n => p.mask.getLsbD n).getD 0).getD 0)
        let s2 := s1.logEvent 0x0702 2 (sourceOf 4 unit) 255 (leList 1 peer ++ leList 3 0 ++ leList 4 w.flits.length)
        .next (wakeAll (w.flits.foldl State.failFlit s2))

/-! ## FLIT_RECEIVE (R27 to R29, R32, R33, R125) -/

/-- Whether local addresses are ones a peer may reach now: memory of this device, of no partition under teardown (R22, R125). -/
def State.servable (s : State) (a n : Nat) : Bool := decide (a + n ≤ 0x00C000000000) && !s.torn a

/-- An answer to the device that asked, as a flit toward the peer with its identity (R24, R27). -/
def State.respond (s : State) (src cls line : Nat) (m : PeerMsg) : State :=
  match s.peers.find? fun p => p.ident == src with
  | some p => s.sendFlit { seq := 0, cls := cls, peer := p.num, line := line, msg := m }
  | none => s

/-- The parts of an atomic of a peer, in order: the state, and the old values (R32, R267). -/
def State.atomParts (s : State) (n : Nat) (aop : Aop) : List (Nat × Nat × Nat) → State × List Byte
  | [] => (s, [])
  | (a, x, cmp) :: ps =>
    let r := s.physRead a n
    let q := (r.1.physWrite .device a (leList n (atomNew aop n (leNum r.2) x cmp))).atomParts n aop ps
    (q.1, r.2 ++ q.2)

/-- A request of a peer performed at L2 and answered, or an answer taken; a read of a poisoned line completes with error
(R32, R33, R117). -/
def State.act (s : State) (cls : Nat) (m : PeerMsg) : State :=
  match m with
  | .none => s
  | .read src tag a n =>
    if cls ≠ 1 then s
    else if !s.servable a n then s.respond src 2 (lineOf a) (.data tag [] .denied)
    else if s.poison.contains (lineOf a) then s.respond src 2 (lineOf a) (.data tag [] .poisoned)
    else
      let r := s.physRead a n
      r.1.respond src 2 (lineOf a) (.data tag r.2 .ok)
  | .atom src tag n aop ps =>
    let line := lineOf (((ps.head?).map (·.1)).getD 0)
    if cls ≠ 4 then s
    else if !(ps.all fun p => s.servable p.1 n) then s.respond src 5 line (.data tag [] .denied)
    else if ps.any fun p => s.poison.contains (lineOf p.1) then s.respond src 5 line (.data tag [] .poisoned)
    else
      let r := s.atomParts n aop ps
      r.1.respond src 5 line (.data tag r.2 .ok)
  | .write src tag cells =>
    let line := lineOf (((cells.head?).map (·.1)).getD 0)
    if cls ≠ 3 && cls ≠ 6 && cls ≠ 7 then s
    else if !(cells.all fun c => s.servable c.1 1) then s.respond src 8 line (.done tag .denied)
    else (((s.forceOthers none (cells.map Prod.fst)).commitBytes 3 .device cells).unpoison (cells.map Prod.fst)).respond src 8 line (.done tag .ok)
  | .data tag bytes e => if cls = 2 || cls = 5 then s.answered cls tag bytes e else s
  | .done tag e => if cls = 8 then s.answered cls tag [] e else s

/-- The local lines that a request of a peer reaches. -/
def requestLines : PeerMsg → List Nat
  | .read _ _ a n => ((List.range n).map fun j => lineOf (a + j)).eraseDups
  | .write _ _ cells => (cells.map fun c => lineOf c.1).eraseDups
  | .atom _ _ _ _ ps => (ps.map fun p => lineOf p.1).eraseDups
  | _ => []

/-- Whether a request must wait: an engine owns one of its lines for committed data, or an older request that waits reaches one,
as for an access at device scope here (R33, R269). -/
def State.reqHeld (s : State) (older : List (Nat × PeerMsg)) (m : PeerMsg) : Bool :=
  (requestLines m).any fun l => s.ownedOn 0 [0] (128 * l) || older.any fun r => (requestLines r.2).contains l

/-- Whether a request came in a flit of its class (R27). -/
def inClass (cls : Nat) : PeerMsg → Bool
  | .read _ _ _ _ => cls == 1
  | .write _ _ _ => cls == 3 || cls == 6 || cls == 7
  | .atom _ _ _ _ _ => cls == 4
  | _ => false

/-- A message of a peer: a request that must wait is kept. -/
def State.serve (s : State) (cls : Nat) (m : PeerMsg) : State :=
  if inClass cls m && s.reqHeld s.reqs m then { s with reqs := s.reqs ++ [(cls, m)] } else s.act cls m

/-- The requests that wait, oldest first: those that may go on are performed. -/
def State.serveAll (s : State) : List (Nat × PeerMsg) → State
  | [] => s
  | r :: rs => if s.reqHeld s.reqs r.2 then ({ s with reqs := s.reqs ++ [r] } : State).serveAll rs else (s.act r.1 r.2).serveAll rs
def State.serveHeld (s : State) : State := if s.reqs = [] then s else ({ s with reqs := [] } : State).serveAll s.reqs

/-- FLIT_RECEIVE: `msg` is what the payload says (log 2). A flit with a bad CRC is answered with a retry request, one past
a gap unless a request is out; a flit that was accepted before is acknowledged again; an accepted flit is acknowledged (R29). -/
def execFlitReceive (link : Nat) (flit : List Byte) (msg : PeerMsg) (s : State) : Host.Outcome State Fault Refusal :=
  match s.link? link with
  | none => .next s
  | some l =>
    if !l.carries || flit.length ≠ 256 then .next s
    else
      let seq := fieldAt flit 0 2 % 4096
      let ack := fieldAt flit 2 2
      let cls := fieldAt flit 4 1
      let good := fieldAt flit 252 4 == (crc32 (flit.take 252)).toNat
      if !good then .next ((s.updLink link fun l => { l with nack := true }).sendIdle link true)
      else if seq ≠ l.rxSeq then
        if 2048 ≤ sub12 seq l.rxSeq then .next (s.sendIdle link false)
        else if l.nack then .next s
        else .next ((s.updLink link fun l => { l with nack := true }).sendIdle link true)
      else
        let s1 := s.updLink link fun l => { l with
          rxSeq := if cls = 0 then l.rxSeq else (l.rxSeq + 1) % 4096, heard := l.heard || cls != 0, nack := false
          protoErr := if 8 < cls then l.protoErr + 1 else l.protoErr }
        let s2 := if 8 < cls then s1
          else if ack / 2 ^ 13 % 2 = 1 then s1.retry link (ack % 4096)
          else if ack / 2 ^ 12 % 2 = 1 then s1.ackLink link (ack % 4096) else s1
        let s3 := if cls = 0 then s2 else s2.sendIdle link false
        .next (wakeAll (s3.serve cls msg))

/-! ## PTP_MESSAGE (R40 to R42) -/

/-- The servo adjusts the frequency after a whole exchange: by at most 200 ppm; how, and when it locks, is its own (R41). -/
def Ptp.adjust (p : Ptp) (nonce : Nat) : Ptp :=
  { p with adj := ((Config.freeNat nonce % 400001 : Nat) : Int) - 200000, locked := p.locked || Config.freeBool nonce
           t1 := none, t2 := none, t3 := none, t4 := none }

/-- PTP_MESSAGE: two-step sync and the end-to-end delay mechanism on the clock's transport and in its domain. -/
def execPtpMessage (c : PtpFrom) (seq : Nat) (m : PtpMsg) (s : State) : Host.Outcome State Fault Refusal :=
  if !s.ptp.running || c.domain ≠ s.ptp.domain || c.ethernet ≠ s.ptp.ethernet then .next s
  else match m with
    | .announce => .next s
    | .other => .next s
    | .sync two =>
      if two then .next { s with ptp := { s.ptp with t1 := none, t2 := some s.tick, t3 := none, t4 := none, seq := seq } } else .next s
    | .followUp origin =>
      if s.ptp.t2.isSome && seq == s.ptp.seq then
        .next ({ s with ptp := { s.ptp with t1 := some origin, t3 := some s.tick } }.emit (.delayReq seq))
      else .next s
    | .delayResp receive =>
      if s.ptp.t3.isSome && seq == s.ptp.seq then
        .next { s.takeNonce with ptp := { s.ptp with t4 := some receive }.adjust s.nonce }
      else .next s

end Sys2Proof.Machine
end

