-- ==== Sys2Proof/Machine/Migrate.lean ====
section
/-! DEFINITION. EXPORT and IMPORT of a queue (R156 to R159), and the registration of a queue (R134, R135, R138). -/
namespace Sys2Proof.Machine

/-! ## Registration (R135, R138, R139) -/

/-- A queue is registered and its QCB device fields are written (R139, R159). -/
def State.addQueue (s : State) (x : Queue) : State := { s with queues := s.queues ++ [x] }.writeQcb x.vf x.num

/-! ## EXPORT (R156, R157) -/

/-- The canonical queue state record up to its CHECK (R157); IRQ_COUNT and IRQ_TIME are those in force (log 62). -/
def recordHead (x : Queue) (tick : Nat) : List Byte :=
  leList 4 0x4F4E5153 ++ leList 4 0x00010000 ++ leList 1 x.vf ++ leList 1 x.num ++ leList 1 x.sh.prioClass ++
    leList 1 (if x.sh.scopeSys then 1 else 0) ++ leList 1 x.sh.qpriv.toNat ++ leList 1 x.ringLog ++
    leList 1 ((if x.enable then 1 else 0) + (if x.irqEn then 2 else 0)) ++ leList 1 x.sigPages ++
    leList 8 x.sh.irqAddr.toNat ++ leList 4 x.sh.irqVec.toNat ++ leList 2 x.irqCount ++ leList 2 x.irqTime ++
    leList 8 x.sh.qcbAddr.toNat ++ leList 8 x.ringBase ++ leList 8 x.sigBase ++ leList 8 x.sh.satp.toNat ++ leList 8 x.sh.hgatp.toNat ++
    leList 4 x.head ++ leList 4 x.tail ++ leList 4 x.completed ++ leList 4 x.qstatus ++ leList 2 x.irqPend ++ leList 2 0 ++
    leList 4 (if x.irqPend = 0 then 0 else ((tick : Int) - x.irqSince).toNat) ++ leList 4 x.serial ++ leList 92 0 ++
    leList 32 x.dirtyBits.toNat ++ leList 24 0

/-- The 256 bytes of the record. -/
def queueRecord (x : Queue) (tick : Nat) : List Byte :=
  let h := recordHead x tick
  h ++ leList 4 (crc32 h).toNat ++ leList 4 0

/-- The record is written, dirty bits are cleared on request, and a stopped target is left disabled (R156). Where the record cannot
be written, the spec says nothing of a stopped target: it fetches again, with its ENABLE as it was (log 73). -/
def State.finishExport (s : State) (x : Queue) (c : Started) : State :=
  let tv := c.value / 256
  let tq := c.value % 256
  match s.queue? tv tq with
  | none => s.completeCmd x.vf x.num c.idx 8 8
  | some y =>
    if c.mask.testBit 0 && y.started != [] then s
    else
      let y1 := { y with serial := (y.serial + 1) % 2 ^ 32 }
      match s.devWrite x.ctx c.addr (queueRecord y1 s.tick) with
      | none =>
        (if c.mask.testBit 0 then (s.updQueue tv tq fun z => { z with draining := false }).writeQcb tv tq else s).completeCmd x.vf x.num c.idx 4 0x10
      | some s1 =>
        let s2 := s1.updQueue tv tq fun z => { z with
          serial := y1.serial
          dirtyBits := if c.mask.testBit 1 then 0 else z.dirtyBits
          enable := z.enable && !c.mask.testBit 0
          draining := z.draining && !c.mask.testBit 0 }
        (if c.mask.testBit 0 then s2.writeQcb tv tq else s2).completeCmd x.vf x.num c.idx 0 0

/-- The target of an EXPORT with STOP fetches no more, and its unsatisfied WAIT is taken back; the QCB is told (R139, R156). -/
def State.stopTarget (s : State) (tv tq : Nat) : State :=
  (s.updQueue tv tq fun z => match z.waitCmd? with
    | some w => { z with draining := true, head := w.idx, started := z.started.filter fun d => d.idx != w.idx }
    | none => { z with draining := true }).writeQcb tv tq

/-- The body of EXPORT. -/
def exportBody (s : State) (x : Queue) (idx : Nat) (b : List Byte) (z : Option Nat) : State :=
  let tv := fieldAt b 8 1
  let tq := fieldAt b 9 1
  let fl := fieldAt b 0x18 1
  let c : Started := { idx := idx, op := 5, addr := fieldAt b 0x10 8, value := tv * 256 + tq, mask := fl, flags := fieldAt b 1 1 }
  if !x.sh.qpriv.getLsbD 1 then s.completeCmd x.vf x.num idx 8 0
  else match bodyBad [(0x10, 4, c.addr % 64 == 0), (0x18, 1, decide (fl < 4))] z with
  | some e => s.completeCmd x.vf x.num idx e.2 e.1
  | none =>
  if (s.queue? tv tq).isNone then s.completeCmd x.vf x.num idx 8 8
  else if fl.testBit 0 && tv == x.vf && tq == x.num then s.completeCmd x.vf x.num idx 8 0x18
  else
    let s1 := s.keepCmd x c
    (if fl.testBit 0 then s1.stopTarget tv tq else s1).finishExport x c

/-- EXPORT: it starts, or, started with STOP, it ends once its target has drained. -/
def execExportCmd (vf q : Nat) (s : State) : Host.Outcome State Fault Refusal :=
  match s.waitingCmd vf q 5 with
  | some (x, c) => .next (s.finishExport x c)
  | none => .next (runCmd s vf q (isOp 5) true true (fun o => decide (o < 0x0A) || (decide (0x10 ≤ o) && decide (o < 0x19))) exportBody)

/-! ## IMPORT (R159) -/

/-- MAGIC, VERSION, CHECK and the zero fields of a record. -/
def importOk (b : List Byte) : Bool :=
  fieldAt b 0 4 == 0x4F4E5153 && fieldAt b 4 4 == 0x00010000 && fieldAt b 0xF8 4 == (crc32 (b.take 0xF8)).toNat &&
    leNum ((b.drop 0x64).take 92) == 0 && leNum ((b.drop 0xD2).take 14) == 0 && leNum ((b.drop 0xE0).take 24) == 0 && fieldAt b 0xFC 4 == 0

/-- The queue a record describes: its shadow, latched fields and device fields (R159). The spec names no other check of a record
whose CHECK holds: values beyond the limits of R134 and R136 stand as they are, and a record with ENABLE and with STOPPED or
RING_FAULT is imported enabled and does not fetch until the queue is enabled anew (R143; log 73). -/
def importQueue (b : List Byte) (vf q ctx satp hgatp tick nonce : Nat) : Queue :=
  let st := fieldAt b 0x54 4
  { vf := vf, num := q, ctx := ctx
    sh := { prioClass := fieldAt b 0x0A 1, scopeSys := (fieldAt b 0x0B 1).testBit 0, qpriv := BitVec.ofNat 32 (fieldAt b 0x0C 1)
            irqVec := BitVec.ofNat 32 (fieldAt b 0x18 4), irqAddr := BitVec.ofNat 64 (fieldAt b 0x10 8), qcbAddr := BitVec.ofNat 64 (fieldAt b 0x20 8)
            satp := BitVec.ofNat 64 satp, hgatp := BitVec.ofNat 64 hgatp }
    ringBase := fieldAt b 0x28 8, ringLog := fieldAt b 0x0D 1, sigBase := fieldAt b 0x30 8, sigPages := fieldAt b 0x0F 1
    enable := (fieldAt b 0x0E 1).testBit 0, irqEn := (fieldAt b 0x0E 1).testBit 1, irqCount := irqCountOf (fieldAt b 0x1C 2) nonce
    irqTime := irqTimeOf (fieldAt b 0x1E 2)
    head := fieldAt b 0x48 4, tail := fieldAt b 0x4C 4, completed := fieldAt b 0x50 4
    stopped := st.testBit 1, ringFault := st.testBit 3, lastErr := st / 256 % 256
    irqPend := fieldAt b 0x58 2, irqSince := (tick : Int) - fieldAt b 0x5C 4 }

/-- The body of IMPORT. -/
def importBody (pl : Plug) (s : State) (x : Queue) (idx : Nat) (b : List Byte) (z : Option Nat) : State :=
  if !x.sh.qpriv.getLsbD 1 then s.completeCmd x.vf x.num idx 8 0
  else match z with
  | some off => s.completeCmd x.vf x.num idx 1 off
  | none =>
  match s.devRead x.ctx (fieldAt b 0x10 8) 256 with
    | none => s.completeCmd x.vf x.num idx 4 0x10
    | some (s1, r) =>
      if !importOk r then s1.completeCmd x.vf x.num idx 1 0x10
      else
        let tv := if fieldAt b 8 1 = 255 then fieldAt r 8 1 else fieldAt b 8 1
        let tq := if fieldAt b 9 1 = 255 then fieldAt r 9 1 else fieldAt b 9 1
        let satp := if fieldAt b 0x18 8 = 0 then fieldAt r 0x38 8 else fieldAt b 0x18 8
        let hgatp := if fieldAt b 0x20 8 = 0 then fieldAt r 0x40 8 else fieldAt b 0x20 8
        if (s1.queue? tv tq).isSome then s1.completeCmd x.vf x.num idx 8 9
        else if 64 ≤ tq then s1.completeCmd x.vf x.num idx 8 9
        else if 192 ≤ tv || (s1.vf tv).part.isNone then s1.completeCmd x.vf x.num idx 8 8
        else
          let h := s1.hook tv [0, tv, tq, fieldAt r 0x0A 1, fieldAt r 0x0B 1, fieldAt r 0x0C 1] pl (fun d => d == 0 || d == 1) 0
          if h.2 = some 1 then h.1.completeCmd x.vf x.num idx 8 8
          else match h.1.ctxFor tv satp hgatp with
            | (s2, some c) => (s2.takeNonce.addQueue (importQueue r tv tq c satp hgatp s.tick s2.nonce)).completeCmd x.vf x.num idx 0 0
            | (s2, none) => s2.completeCmd x.vf x.num idx 8 8

/-- IMPORT. -/
def execImportCmd (vf q : Nat) (pl : Plug) (s : State) : Host.Outcome State Fault Refusal :=
  .next (runCmd s vf q (isOp 6) true true (fun o => decide (o < 0x0A) || (decide (0x10 ≤ o) && decide (o < 0x28))) (importBody pl))

end Sys2Proof.Machine
end

