-- ==== Sys2Proof/Machine/HartAccess.lean ====
section
/-! DEFINITION. Accesses of the application cores: translation, translation caches, and APPLICATION_CORE_ACCESS (R49 to
R53; log 60). -/
namespace Sys2Proof.Machine

/-! ## Translation (R49 to R51, R53) -/

/-- The first-stage and second-stage roots in force. -/
def Hart.roots (h : Hart) : Nat × Nat :=
  match h.mode with
  | .m => (0, 0)
  | .s => (h.rawCsr 0x180, 0)
  | .u => (h.rawCsr 0x180, 0)
  | .vs => (h.rawCsr 0x280, h.rawCsr 0x680)
  | .vu => (h.rawCsr 0x280, h.rawCsr 0x680)

/-- Whether a cached translation serves an access. -/
def HartTlb.serves (e : HartTlb) (k : Kind) : Bool := if k.writes then e.w else if k = .fetch then e.x else e.r

/-- The cause of an access that reaches nothing: access faults, page faults and guest page faults of loads,
stores and fetches. -/
def pageCause (k : Kind) (stage : Nat) : Nat :=
  match stage with
  | 0 => if k.writes then 7 else if k = .fetch then 1 else 5
  | 1 => if k.writes then 15 else if k = .fetch then 12 else 13
  | _ => if k.writes then 23 else if k = .fetch then 20 else 21

/-- A byte's physical address for an application core, with the bits its walk sets and the translation found; or the cause
of its trap. Leaves of every size serve, and PEER comes from the page number (R49, R50). -/
def State.hartAt (s : State) (h : Hart) (k : Kind) (va : Nat) : Except Nat (Nat × List (Nat × Nat) × Option HartTlb) :=
  let fine (pa : Nat) (u : List (Nat × Nat)) (e : Option HartTlb) : Except Nat (Nat × List (Nat × Nat) × Option HartTlb) :=
    match s.physical false pa { loc := pa } with
    | .phys _ => .ok (pa, u, e)
    | _ => .error (pageCause k 0)
  let r := h.roots
  if atpMode r.1 = 0 && atpMode r.2 = 0 then fine va [] none
  else match h.tlb.find? fun e => e.virt == h.virt && e.vpage == va / 4096 && e.serves k with
    | some e => fine (e.ppage * 4096 + va % 4096) [] none
    | none =>
      if atpMode r.1 ≠ 0 && sv57 (va % 2 ^ 57) ≠ va then .error (pageCause k 1)
      else match walkPage false s.mem r.1 r.2 k (va / 4096) with
        | .error (.fault st) => .error (pageCause k st)
        | .error .big => .error (pageCause k 1)
        | .ok l => fine (l.page * 4096 + va % 4096) l.upd
            (some { virt := h.virt, vpage := va / 4096, ppage := l.page, span := l.span, gpage := l.gpage, gspan := l.gspan
                    r := l.r, w := l.w && l.d, x := l.x })

/-- The places of `n` bytes, or the cause and address of the trap. -/
def State.hartRange (s : State) (h : Hart) (k : Kind) (va : Nat) : Nat → Except (Nat × Nat) (List (Nat × List (Nat × Nat) × Option HartTlb))
  | 0 => .ok []
  | n + 1 =>
    match s.hartAt h k va with
    | .error c => .error (c, va)
    | .ok p => match s.hartRange h k (va + 1) n with
      | .error c => .error c
      | .ok ps => .ok (p :: ps)

/-- What translations leave: the bits in page tables, and cached entries where the core keeps them. -/
def State.hartUse (s : State) (n : Nat) (keep : Bool) (ps : List (Nat × List (Nat × Nat) × Option HartTlb)) : State :=
  (s.useAll (ps.map fun p => { loc := p.1, upd := p.2.1 })).updHart n fun h =>
    if keep then { h with tlb := h.tlb ++ ((ps.filterMap fun p => p.2.2).eraseDups.filter fun e => !h.tlb.contains e) } else h

/-- Whether a leaf of `span` pages around a page meets a range of addresses. -/
def leafMeets (page span start size : Nat) : Bool :=
  let first := page / Nat.max span 1 * Nat.max span 1 * 4096
  decide (first < start + size) && decide (start < first + Nat.max span 1 * 4096)

/-- Cached translations of the host or of guests go: all of them, or those whose leaf meets a range (R53). -/
def Hart.fenceTlb (h : Hart) (virt : Bool) (range : Option (Nat × Nat)) : Hart :=
  { h with tlb := h.tlb.filter fun e => e.virt != virt || (match range with
    | some r => !leafMeets e.vpage e.span r.1 r.2
    | none => false) }

/-- Cached translations of guests go: all of them, or those whose second-stage leaf meets a range of guest addresses (R53). -/
def Hart.fenceGuest (h : Hart) (range : Option (Nat × Nat)) : Hart :=
  { h with tlb := h.tlb.filter fun e => !e.virt || (match range with
    | some r => !leafMeets e.gpage e.gspan r.1 r.2
    | none => false) }

/-! ## Accesses (R50, R52) -/

/-- A core past an instruction. -/
def Hart.goTo (h : Hart) (pc : Nat) : Hart := { h with pc := BitVec.ofNat 64 pc }

/-- Whether an access waits for an engine that owns one of its lines, as a thread with HCUR 0 does (R52, R269). -/
def State.hartHeld (s : State) (locs : List Nat) : Bool := locs.any fun l => s.ownedOn 0 [0] l

/-- A load: committed bytes as L2 has them (R52); a load that reaches a peer waits for the peer's answer. The spec gives no trap
for a load that crosses a line with a part on a peer, nor for one of a poisoned line: the model takes a misaligned-load trap and
a load access fault (log 73). -/
def State.hartLoad (s : State) (n : Nat) (h : Hart) (va len : Nat) (signed : Bool) (dst : HReg) (keep : Bool) (next : Nat) : State :=
  match s.hartRange h .read va len with
  | .error c => s.updHart n fun h => h.trapped c.1 c.2
  | .ok ps =>
    let locs := ps.map (·.1)
    let a := (locs.head?).getD 0
    if s.hartHeld locs then s
    else
      let s1 := s.hartUse n keep ps
      if locs.any fun l => lineOf l ≠ lineOf a && (isPeer l || isPeer a) then s1.updHart n fun h => h.trapped 4 va
      else if isPeer a then
        (s1.askLines (.hart n) [a]).updHart n fun h =>
          { h with await := some { addr := a, bytes := len, signed := signed, dst := dst, next := next, atomic := false } }
      else if locs.any fun l => s.poison.contains (lineOf l) then s1.updHart n fun h => h.trapped 5 va
      else s1.updHart n fun h => (h.put dst (loadedAs len signed dst (leNum (locs.map s1.baseByte)))).goTo next

/-- A store: committed, at device scope, untagged (R52). -/
def State.hartStore (s : State) (n : Nat) (h : Hart) (va : Nat) (bs : List Byte) (keep : Bool) (next : Nat) : State :=
  match s.hartRange h .write va bs.length with
  | .error c => s.updHart n fun h => h.trapped c.1 c.2
  | .ok ps =>
    let locs := ps.map (·.1)
    if s.hartHeld locs then s
    else wakeAll (((((s.hartUse n keep ps).forceOthers none locs).commitBytes 3 (.hart n) (locs.zip bs)).unpoison locs).updHart n
      fun h => h.goTo next)

/-- The place of an aligned access of an atomic kind, with what its translation leaves; or the cause of its trap. -/
def State.hartWord (s : State) (h : Hart) (k : Kind) (va bytes : Nat) : Except Nat (List (Nat × List (Nat × Nat) × Option HartTlb) × Nat) :=
  if va % bytes ≠ 0 then .error (if k.writes then 6 else 4)
  else match s.hartRange h k va bytes with
    | .error c => .error c.1
    | .ok ps => .ok (ps, ((ps.head?).map (·.1)).getD 0)

/-- An atomic, performed at L2 or at the peer that its location lies on (R32, R52, R268). -/
def State.hartAtomic (s : State) (n : Nat) (h : Hart) (aop : Aop) (va bytes x rd : Nat) (keep : Bool) (next : Nat) : State :=
  match s.hartWord h .atomic va bytes with
  | .error c => s.updHart n fun h => h.trapped c va
  | .ok (ps, a) =>
    if s.hartHeld [a] then s
    else
      let s1 := s.hartUse n keep ps
      if isPeer a then
        (s1.ask 4 (lineOf a) (.hart n) [0] fun t => .atom Config.identity t bytes aop [(localOf a, x, 0)]).updHart n fun h =>
          { h with await := some { addr := a, bytes := bytes, signed := true, dst := .x rd, next := next, atomic := true } }
      else if s.poison.contains (lineOf a) then s1.updHart n fun h => h.trapped 7 va
      else
        let r := s1.physRead a bytes
        let old := leNum r.2
        wakeAll ((r.1.physWrite (.hart n) a (leList bytes (atomNew aop bytes old x 0))).updHart n
          fun h => (h.put (.x rd) (loadedAs bytes true (.x rd) old)).goTo next)

/-- A load-reserved: a load that reserves its line. One toward a peer is an access fault (log 73). -/
def State.hartReserve (s : State) (n : Nat) (h : Hart) (va bytes rd : Nat) (keep : Bool) (next : Nat) : State :=
  match s.hartWord h .read va bytes with
  | .error c => s.updHart n fun h => h.trapped c va
  | .ok (ps, a) =>
    if s.hartHeld [a] then s
    else
      let s1 := s.hartUse n keep ps
      if isPeer a || s.poison.contains (lineOf a) then s1.updHart n fun h => h.trapped 5 va
      else
        let r := s1.physRead a bytes
        ({ r.1 with resv := (r.1.resv.filter fun (x : Nat × Nat) => x.1 != n) ++ [(n, lineOf a)] } : State).updHart n
          fun h => (h.put (.x rd) (loadedAs bytes true (.x rd) (leNum r.2))).goTo next

/-- A store-conditional: it stores while its core's reservation of the line stands, and ends the reservation. -/
def State.hartConditional (s : State) (n : Nat) (h : Hart) (va : Nat) (bs : List Byte) (rd : Nat) (keep : Bool) (next : Nat) : State :=
  match s.hartWord h .write va bs.length with
  | .error c => s.updHart n fun h => h.trapped c va
  | .ok (ps, a) =>
    if isPeer a then s.updHart n fun h => h.trapped 7 va
    else if s.hartHeld [a] then s
    else
      let ok := s.resv.contains (n, lineOf a)
      let s1 : State := { s.hartUse n keep ps with resv := s.resv.filter fun (x : Nat × Nat) => x.1 != n }
      wakeAll ((if ok then s1.physWrite (.hart n) a bs else s1).updHart n fun h => (h.put (.x rd) (if ok then 0 else 1)).goTo next)

/-- The requests of a core toward peers that are not answered. -/
def State.hartAsks (s : State) (n : Nat) : List Nat := (s.asks.filter fun a => a.who == .hart n).map Ask.tag

/-- Whether a core goes on by itself: it is started, waits for no peer, and no call of it is in progress (R54). -/
def Hart.runs (h : Hart) : Bool := h.status == .started && h.await.isNone && !h.calling

/-- An access of a core that runs; one after a fence waits until the requests toward peers that the fence found are answered
(R33, R52). -/
def State.hartAccess (s : State) (n : Nat) (h : Hart) (a : AppIns) : State :=
  if !h.runs || h.fence.any (s.hartAsks n).contains then s
  else match a.acc with
    | .load va b signed dst => s.hartLoad n h va b signed dst a.keep a.next
    | .store va bs => s.hartStore n h va bs a.keep a.next
    | .atomic aop va b x rd => s.hartAtomic n h aop va b x rd a.keep a.next
    | .reserve va b rd => s.hartReserve n h va b rd a.keep a.next
    | .conditional va bs rd => s.hartConditional n h va bs rd a.keep a.next
    | .fence => s.updHart n fun h => { h with fence := s.hartAsks n }.goTo a.next

/-- APPLICATION_CORE_ACCESS. -/
def execApplicationCoreAccess (hart : Nat) (a : AppIns) (s : State) : Host.Outcome State Fault Refusal :=
  match s.hart? hart with
  | none => .next s
  | some h => .next (s.hartAccess hart h a)

end Sys2Proof.Machine
end

