-- ==== Sys2Proof/Machine/Power.lean ====
section
/-! DEFINITION. Power: PART_ALLOT_WRITE, METER_UPDATE, BOOST_BOUNDARY, PERMIT_REFILL, RATIO_SWITCH_COMPLETE,
DROOP_ALARM, DROOP_SPAN_END, RELEASE_WAVE, IDLE_ENTRY, IDLE_EXIT, HBM_THERMAL_STAGE (R80 to R105). -/
namespace Sys2Proof.Machine

/-! ## Clocks and ratios (R84, R85) -/

/-- RATIO_SWITCH_COMPLETE. -/
def execRatioSwitchComplete (cluster : Nat) (s : State) : Host.Outcome State Fault Refusal :=
  match (s.cluster cluster).switchEnd with
  | some e => if e ≤ s.tick then .next (s.updCluster cluster fun c => c.switched s.tick) else .next s
  | none => .next s

/-! ## Allotments, the meter and the throttle (R80, R82, R83) -/

/-- The allotment in force or accepted. -/
def Part.allotted (p : Part) : Nat := (p.pendAllot.getD p.allot).toNat

/-- Galleries of a partition. -/
def Part.galleryCount (p : Part) : Nat := (List.range 48).countP fun g => p.galleries.getLsbD g

/-- Whether an allotment keeps the bounds (R80). -/
def State.allotOk (s : State) (part v : Nat) : Bool :=
  let n := (s.part part).galleryCount
  decide (30000 * n ≤ v) && decide (v ≤ 120000 * n) &&
    decide (((s.parts.filter fun p => p.num != part).map Part.allotted).sum + v ≤ 3450000)

/-- CONFIG_ERROR (R131, R490): what was refused, the port or partition, the value. -/
def State.configError (s : State) (what which v part : Nat) : State :=
  s.logEvent 0x0901 1 (sourceOf 1 (fwOf part)) part (leList 1 what ++ leList 1 which ++ leList 2 0 ++ leList 4 v)

/-- An allotment written: accepted from the next meter update, or ignored with CONFIG_ERROR (R80). -/
def State.writeAllot (s : State) (part v : Nat) : State :=
  if s.allotOk part v then s.updPart part fun p => { p with pendAllot := some (BitVec.ofNat 22 v) }
  else s.configError 1 part v part

/-- PART_ALLOT_WRITE. -/
def execPartAllotWrite (part v : Nat) (s : State) : Host.Outcome State Fault Refusal :=
  if s.parts.any fun p => p.num == part then .next (s.writeAllot part (v % 2 ^ 22)) else .next s

/-- Whether a cluster is at 0.6 GHz, and not only on its way from LOW to a higher ratio (R82, R83, R85). -/
def Cluster.atFloor (c : Cluster) : Bool := c.mhz == 600 && (c.switchEnd.isNone || c.targetMhz == 600)

/-- A cluster whose grant ends by revocation or release: it descends (R82, R89, R92). -/
def Cluster.descend (c : Cluster) (tick : Nat) : Cluster := { c with grant := .descend }.toClock 1700 tick

/-- The granted cluster with the fewest permits, ties to the higher number (R82). -/
def State.revokee (s : State) (p : Part) : Option Nat :=
  (p.clusters.filter fun c => (s.cluster c).holdsGrant).foldl (fun o c => match o with
    | none => some c
    | some b => if (s.cluster c).permits ≤ (s.cluster b).permits then some c else some b) none

/-- Every cluster of a partition moves to the frequency of a ladder step (R82, R83). -/
def State.toLadder (s : State) (p : Part) (throt : Nat) : State :=
  p.clusters.foldl (fun s c => s.updCluster c fun k => k.toClock (ladder throt) s.tick) s

/-- FLOOR set or cleared: while it is set, issue alternates in every cluster from the cycle after the update on (R82). -/
def State.setFloor (s : State) (part : Nat) (on : Bool) : State :=
  (s.part part).clusters.foldl (fun s c => s.updCluster c fun k => { k with floorFrom := if on then some (k.cycle + 1) else none })
    (s.updPart part fun p => { p with floor := on })

/-- The throttle at a meter update (R82). -/
def State.throttle (s : State) (part : Nat) : State :=
  let p := s.part part
  let above := decide (p.allot.toNat < p.meter)
  let atFloor := p.clusters.all fun c => (s.cluster c).atFloor
  let low := decide (10 * p.meter ≤ 9 * p.allot.toNat)
  let runs := if above && atFloor then p.overRuns + 1 else 0
  let s0 := s.updPart part fun p => { p with overRuns := runs, lowRuns := if low then p.lowRuns + 1 else 0 }
  let s1 := if above then s0 else s0.setFloor part false
  if above then
    match s.revokee p with
    | some c => s1.updCluster c fun k => k.descend s.tick
    | none =>
      let s2 := if p.throt < 5 && !atFloor then (s1.toLadder p (p.throt + 1)).updPart part fun p => { p with throt := p.throt + 1 } else s1
      if 64 ≤ runs && !p.floor then
        (s2.setFloor part true).logEvent 0x0801 1 (sourceOf 5 part) part
          (leList 1 part ++ leList 3 0 ++ leList 4 p.meter ++ leList 4 p.allot.toNat)
      else s2
  else if low && decide (8 ≤ p.lowRuns + 1) && decide (0 < p.throt) then
    (s1.toLadder p (p.throt - 1)).updPart part fun p => { p with throt := p.throt - 1, lowRuns := 0 }
  else s1

/-- METER_UPDATE: a partition's update with its reading, once in every 1,000 ticks; a new allotment takes effect first. -/
def execMeterUpdate (part power : Nat) (s : State) : Host.Outcome State Fault Refusal :=
  let p := s.part part
  if !(s.parts.any fun p => p.num == part) || s.tick % 1000 ≠ 0 || decide (s.tick < p.meterAt) then .next s
  else .next ((s.updPart part fun p => { p with
    meter := power % 2 ^ 23, meterSum := p.meterSum + power % 2 ^ 23, meterCount := p.meterCount + 1, meterAt := s.tick + 1, allot := p.pendAllot.getD p.allot, pendAllot := none }).throttle part)

/-! ## Boost (R87 to R92) -/

/-- BOOSTMIN in force (R88, R104). -/
def Cluster.needed (c : Cluster) : Nat := if c.fallen then Nat.max c.boostMin.toNat 1 else 1

/-- A boundary for a cluster before its partition grants (R88, R89, R91, R92): the state it enters and what it charges. -/
def Cluster.atBoundary (c : Cluster) (nominal tick : Nat) : Cluster :=
  if c.holdsGrant && c.idleSince.isSome then c.descend tick
  else match c.grant with
    | .nom => c
    | .rise | .boost =>
      if 1 ≤ c.permits then { c with grant := .boost, permits := c.permits - 1 }
      else { c with grant := .fall, fallen := true }.toClock 1900 tick
    | .fall => c.descend tick
    | .descend => { c with grant := .nom }.toClock nominal tick

/-- Whether a cluster claims at a boundary (R88). -/
def Cluster.claims (c : Cluster) (throt : Nat) : Bool :=
  c.ben && c.idleSince.isNone && throt == 0 && c.grant == .nom && decide (c.needed ≤ c.permits)

/-- BOOSTW in mW (R90, R104). -/
def Cluster.watts (c : Cluster) : Nat := 250 * c.boostW.toNat

/-- Claims sorted by permits, highest first, then by number (R90). -/
def sortClaims (l : List Cluster) : List Cluster :=
  l.foldl (fun acc c => (acc.filter fun d => decide (c.permits ≤ d.permits)) ++ [c] ++ acc.filter fun d => decide (d.permits < c.permits)) []

/-- A granted claim (R91). -/
def Cluster.rise (c : Cluster) (tick : Nat) : Cluster :=
  { c with grant := .rise, permits := c.permits - 1 }.toClock c.boostMhz tick

/-- The claims granted in order while the headroom covers them (R90). -/
def grantAll (room : Int) : List Cluster → List Nat
  | [] => []
  | c :: cs => if (c.watts : Int) ≤ room then c.num :: grantAll (room - c.watts) cs else []

/-- BOOST_BOUNDARY of a partition: a multiple of 4,000 ticks (R87). -/
def execBoostBoundary (part : Nat) (s : State) : Host.Outcome State Fault Refusal :=
  let p := s.part part
  if s.tick % 4000 ≠ 0 || decide (s.tick < p.boundary) then .next s
  else
    let s1 := p.clusters.foldl (fun s c => s.updCluster c fun k => k.atBoundary (ladder p.throt) s.tick) s
    let cs := p.clusters.map s1.cluster
    let held := ((cs.filter Cluster.holdsGrant).map Cluster.watts).sum
    let room : Int := (p.allot.toNat : Int) - p.base.toNat - held
    let won := grantAll room (sortClaims (cs.filter fun c => c.claims p.throt))
    let s2 := won.foldl (fun s c => s.updCluster c fun k => k.rise s.tick) s1
    .next (s2.updPart part fun p => { p with boundary := s.tick + 1 })

/-- A permit added; FALLEN clears when the count reaches BOOSTMIN (R88, R89). -/
def Cluster.refill (c : Cluster) : Cluster :=
  let n := Nat.min 64 (c.permits + 1)
  { c with permits := n, idleAdds := c.idleAdds + 1, fallen := c.fallen && decide (n < Nat.max c.boostMin.toNat 1) }

/-- PERMIT_REFILL. -/
def execPermitRefill (cluster : Nat) (s : State) : Host.Outcome State Fault Refusal :=
  let c := s.cluster cluster
  match c.idleSince with
  | some t => if t + 16000 * (c.idleAdds + 1) ≤ s.tick then .next (s.updCluster cluster Cluster.refill) else .next s
  | none => .next s

/-! ## Droop (R93 to R95) -/

/-- DROOP_ALARM: the output lies `shortfall` mV below the target voltage of the current ratio; an alarm when that is DROOPTH
or more (R93), absorbed during the stretched cycles (R94). -/
def execDroopAlarm (d : Droop) (s : State) : Host.Outcome State Fault Refusal :=
  let k := s.cluster d.cluster
  if d.shortfall < k.droopTh.toNat || decide (0 < k.stretch) then .next s
  else .next (s.updCluster d.cluster fun c => { c with
    stretch := 6000, halved := 64000, span := true, alarm := some c.cycle, droopCnt := satInc c.droopCnt })

/-- DROOP_SPAN_END. -/
def execDroopSpanEnd (cluster : Nat) (s : State) : Host.Outcome State Fault Refusal :=
  let c := s.cluster cluster
  if c.span && c.stretch == 0 && c.halved == 0 then .next (s.updCluster cluster fun c => { c with span := false }) else .next s

/-- RELEASE_WAVE (R97, R98). -/
def execReleaseWave (cluster : Nat) (s : State) : Host.Outcome State Fault Refusal :=
  if waveDue s cluster then .next (waveOf s cluster) else .next s

/-! ## Idle states (R99 to R101) -/

/-- Whether a partition has no queued command, no placed or parked team and no pending fault (R99). -/
def State.restful (s : State) (part : Nat) : Bool :=
  !(s.queues.any fun x => s.partOfVf x.vf == part && (x.head != x.tail || x.busy)) &&
  !(s.teams.any fun t => (t.core?.isSome || t.place == .parked) && s.partOf t == part) &&
  !(s.vfs.any fun v => v.part == some part && v.faults != [])

/-- The deepest of C1 to C3 a latency tolerance allows; 0 for none (R99). -/
def deepest (lattol : Nat) : Nat := if 2000 ≤ lattol then 3 else if 40 ≤ lattol then 2 else if 2 ≤ lattol then 1 else 0

/-- Whether a partition can leave an idle state before its next gate start: none is late on account of one (R100; log 72). -/
def State.leavesInTime (s : State) (p : Part) (n : Nat) : Bool :=
  match p.slalom.nextStart with
  | some t => decide (s.tick + 1000 * exitMicros n ≤ t)
  | none => true

/-- Whether every partition lets the device enter C4: it qualifies for C3, tolerates 50 ms, and is on no way out (R99). -/
def State.c4Ok (s : State) : Bool := s.parts.all fun p => s.restful p.num && decide (50000 ≤ p.lattol.toNat) && p.wakeAt.isNone && s.leavesInTime p 4

/-- The lines that caches hold for the contexts of partitions in C3 or C4 go (R101). -/
def State.idleCaches (s : State) : State :=
  { s with lines := s.lines.filter fun l => (s.part (s.partOfVf (s.ctx l.ctx).vf)).idle.toNat < 3 }

/-- The deepest of C1 to C3 that LATTOL allows and that the partition can leave in time; 0 for none (R99, R100). -/
def State.deepestFor (s : State) (p : Part) : Nat :=
  (([3, 2, 1].filter fun n => decide (n ≤ deepest p.lattol.toNat) && s.leavesInTime p n).head?).getD 0

/-- IDLE_ENTRY: into the deepest state allowed, from no state or from one less deep. -/
def execIdleEntry (part : Nat) (s : State) : Host.Outcome State Fault Refusal :=
  let p := s.part part
  let n := s.deepestFor p
  if !(s.parts.any fun p => p.num == part) || p.wakeAt.isSome || !s.restful part then .next s
  else if s.c4Ok then .next ({ s with c4 := true, parts := s.parts.map fun (p : Part) => { p with idle := 4 } } : State).idleCaches
  else if n ≤ p.idle.toNat then .next s
  else .next ((s.updPart part fun p => { p with idle := BitVec.ofNat 3 n }).clockPart part).idleCaches

/-- IDLE_EXIT: on a request of the Garax monitor the exit begins; once its latency has passed the partition is active. -/
def execIdleExit (part : Nat) (s : State) : Host.Outcome State Fault Refusal :=
  match (s.part part).wakeAt with
  | none => .next (s.beginExit part)
  | some t => if s.tick < t then .next s else .next (s.endExit part)

/-! ## HBM_THERMAL_STAGE (R102, R103) -/

/-- The stage of a temperature in degrees Celsius, from the stage it is in: 3 degrees of hysteresis (R102). -/
def stageOf (old temp : Nat) : Nat :=
  if 95 ≤ temp then 2 else if old = 2 && decide (92 ≤ temp) then 2
  else if 85 ≤ temp then 1 else if 1 ≤ old && decide (82 ≤ temp) then 1 else 0

/-- The guarantee factor of a stage in units of 1/256 (R103). -/
def stageFactor (n : Nat) : Nat := if n = 0 then 256 else if n = 1 then 240 else 128

/-- Partitions with a gallery on a stack (R19). -/
def State.partsOn (s : State) (stack : Nat) : List Nat :=
  (s.parts.filter fun p => [0, 1, 2, 3].any fun j => p.galleries.getLsbD (4 * stack + j)).map Part.num

/-- HBM_THERMAL_STAGE. -/
def execHbmThermalStage (stack temp : Nat) (s : State) : Host.Outcome State Fault Refusal :=
  let old := sget 0 s.stages stack
  let new := stageOf old temp
  if 12 ≤ stack || new = old then .next s
  else
    let f := stageFactor new
    let ps := s.partsOn stack
    let s1 : State := { s with
      stages := sset 0 s.stages stack new
      parts := s.parts.map fun (p : Part) => if ps.contains p.num then { p with thermal := sset 256 p.thermal stack f } else p }
    .next ((ps.flatMap s.vfsOf).foldl (fun s v => s.post v 0x0501 255 255 f []) s1)

end Sys2Proof.Machine
end

