-- ==== Sys2Proof/Machine/Registers.lean ====
section
/-! DEFINITION. The registers that the firmware layers, the host and application cores reach, read and written (R8, R11, R18,
R24, R36, R40, R56, R58, R78, R104, R123, R132, R184, R190, R237): REGISTER_WRITE. -/
namespace Sys2Proof.Machine

/-- A value as `n` bits. -/
def bitsOfNat (n v : Nat) : BitVec n := BitVec.ofNat n v

/-! ## Who reaches a register (R36, R56, R58, R132) -/

/-- What PMP entry covers a register of the firmware: the peer table and the fabric boundaries, the pages that the scheduler
reaches, or the other device registers (R58). -/
def regArea : MReg → Pmp
  | .peer _ _ _ => .tables
  | .fabric _ => .tables
  | .ctxL2lim _ => .schedRegs
  | .ctxMsclim _ => .schedRegs
  | .ctxL2occ _ => .schedRegs
  | .ctxMscocc _ => .schedRegs
  | _ => .registers

/-- Whether a PMP entry lets a mode make an access under it (R58, R63): the monitor every one, the scheduler firmware fetches of
its code and data accesses of its data, the mailbox and its register pages, a plug-in fetches of its code, data accesses of its
data and reads of its control pages. -/
def Pmp.allows : Pmp → Priv → PmpAcc → Bool
  | _, .m, _ => true
  | .schedCode, .s, .x => true
  | .schedData, .s, a => a != .x
  | .mailbox, .s, a => a != .x
  | .schedRegs, .s, a => a != .x
  | .plugCode _, .u, .x => true
  | .plugData _, .u, a => a != .x
  | .plugControl _, .u, .r => true
  | _, _, _ => false

/-- Whether a port in endpoint mode is trained, so that a host sees the functions (R36). -/
def State.hostUp (s : State) : Bool := s.ports.any fun p => p.endpoint && p.trained

/-- Whether a layer reaches a register, to read or to write it: a function's notify page from the host or an application core, another register from
a firmware core whose entries let the layer's mode through. -/
def State.mayReach (s : State) (by_ : Layer) (r : MReg) : Bool :=
  let page : Bool := match r with
    | .notify vf off _ => decide (vf < 192) && decide (off < 4096)
    | _ => false
  let fw (md : Priv) : Bool := !(match r with
      | .notify _ _ _ => true
      | _ => false) && s.fwCores.any fun f => f.released && (md == .m || f.sched) && f.pmp.contains (regArea r) && (regArea r).allows md .w
  match by_ with
  | .host => page && s.hostUp
  | .hart n => page && ((s.hart? n).map fun h => h.status == .started).getD false
  | .garax => fw .m
  | .scheduler => fw .s

/-! ## Writes (R8) -/

/-- A write to a notify page: EVT_BASE and EVT_HEAD store it; an access not of 4 or 8 naturally aligned bytes, and one
to any other register of this row, is ignored (R132). -/
def Vf.write (x : Vf) (off bytes v : Nat) : Vf :=
  if !(bytes = 4 || bytes = 8) || off % bytes ≠ 0 then x
  else if off = 0x200 then
    { x with evtBase := if bytes = 8 then bitsOfNat 64 v else bitsOfNat 64 (x.evtBase.toNat / 2 ^ 32 * 2 ^ 32 + v % 2 ^ 32) }
  else if off = 0x204 then { x with evtBase := bitsOfNat 64 (x.evtBase.toNat % 2 ^ 32 + v % 2 ^ 32 * 2 ^ 32) }
  else if off = 0x208 then { x with evtHead := bitsOfNat 32 v }
  else x

/-- CL_BOOST: a cluster that holds its grant keeps to the new BOOSTF (R91, R104). FALLEN stays until the next permit where
BOOSTMIN comes down to the permits held (log 63). -/
def Cluster.writeBoost (c : Cluster) (v tick : Nat) : Cluster :=
  let c1 := { c with
    ben := v % 2 == 1
    boostF := if v / 2 % 4 = 3 then c.boostF else bitsOfNat 2 (v / 2)
    boostW := bitsOfNat 8 (v / 2 ^ 8)
    boostMin := bitsOfNat 6 (v / 2 ^ 16) }
  if (c1.grant == .rise || c1.grant == .boost) && c1.boostF != c.boostF then c1.toClock c1.boostMhz tick else c1

/-- CL_DROOP (R104). -/
def Cluster.writeDroop (c : Cluster) (v : Nat) : Cluster :=
  if 20 ≤ v % 128 && decide (v % 128 ≤ 100) then { c with droopTh := bitsOfNat 7 v } else c

/-- CSLOPE (R104). -/
def Cluster.writeSlope (c : Cluster) (v : Nat) : Cluster := { c with waveWarps := bitsOfNat 6 v, stepCycles := bitsOfNat 8 (v / 2 ^ 8) }

/-- A partition's register changed, where the partition exists. -/
def State.setPart (s : State) (p : Nat) (f : Part → Part) : State := { s with parts := updKey Part.num p f s.parts }

/-- The soft limits of a context number in L2 and in the memory-side cache, and a change of them (R184). -/
def State.limitsOf (s : State) (k : Nat) : Nat × Nat := sget (0, 0) s.limits k
def State.setLimits (s : State) (k : Nat) (f : Nat × Nat → Nat × Nat) : State :=
  if 4096 ≤ k then s else { s with limits := sset (0, 0) s.limits k (f (s.limitsOf k)) }

/-- An entry of the peer table written (R24); flits that waited for a link toward the peer go on (R30). -/
def State.setPeer (s : State) (n ident mask : Nat) (valid : Bool) : State :=
  let rest := s.peers.filter fun p => p.num != n
  if n = 0 || 256 ≤ n then s
  else State.pump { s with peers := if valid then rest ++ [{ num := n, ident := ident, mask := bitsOfNat 16 mask }] else rest }

/-- The boundary of a gallery in the device fabric; 255 puts it in no partition (R18, R58). -/
def State.setFabric (s : State) (g p : Nat) : State :=
  if 48 ≤ g then s
  else { s with fabric := (s.fabric.filter fun x => x.1 != g) ++ if p < 48 then [(g, p)] else [] }

/-- The boundaries of the device fabric as the partitions' galleries have them (R18, R79). -/
def State.drawFabric (s : State) : State :=
  { s with fabric := (List.range 48).filterMap fun g => (s.parts.find? fun p => p.galleries.getLsbD g).map fun p => (g, p.num) }

/-- A virtual function moves to a partition, or to none, only while it has no registered queue (R78). Work of it may then still run,
after a function-level reset or the QUNREG of a gate's owner: the spec says nothing of it, and its teams stay where they are
(log 73). -/
def State.moveVf (s : State) (v p : Nat) : State :=
  if 192 ≤ v || s.queues.any (fun q => q.vf == v) || !(p == 255 || s.parts.any fun x => x.num == p) then s
  else s.updVf v fun x => { x with part := if p = 255 then none else some p }

/-- CORE_INJ written: a KIND of 3 leaves KIND as it is; arming is logged by the firmware core of the partition (R237, R470). -/
def State.writeInj (s : State) (core : Nat) (v : Word) : State :=
  let k := s.core core
  let kind : Word := if v &&& 3 = 3 then k.inj &&& 3 else v &&& 3
  let new : Word := ((v &&& ~~~3) ||| kind) &&& ~~~0x8080
  let s1 := s.updCore core fun k => { k with inj := new }
  if v &&& 3 = 1 || v &&& 3 = 2 then
    let p := s.partAt core
    s1.logEvent 0x0106 0 (sourceOf 1 (fwOf p)) p (coreBytes core ++ leList 2 0 ++ leList 4 new.toNat ++ leList 4 k.injK.toNat)
  else s1

/-- A register written: its fields take their bits under their access codes, all at once (R8, R11). -/
def State.writeReg (s : State) (r : MReg) (v : Nat) : State :=
  match r with
  | .notify vf off bytes => if 192 ≤ vf then s else s.updVf vf fun x => x.write off bytes v
  | .partAllot p => if s.parts.any fun x => x.num == p then s.writeAllot p (v % 2 ^ 22) else s
  | .partBase p => s.setPart p fun x => { x with base := bitsOfNat 22 v }
  | .partMeter _ => s
  | .partIdle p => s.setPart p fun x => { x with lattol := bitsOfNat 20 v }
  | .partSched p => if v % 2 ^ 16 < 16 then s else s.setPart p fun x => { x with fairn := bitsOfNat 16 v }
  | .clBoost c => if 96 ≤ c then s else s.updCluster c fun k => k.writeBoost v s.tick
  | .clDroop c => if 96 ≤ c then s else s.updCluster c fun k => k.writeDroop v
  | .cslope c => if 96 ≤ c then s else s.updCluster c fun k => k.writeSlope v
  | .ctxL2lim k => s.setLimits k fun l => (v % 2 ^ 21, l.2)
  | .ctxMsclim k => s.setLimits k fun l => (l.1, v % 2 ^ 25)
  | .ctxL2occ _ => s
  | .ctxMscocc _ => s
  | .coreInj c => if 384 ≤ c then s else s.writeInj c (BitVec.ofNat 32 v)
  | .coreInjk c => if 384 ≤ c then s else s.updCore c fun k => { k with injK := BitVec.ofNat 32 (v % 2 ^ 16) }
  | .peer n ident valid => s.setPeer n ident v valid
  | .fabric g => s.setFabric g (v % 256)
  | .vfPart vf => s.moveVf vf (v % 256)
  | .ptp => { s with ptp := { s.ptp with domain := v % 128, ethernet := v / 128 % 2 == 1 } }

/-- REGISTER_WRITE: by a layer that reaches the register. -/
def execRegisterWrite (a : RegAt) (v : Nat) (s : State) : Host.Outcome State Fault Refusal :=
  .next (if s.mayReach a.by_ a.reg then s.writeReg a.reg v else s)

/-- CORE_INJ_WRITE: the Garax monitor's write of CORE_INJ (R237). -/
def execCoreInjWrite (core : Nat) (v : Word) (s : State) : Host.Outcome State Fault Refusal := .next (s.writeInj core v)

/-! ## Reads (R8, R11) -/

/-- A word of a notify page (R123, R132). -/
def State.pageWord (s : State) (vf off : Nat) : Nat :=
  let v := s.vf vf
  if off < 0x100 then 0
  else if off < 0x200 then s.qstat vf ((off - 0x100) / 4)
  else if off = 0x200 then v.evtBase.toNat % 2 ^ 32
  else if off = 0x204 then v.evtBase.toNat / 2 ^ 32
  else if off = 0x208 then v.evtHead.toNat
  else if off = 0x20C then v.evtTail.toNat
  else if off = 0x210 then v.evtLost.toNat
  else match (off - 0xE00) / 4, decide (0xE00 ≤ off) with
    | 0, true => v.cnt.ce.toNat
    | 1, true => v.cnt.ue.toNat
    | 2, true => v.cnt.mismatch.toNat
    | 3, true => v.cnt.walk.toNat
    | 4, true => v.cnt.chkh.toNat
    | 5, true => v.cnt.rowReplay.toNat
    | 6, true => v.cnt.strikes.toNat
    | 7, true => v.cnt.shared.toNat
    | _, _ => 0

/-- Lines that a context holds in L2 or in the memory-side cache (R183, R184). -/
def State.occupancy (s : State) (msc : Bool) (ctx : Nat) : Nat := s.lines.countP fun l => l.msc == msc && l.ctx == ctx

/-- The value of a register: each field under its access code, all as of this instant (R8, R11); none where the access is
ignored (R132). -/
def State.readReg (s : State) (r : MReg) : Option Nat :=
  match r with
  | .notify vf off bytes =>
    if !(bytes = 4 || bytes = 8) || off % bytes ≠ 0 then none
    else some (s.pageWord vf off + if bytes = 8 then 2 ^ 32 * s.pageWord vf (off + 4) else 0)
  | .partAllot p => let x := s.part p; some (x.pendAllot.getD x.allot).toNat
  | .partBase p => some (s.part p).base.toNat
  | .partMeter p => let x := s.part p; some (x.meter % 2 ^ 23 + 2 ^ 23 * x.throt + if x.floor then 2 ^ 27 else 0)
  | .partIdle p => let x := s.part p; some (x.lattol.toNat + 2 ^ 20 * x.idle.toNat)
  | .partSched p => some (s.part p).fairn.toNat
  | .clBoost c => let k := s.cluster c; some ((if k.ben then 1 else 0) + 2 * k.boostF.toNat + 2 ^ 8 * k.boostW.toNat + 2 ^ 16 * k.boostMin.toNat)
  | .clDroop c => some (s.cluster c).droopTh.toNat
  | .cslope c => let k := s.cluster c; some (k.waveWarps.toNat + 2 ^ 8 * k.stepCycles.toNat)
  | .ctxL2lim k => some (s.limitsOf k).1
  | .ctxMsclim k => some (s.limitsOf k).2
  | .ctxL2occ k => some (s.occupancy false k % 2 ^ 21)
  | .ctxMscocc k => some (s.occupancy true k % 2 ^ 25)
  | .coreInj c => some (s.core c).inj.toNat
  | .coreInjk c => some (s.core c).injK.toNat
  | .peer n _ _ => some (((s.peers.find? fun p => p.num == n).map fun p => p.mask.toNat).getD 0)
  | .fabric g => some (((s.fabric.find? fun x => x.1 == g).map Prod.snd).getD 255)
  | .vfPart vf => some (s.partOfVf vf)
  | .ptp => some (s.ptp.domain + if s.ptp.ethernet then 128 else 0)

/-- A read by a layer that reaches the register: its value goes out. -/
def State.regRead (s : State) (by_ : Layer) (r : MReg) : State :=
  if s.mayReach by_ r then match s.readReg r with
    | some v => s.emit (.reg r v)
    | none => s
  else s

end Sys2Proof.Machine
end

