-- ==== Sys2Proof/Machine/Firmware.lean ====
section
/-! DEFINITION. The calls of the Onaen SBI extension and of HSM (R53, R54, R63, R76, R134, R135), repartitioning (R79, R80),
checkpoints and restores (R128 to R130): TLBINV, QREG, QUNREG, PARTINFO, PLUGLOAD, HART_START, REPARTITION, CKPT,
CHECKPOINT_COMPLETE, RESTORE. -/
namespace Sys2Proof.Machine

/-- SBI_ERR_FAILED of SBI 2.0: a call that fails for a reason the spec gives no code for (log 14). -/
def sbiFailed : Int := -1

/-! ## TLBINV (R53) -/

/-- Whether a cached page meets a range of addresses; length 0 means all (R54). -/
def pageMeets (base len vpage : Nat) : Bool :=
  let p := vpage * 4096 % 2 ^ 57
  let b := base % 2 ^ 57
  len == 0 || (decide (p < b + len) && decide (b < p + 4096))

/-- Whether an effect used a translation before it entered the hold. -/
def Eff.translated : Eff → Bool
  | .store _ _ _ _ => true
  | .atom _ _ _ _ => true
  | _ => false

/-- Whether accesses translated earlier are still on their way for a context (R53). -/
def State.inFlight (s : State) (ctx : Nat) : Bool :=
  let mine (key : Nat) : Bool := ((s.team? key).map Team.ctx) == some ctx
  (s.cores.any fun k => k.hold.any fun h => h.eff.translated && mine h.team) ||
  (s.asks.any fun a => match a.who with
    | .thread _ t _ _ => mine t
    | .copy _ key => s.copies.any fun c => c.key == key && mine c.team
    | _ => false)

/-- The destination lines of a copy that lie in a range and are not written are translated again (R53). -/
def State.retake (s : State) (base len : Nat) (op : CopyOp) : State :=
  let hit := op.jobs.filter fun j => !j.done && j.phys.isSome && pageMeets base len (sv57 (128 * j.line) / 4096)
  match s.opIss op with
  | none => s
  | some i =>
    let lines := hit.filterMap Job.phys
    let s1 := { s with owned := s.owned.filter fun o => !(o.key == op.key && lines.contains o.line) }
    let r := hit.foldl (fun (q : State × Bool) j =>
      if q.2 then (q.1.updJob op.key j.line fun j => { j with phys := none }).takeLine i op { j with phys := none } else q) (s1, true)
    if r.2 then r.1 else r.1.endCopy op true

/-- TLBINV: cached translations go at once; the call returns when no access uses them any more. -/
def execTlbinv (c : Call) (base len : Nat) (s : State) : Host.Outcome State Fault Refusal :=
  if !s.mayCall c.by_ onaenExt 0 [c.n, base, len] then .next s
  else
    let s1 := { s with tlb := s.tlb.filter fun e => !(e.ctx == c.n && pageMeets base len e.vpage) }
    let ops := s1.copies.filter fun op => ((s1.team? op.team).map Team.ctx) == some c.n
    let s2 := ops.foldl (fun s op => s.retake base len op) s1
    .next (if s2.inFlight c.n then s2.holdCall c.by_ else s2.answer c.by_ sbiOk [])

/-! ## QREG, QUNREG, PARTINFO (R54, R78, R134, R135) -/

/-- Whether a registration record lies inside its limits (R134). -/
def regOk (b : List Byte) : Bool :=
  decide (fieldAt b 0 1 < 192) && decide (fieldAt b 1 1 < 64) && decide (1 ≤ fieldAt b 2 1) && decide (fieldAt b 2 1 ≤ 3) &&
  decide (fieldAt b 3 1 < 2) && decide (fieldAt b 4 1 < 4) && fieldAt b 5 3 == 0 && fieldAt b 0x14 4 == 0 &&
  fieldAt b 0x18 8 % 64 == 0 && leNum ((b.drop 0x30).take 16) == 0

/-- The shadow a record loads (R134). -/
def regShadow (b : List Byte) : Shadow :=
  { prioClass := fieldAt b 2 1, scopeSys := (fieldAt b 3 1).testBit 0, qpriv := BitVec.ofNat 32 (fieldAt b 4 1)
    irqAddr := BitVec.ofNat 64 (fieldAt b 8 8), irqVec := BitVec.ofNat 32 (fieldAt b 0x10 4), qcbAddr := BitVec.ofNat 64 (fieldAt b 0x18 8)
    satp := BitVec.ofNat 64 (fieldAt b 0x20 8), hgatp := BitVec.ofNat 64 (fieldAt b 0x28 8) }

/-- Whether the QCB translates under the roots of a record (R135). -/
def State.qcbMaps (s : State) (b : List Byte) : Bool :=
  let a := fieldAt b 0x18 8
  decide (a < 0x01F0000000000000) && (match walkPage true s.mem (fieldAt b 0x20 8) (fieldAt b 0x28 8) .read (sv57 a / 4096) with
    | .ok _ => true
    | .error _ => false)

/-- The first condition of R135 that refuses a record, apart from the plug-in. -/
def State.regRefusal (s : State) (b : List Byte) : Option Int :=
  if !regOk b then some sbiInvalidParam
  else if (s.vf (fieldAt b 0 1)).part.isNone then some sbiDenied
  else if !s.qcbMaps b then some sbiInvalidAddress
  else if (s.queue? (fieldAt b 0 1) (fieldAt b 1 1)).isSome then some sbiAlreadyAvailable
  else none

/-- QREG. -/
def execQreg (c : Call) (pl : Plug) (s : State) : Host.Outcome State Fault Refusal :=
  if !s.mayCall c.by_ onaenExt 1 [c.n] then .next s
  else
  let r := s.physRead c.n 64
  let b := r.2
  let s1 := r.1.takeNonce
  match s1.regRefusal b with
  | some e => .next (s1.answer c.by_ e [])
  | none =>
    let vf := fieldAt b 0 1
    let h := s1.hook vf [0, vf, fieldAt b 1 1, fieldAt b 2 1, fieldAt b 3 1, fieldAt b 4 1] pl (fun d => d == 0 || d == 1) 0
    if h.2 = some 1 then .next (h.1.answer c.by_ sbiDenied [])
    else match h.1.ctxFor vf (fieldAt b 0x20 8) (fieldAt b 0x28 8) with
      | (s2, some k) => .next ((s2.addQueue { vf := vf, num := fieldAt b 1 1, ctx := k, sh := regShadow b }).answer c.by_ sbiOk [k])
      | (s2, none) => .next (s2.answer c.by_ sbiFailed [])

/-- QUNREG: the queue fetches no more, and is removed once nothing it started is left. -/
def execQunreg (c : Call) (q : Nat) (s : State) : Host.Outcome State Fault Refusal :=
  if !s.mayCall c.by_ onaenExt 2 [c.n, q] then .next s
  else match s.queue? c.n q with
  | none => .next (s.answer c.by_ sbiInvalidParam [])
  | some x =>
    if x.busy then .next ((s.updQueue c.n q fun x => { x with draining := true }).holdCall c.by_)
    else .next ((s.dropQueue c.n q).answer c.by_ sbiOk [])

/-- PARTINFO. -/
def execPartinfo (c : Call) (s : State) : Host.Outcome State Fault Refusal :=
  .next (if !s.mayCall c.by_ onaenExt 4 [c.n] then s
    else match s.parts.find? fun p => p.num == c.n with
    | some p => s.answer c.by_ sbiOk [p.galleries.toNat, p.allot.toNat]
    | none => s.answer c.by_ sbiInvalidParam [])

/-! ## PLUGLOAD (R63) -/

/-- The 32 bytes of a digest, most significant first. -/
def digestBytes (d : BitVec 256) : List Byte := (leList 32 d.toNat).reverse

/-- Measurement 5: the digest of the digests of the loaded images, functions ascending (R63, R73). -/
def State.pluginDigest (s : State) : BitVec 256 :=
  sha256 ((List.range 192).flatMap fun v => match (s.vf v).plugin with
    | some p => digestBytes (sha256 p.image)
    | none => [])

/-- Measurement `i`, from 1, takes a value. -/
def State.setMeas (s : State) (i : Nat) (d : BitVec 256) : State := { s with meas := updAt s.meas (i - 1) fun _ => d }

/-- Whether the header of a plug-in image of `len` bytes lies inside its limits (R63). -/
def plugOk (h : List Byte) (len : Nat) : Bool :=
  let code := fieldAt h 8 4
  let data := fieldAt h 12 4
  fieldAt h 0 4 == 0x4F4E504C && fieldAt h 4 4 == 0x00010000 && code % 4 == 0 && decide (4 ≤ code) && decide (code ≤ 65536) &&
  decide (data ≤ 65536) && decide (data + fieldAt h 16 4 ≤ 65536) && fieldAt h 20 4 % 4 == 0 && decide (fieldAt h 20 4 < code) &&
  leNum ((h.drop 0x18).take 40) == 0 && len == 0x40 + code + data

/-- A plug-in as its image gives it, its code and data copied and the bytes after the data zero (R61, R63). -/
def plugOf (image : List Byte) (ctl : Nat) : Plugin :=
  let code := fieldAt image 8 4
  { image := image, entry := fieldAt image 20 4, control := ctl, code := (image.drop 0x40).take code
    data := ssetAll (0 : Byte) [] (layAt 0 ((image.drop (0x40 + code)).take (fieldAt image 12 4))), dataBytes := fieldAt image 12 4 + fieldAt image 16 4 }

/-- A function's plug-in replaced, and the measurement that follows it (R63, R74). -/
def State.setPlugin (s : State) (vf : Nat) (p : Option Plugin) : State :=
  let s1 := s.updVf vf fun v => { v with plugin := p }
  s1.setMeas 5 s1.pluginDigest

/-- PLUGLOAD. -/
def execPlugload (c : Call) (addr len ctl : Nat) (s : State) : Host.Outcome State Fault Refusal :=
  if !s.mayCall c.by_ onaenExt 5 [c.n, addr, len, ctl] then .next s
  else if len = 0 then
    .next (if (s.vf c.n).part.isNone then s.answer c.by_ sbiDenied [] else (s.setPlugin c.n none).answer c.by_ sbiOk [])
  else
    let h := s.physRead addr 64
    if !plugOk h.2 len then .next (h.1.takeNonce.answer c.by_ sbiInvalidParam [])
    else if (s.vf c.n).part.isNone then .next (h.1.takeNonce.answer c.by_ sbiDenied [])
    else
      let r := s.physRead addr len
      .next ((r.1.takeNonce.setPlugin c.n (some (plugOf r.2 ctl))).answer c.by_ sbiOk [])

/-! ## HART_START (R46, R76) -/

/-- A hart as hart_start starts it: in HS-mode, without translation or interrupts, a0 its number, a1 the argument (log 14). -/
def Hart.start (h : Hart) (addr arg : Nat) : Hart :=
  { (((h.rawSet 0x180 0).rawSet 0x300 (putBits (h.rawCsr 0x300) 1 1 0)).put (.x 10) h.num).put (.x 11) arg with
    status := .started, pc := BitVec.ofNat 64 addr, mode := .s, await := none, fence := [], calling := false, resume := none }

/-- HART_START: hart_start of the SBI HSM extension (log 14). -/
def execHartStart (c : Call) (addr arg : Nat) (s : State) : Host.Outcome State Fault Refusal :=
  if !s.mayCall c.by_ hsmExt 0 [c.n, addr, arg] then .next s
  else match s.hart? c.n with
  | none => .next (s.answer c.by_ sbiInvalidParam [])
  | some h =>
    if h.status ≠ .stopped then .next (s.answer c.by_ sbiAlreadyAvailable [])
    else if 0x00C000000000 ≤ addr then .next (s.answer c.by_ sbiInvalidAddress [])
    else .next ((s.updHart c.n fun h => h.start addr arg).answer c.by_ sbiOk [])

/-! ## REPARTITION (R77, R79, R80) -/

/-- The bytes of the partition configuration: number and galleries of each partition, numbers ascending (log 15). -/
def State.partBytes (s : State) : List Byte :=
  (List.range 48).flatMap fun n => match s.parts.find? fun p => p.num == n with
    | some p => leList 1 n ++ leList 8 p.galleries.toNat
    | none => []

/-- Measurement 7, and LAYOUT of a checkpoint image (R73, R129). -/
def State.partDigest (s : State) : BitVec 256 := sha256 s.partBytes

/-- Whether a gate of the partition is pending (R79): set in an active table, waiting to change it, or running. -/
def State.gatePending (s : State) (part : Nat) : Bool :=
  let t := (s.part part).slalom
  (t.active && t.gates != []) || t.pendGates != [] || s.grids.any fun g => !g.ended && s.partOfVf g.vf == part && (match g.origin with
    | .gate _ _ _ _ => true
    | .queue _ _ => false)

/-- Whether ranges of memory lie in the 768 GiB, apart from each other and from those of other partitions, within what the
channels of the galleries hold (R19, R20, R22, R77). -/
def State.rangesOk (s : State) (part : Nat) (galleries : BitVec 48) (rs : List (Nat × Nat)) : Bool :=
  let meets (a b : Nat × Nat) : Bool := decide (a.1 < b.1 + b.2) && decide (b.1 < a.1 + a.2)
  rs.all (fun r => decide (r.1 + r.2 ≤ 0x00C000000000)) &&
    rs.zipIdx.all (fun r => rs.zipIdx.all fun q => r.2 == q.2 || !meets r.1 q.1) &&
    !(s.parts.any fun p => p.num != part && p.ranges.any fun q => rs.any (meets q)) &&
    decide ((rs.map Prod.snd).sum ≤ (Part.bytes { num := part, galleries := galleries }))

/-- Whether the gallery set of a partition may change to this one, or to none (R77 to R79). -/
def State.mayRepartition (s : State) (part : Nat) (galleries : BitVec 48) (rs : List (Nat × Nat)) : Bool :=
  decide (part < 48) && s.teamsIn part == [] && !s.gatePending part && s.rangesOk part galleries rs &&
  !(s.parts.any fun p => p.num != part && p.galleries &&& galleries != 0) &&
  (galleries != 0 || !(s.queues.any fun q => s.partOfVf q.vf == part))

/-- A cluster that comes to another partition: its grant is gone, and it runs at the partition's frequency, in C2 on
LOW (R86, R91, R99). -/
def Cluster.joins (c : Cluster) (p : Part) (tick : Nat) : Cluster := { c with grant := .nom, low := p.idle == 2 }.toClock (ladder p.throt) tick

/-- The guarantee factors of stacks above stage 0 on which galleries lie (R103). -/
def State.thermalOf (s : State) (galleries : BitVec 48) : List (Nat × Nat) :=
  (s.stages.filter fun t => [0, 1, 2, 3].any fun j => galleries.getLsbD (4 * t.1 + j)).map fun t => (t.1, stageFactor t.2)

/-- A partition that is left without galleries ends, and its functions belong to none (R77, R78). -/
def State.dissolve (s : State) (part : Nat) : State :=
  { s with
    parts := s.parts.filter fun p => p.num != part
    vfs := s.vfs.map fun (v : Vf) => if v.part = some part then { v with part := none } else v }

/-- REPARTITION: galleries, memory, allotment (named or the default), the boundaries of the fabric and measurement 7. -/
def execRepartition (part : Nat) (dest : Extent) (allot : Option Nat) (s : State) : Host.Outcome State Fault Refusal :=
  if !s.mayRepartition part dest.galleries dest.ranges then .next s
  else
    let s3 := if dest.galleries = 0 then s.dissolve part
      else
        let old := (s.part part).clusters
        let s1 := s.updPart part fun p => { p with
          galleries := dest.galleries, ranges := dest.ranges, reserve := none, thermal := s.thermalOf dest.galleries, accepting := decide (7 ≤ s.boot.at_) && !p.down }
        let s2 := s1.writeAllot part (allot.getD (71875 * (s1.part part).galleryCount))
        ((s2.part part).clusters.filter fun c => !old.contains c).foldl
          (fun s c => s.updCluster c fun k => k.joins (s.part part) s.tick) s2
    .next (s3.drawFabric.setMeas 7 s3.partDigest)

/-! ## CKPT (R128, R129) -/

/-- The partitions a call names: one, or all of them with 0xFF (R54). -/
def State.partsNamed (s : State) (part : Nat) : List Nat :=
  if part = 255 then s.parts.map Part.num else (s.parts.filter fun p => p.num == part).map Part.num

/-- The galleries of some partitions. -/
def State.galleriesOf (s : State) (ps : List Nat) : BitVec 48 := ps.foldl (fun m p => m ||| (s.part p).galleries) 0

/-- The teams of a partition that a checkpoint still has to save begin to, halls and pairs together, as room allows (R128, R192, R202). -/
def State.saveAll (s : State) (part : Nat) : State :=
  (s.teamsIn part).foldl (fun s t =>
    match s.team? t.key with
    | none => s
    | some u =>
      if u.core?.isNone || u.leaving.saving then s
      else
        let g := (s.groupOf u).filter fun x => x.core?.isSome && !x.leaving.saving
        if (g.map s.saveNeed).sum ≤ s.cloakFree part then g.foldl (fun s x => s.startSave false x) s else s) s

/-- Whether a partition is quiet: no team on a core and nothing in a hold (R128). -/
def State.isQuiet (s : State) (part : Nat) : Bool :=
  !((s.teamsIn part).any fun t => t.core?.isSome) && (s.part part).coreNums.all fun c => (s.core c).hold == []

/-- What the scheduler firmware writes into a save area (R128). -/
def State.partSave (s : State) (part : Nat) : PartSave :=
  let ts := s.teamsIn part
  let keys := ts.map Team.key
  let cs := s.ctxsIn part
  { part := part, queues := s.queues.filter fun x => s.partOfVf x.vf == part, ctxs := s.ctxs.filter fun c => cs.contains c.num
    grids := s.grids.filter fun g => s.partOfVf g.vf == part, teams := ts
    vers := s.vers.filter fun v => cs.contains v.ctx
    faults := (s.vfs.filter fun v => v.part == some part).map fun v => (v.num, v.serial, v.faults)
    slalom := (s.part part).slalom, copies := s.copies.filter fun c => keys.contains c.team, waitcs := s.waitcs.filter fun w => keys.contains w.team
    resolving := s.resolving.filter fun r => cs.contains r.ctx }

/-- Whether a memory location is carried in an image of some partitions: their memory, and private memory of their teams. -/
def State.carried (s : State) (ps : List Nat) (loc : Nat) : Bool :=
  ps.any fun n => (s.part n).owns loc || (s.teamsIn n).any fun t => decide (2 ^ 56 + t.key * 2 ^ 26 ≤ loc) && decide (loc < 2 ^ 56 + (t.key + 1) * 2 ^ 26)

/-- SHA-256 of the memory of some partitions, addresses ascending (R129); bytes of their ranges not listed are zero. -/
def State.memDigest (s : State) (ps : List Nat) (mem : List Host.Cell) : BitVec 256 :=
  let rs := ps.flatMap fun p => (s.part p).ranges
  let sorted := rs.foldl (fun l r => (l.filter fun q => decide (q.1 ≤ r.1)) ++ [r] ++ l.filter fun q => decide (r.1 < q.1)) []
  sha256 (sorted.flatMap fun r => (List.range r.2).map fun j => memByte mem (r.1 + j))

/-- Whether the safe tier is there: an expander at a trained root port (R37). -/
def State.safeTier (s : State) : Bool := s.ports.any fun p => p.trained && !p.endpoint && p.attached == some .expander

/-- MAGIC of an image (R129). -/
def ckptMagic : Word := 0x4F4E434B

/-- The 4 KiB header of an image (R129). -/
def CkptImage.header (i : CkptImage) : List Byte :=
  padTo 4096 (leList 4 i.magic.toNat ++ leList 4 0 ++ leList 8 i.tick ++ leList 8 i.galleries.toNat ++ digestBytes i.layout ++ digestBytes i.digest)

/-- The image as streaming begins: dirty lines are in memory (R128, R129). -/
def State.takeImage (s : State) (ps : List Nat) (slot : Nat) : State × CkptImage :=
  let s1 := (ps.flatMap fun p => (s.part p).coreNums).foldl State.publishAll s
  let m := s1.mem.filter fun c => s1.carried ps c.1
  (s1, { slot := slot, tick := s1.tick, galleries := s1.galleriesOf ps, layout := s1.partDigest, digest := s1.memDigest ps m, mem := m
         saves := ps.map s1.partSave })

/-- CKPT, called or asked for over PLDM: the partitions go quiet; once they are, the image is taken and streaming runs. -/
def execCkpt (c : Call) (slot : Nat) (s : State) : Host.Outcome State Fault Refusal :=
  let ps := s.partsNamed c.n
  match s.ckpt with
  | some r =>
    if r.parts ≠ ps ∨ r.slot ≠ slot ∨ r.image.isSome then .next s
    else if ps.all s.isQuiet then
      let i := s.takeImage ps slot
      .next { i.1 with images := i.1.images.filter fun x => x.slot != slot, ckpt := some { r with image := some i.2 } }
    else .next (ps.foldl State.saveAll s)
  | none =>
    if c.by_ ≠ .pldm && !s.mayCall c.by_ onaenExt 6 [c.n, slot] then .next s
    else if ps = [] || !s.safeTier || !(s.stored.slots.any fun x => x.1 == slot) then .next (s.answer c.by_ sbiInvalidParam [])
    else
      let s1 : State := { s with
        ckpt := some { parts := ps, slot := slot, by_ := c.by_ }
        parts := s.parts.map fun (p : Part) => if ps.contains p.num then { p with quiet := true } else p }
      .next ((ps.foldl State.saveAll s1).holdCall c.by_)

/-- CKPT_FAIL (R131, R490): bytes streamed, sink status, 0 for a checkpoint or 1 for a restore. -/
def State.ckptFail (s : State) (ps : List Nat) (bytes status what : Nat) : State :=
  let p := match ps with
    | [p] => p
    | _ => 255
  s.logEvent 0x0401 2 (sourceOf 1 (match ps with
    | [p] => fwOf p
    | _ => 0)) p (leList 8 bytes ++ leList 4 status ++ leList 1 what)

/-- CHECKPOINT_COMPLETE (R129). -/
def execCheckpointComplete (ok : Bool) (bytes status : Nat) (s : State) : Host.Outcome State Fault Refusal :=
  match s.ckpt with
  | some r =>
    match r.image with
    | none => .next s
    | some i =>
      let s1 : State := { s with
        ckpt := none
        parts := s.parts.map fun (p : Part) => if r.parts.contains p.num then { p with quiet := false } else p }
      if ok then .next ({ s1 with images := s1.images ++ [i] }.answer r.by_ sbiOk [])
      else .next ((s1.ckptFail r.parts bytes status 0).answer r.by_ sbiFailed [])
  | none => .next s

/-! ## RESTORE (R130) -/

/-- The checks of a header: MAGIC, LAYOUT and GALLERIES (R129, R130). -/
def State.restorable (s : State) (ps : List Nat) (i : CkptImage) : Bool :=
  let h := i.header
  fieldAt h 0 4 == ckptMagic.toNat && (h.drop 0x18).take 32 == digestBytes s.partDigest && fieldAt h 0x10 8 == (s.galleriesOf ps).toNat

/-- A team of an image enters as a resumed team (R130, R175). -/
def Team.reenter (t : Team) (order tick : Nat) : Team :=
  { t with place := .ready order, leaving := .none, parkSince := none, noPark := false, savedAt := t.savedAt.map fun _ => tick }

/-- A partition takes back what its save area holds (R130). -/
def State.reload (s : State) (v : PartSave) : State :=
  let cs := s.ctxsIn v.part ++ v.ctxs.map Ctx.num
  let n := (s.part v.part).seq
  let s1 : State := { s with
    queues := (s.queues.filter fun x => s.partOfVf x.vf != v.part) ++ v.queues
    ctxs := (s.ctxs.filter fun c => !cs.contains c.num) ++ v.ctxs
    grids := (s.grids.filter fun g => s.partOfVf g.vf != v.part) ++ v.grids
    teams := (s.teams.filter fun t => s.partOf t != v.part) ++ v.teams.zipIdx.map fun t => t.1.reenter (n + t.2) s.tick
    vers := s.vers ++ v.vers
    copies := s.copies ++ v.copies
    waitcs := s.waitcs ++ v.waitcs
    resolving := s.resolving ++ v.resolving
    vfs := s.vfs.map fun (x : Vf) => match v.faults.find? fun f => f.1 == x.num with
      | some f => { x with serial := Nat.max x.serial f.2.1, faults := f.2.2 }
      | none => x }
  s1.updPart v.part fun p => { p with slalom := v.slalom, seq := n + v.teams.length, turns := [], accepting := decide (7 ≤ s.boot.at_) }

/-- RESTORE, called or asked for over PLDM. -/
def execRestore (c : Call) (slot : Nat) (ok : Bool) (bytes status : Nat) (s : State) : Host.Outcome State Fault Refusal :=
  let ps := s.partsNamed c.n
  if c.by_ ≠ .pldm && !s.mayCall c.by_ onaenExt 7 [c.n, slot] then .next s
  else match s.images.find? fun i => i.slot == slot && s.safeTier with
  | none => .next (s.answer c.by_ sbiInvalidParam [])
  | some i =>
    if ps = [] || !s.restorable ps i then .next (s.answer c.by_ sbiInvalidParam [])
    else
      let s1 := ps.foldl (fun s p => ((s.endWork p).wipe p).dropCkpt p) s
      if ok && i.digest == s.memDigest ps i.mem then
        let s2 : State := { s1 with mem := i.mem.foldl (fun m x => sset 0 m x.1 x.2) s1.mem }
        .next (wakeAll ((i.saves.foldl State.reload s2).answer c.by_ sbiOk []))
      else
        let s2 : State := { s1 with parts := s1.parts.map fun (p : Part) => if ps.contains p.num then { p with accepting := decide (7 ≤ s.boot.at_) } else p }
        .next (wakeAll ((s2.ckptFail ps bytes (if ok then 0 else status) 1).answer c.by_ sbiFailed []))

end Sys2Proof.Machine
end

