-- ==== Sys2Proof/Machine/Boot.lean ====
section
/-! DEFINITION. Firmware images (R69 to R71), the cold boot (R35, R42, R75, R76), the management controller (R65, R66, R68)
and its SPDM responder (R72, R73): COLD_RESET, BOOT_STEP_FAILURE, INPUT_VOLTAGE_FAULT, CONTROLLER_LOCKSTEP_MISMATCH,
SENSOR_POLL, the PLDM requests and the SPDM requests. -/
namespace Sys2Proof.Machine

/-! ## Images (R69, R70) -/

/-- DIGEST of an image as its bytes give it (R69). -/
def imageDigest (b : List Byte) : BitVec 256 := sha256 (b.take 0x20 ++ (b.drop 0x80))

/-- KIND of an image. -/
def imageKind (b : List Byte) : Nat := fieldAt b 4 4

/-- Whether an image is valid (R69, R70): its header is well-formed, its key is fused and not revoked, DIGEST and SIGNATURE
hold, and ROLLBACK reaches the floor. -/
def State.imageValid (s : State) (b : List Byte) : Bool :=
  let slot := fieldAt b 0x14 1
  let pub := (b.drop 0x80).take 64
  let d := imageDigest b
  fieldAt b 0 4 == 0x4F4E5A47 && decide (1 ≤ imageKind b) && decide (imageKind b ≤ 4) && decide (slot < 4) &&
  leNum ((b.drop 0x15).take 11) == 0 && leNum ((b.drop 0xC0).take 64) == 0 && b.length == 0x100 + fieldAt b 0x10 4 &&
  s.fuses.digests[slot]? == some (sha256 pub) && !s.fuses.revoked.getLsbD slot &&
  (b.drop 0x20).take 32 == digestBytes d && ecdsaVerify pub d ((b.drop 0x40).take 64) &&
  decide (((s.fuses.floors[imageKind b - 1]?).getD 0).toNat ≤ fieldAt b 12 4)

/-- The image of a KIND in a bank. -/
def Bank.image (x : Bank) (k : Nat) : List Byte := (x.images.find? fun b => imageKind b == k).getD []

/-- The active bank. -/
def State.active (s : State) : Bank := if s.boot.bankB then s.bankB else s.bankA

/-- Whether the image of a KIND in the active bank verifies. -/
def State.verifies (s : State) (k : Nat) : Bool := imageKind (s.active.image k) == k && s.imageValid (s.active.image k)

/-- The first boot step whose images do not verify (R75). -/
def State.badStep (s : State) : Option Nat :=
  if !s.verifies 1 then some 1 else if !(s.verifies 2 && s.verifies 3) then some 3 else if !s.verifies 4 then some 7 else none

/-! ## The steps of the cold boot (R75) -/

/-- A cold reset: every register and store that no rule keeps takes its reset value; the non-volatile store, the fuses, the
safe tier, the error log and the black-box record stay (R10, R67 to R71; log 16). A pending bank becomes active (R71). -/
def State.cleared (s : State) : State :=
  let b := s.boot
  { mem := s.mem, poison := s.poison
    boot := if b.pending then { at_ := 0, bankB := !b.bankB, proving := true } else { b with at_ := 0, restart := false, held := false }
    bankA := s.bankA, bankB := s.bankB, fuses := s.fuses, stored := s.stored, chain := s.chain, images := s.images
    meas := List.replicate 7 0, errLog := s.errLog, blackBox := s.blackBox, evSeq := s.evSeq, frozen := s.frozen
    inputs := s.inputs, ext := s.ext, env := s.env, nonce := s.nonce, pace := s.pace, nextKey := s.nextKey, outbox := s.outbox }

/-- A measurement of an image of the active bank (R73). -/
def State.measure (s : State) (i : Nat) : State := s.setMeas i (sha256 (s.active.image i))

/-- Measurement 6: revocations and rollback floors (R73), as one byte and four words of four bytes, without the key digests, and
taken at step 1, before step 7 may raise the floors (log 65). -/
def State.fuseDigest (s : State) : BitVec 256 :=
  sha256 (leList 1 s.fuses.revoked.toNat ++ s.fuses.floors.flatMap fun f => leList 4 f.toNat)

/-- A core of the controller at the entry of its firmware. -/
def ctrlEntry : CtrlCore := { pc := BitVec.ofNat 32 (Config.fwAddr 5 0).toNat }

/-- The controller's two cores start from the active bank (R65). -/
def State.startCtrl (s : State) (restarts : Nat) : State :=
  { s with ctrl := { a := ctrlEntry, b := ctrlEntry, running := true, bankB := s.boot.bankB, restarts := restarts } }

/-- Step 1: the controller firmware starts. -/
def bootStep1 (s : State) : State := ((s.startCtrl 0).measure 1).setMeas 6 s.fuseDigest

/-- Step 2: ticks count from 0; the port modes are set, and a second port in endpoint mode is refused (R35, R42). -/
def bootStep2 (s : State) : State :=
  let ep (n : Nat) : Bool := (s.stored.ports[n]?).getD 0 == 1
  let s1 : State := { s with tick := 0, ports := [{ num := 0, endpoint := ep 0, trained := false }, { num := 1, endpoint := ep 1, trained := false }] }
  if ep 0 && ep 1 then s1.logEvent 0x0901 1 (sourceOf 6 0) 255 (leList 1 0 ++ leList 1 1 ++ leList 2 0 ++ leList 4 1) else s1

/-- The PMP entries that the monitor sets on a firmware core (R58). The spec gives the ranges 0 to 3, 4 to 7, 8 to 13 and 14 to 15
and what each range covers; which entry of a range covers what, and that entry 7 and, under a plug-in, entries 11 to 13 stay
off, is the model's (log 73). -/
def pmpEntries : List Pmp :=
  [.monitorCode, .monitorData, .registers, .tables, .schedCode, .schedData, .mailbox, .off] ++ List.replicate 6 .off ++ List.replicate 2 .schedRegs

/-- The memory of a firmware core with the PAYLOADs of the monitor and of the scheduler firmware at their entries (R69, R75). -/
def State.fwMemory (s : State) (n : Nat) : List (Nat × Byte) :=
  ssetAll (0 : Byte) [] (layAt (Config.fwAddr 0 n).toNat ((s.active.image 2).drop 0x100) ++ layAt (Config.fwAddr 1 n).toNat ((s.active.image 3).drop 0x100))

/-- A firmware core that enters the Garax monitor in M-mode; entries 0 to 7 are locked (R55, R58). -/
def FwCore.enter (f : FwCore) (mem : List (Nat × Byte)) : FwCore :=
  { num := f.num, released := true, pc := Config.fwAddr 0 f.num, pmp := pmpEntries, locked := 0x00FF, mem := mem }

/-- The firmware cores that a test picks enter the monitor. -/
def State.enterMonitor (s : State) (p : Nat → Bool) : State :=
  { s with fwCores := s.fwCores.map fun f => if p f.num then f.enter (s.fwMemory f.num) else f }

/-- Step 3: the Garax monitor is entered on firmware core 0. -/
def bootStep3 (s : State) : State := ((s.measure 2).measure 3).enterMonitor (· == 0)

/-- Step 4: memory is zero, and firmware cores 1 to 7 are released. -/
def bootStep4 (s : State) : State := { s with mem := [], poison := [] }.enterMonitor (· != 0)

/-- A partition as the stored configuration has it, with the default allotment (R80, R104, R190, R192). -/
def PartCfg.load (c : PartCfg) : Part :=
  let p : Part := { num := c.num, galleries := c.galleries }
  { p with
    allot := BitVec.ofNat 22 (71875 * p.galleryCount), base := bitsOfNat 22 c.base, lattol := bitsOfNat 20 c.lattol
    fairn := if c.fairn < 16 then 256 else bitsOfNat 16 c.fairn
    cloakSize := c.cloak, pool := c.pool, saveArea := c.saveArea, ranges := c.ranges }

/-- The allotment of a partition that the stored configuration gives: the one it names, else the default (R80). -/
def PartCfg.allotted (c : PartCfg) : Nat := c.allot.getD (71875 * c.load.galleryCount)

/-- The allotments of the stored configuration (R80): each that keeps the bounds of its galleries, together where their sum
keeps the bound; else one after the other, each tested against those of the others then in force (log 66). -/
def State.loadAllots (s : State) : State :=
  let fits (c : PartCfg) : Bool := let n := c.load.galleryCount; decide (30000 * n ≤ c.allotted) && decide (c.allotted ≤ 120000 * n)
  let all := decide ((s.stored.parts.map fun c => if fits c then c.allotted else 71875 * c.load.galleryCount).sum ≤ 3450000)
  s.stored.parts.foldl (fun s c => match c.allot with
    | none => s
    | some v => if fits c && (all || s.allotOk c.num v) then s.updPart c.num fun p => { p with allot := BitVec.ofNat 22 v }
      else s.configError 1 c.num v c.num) s

/-- A cluster as the stored configuration has it (R104). -/
def ClusterCfg.load (c : ClusterCfg) : Cluster :=
  ((({ num := c.num } : Cluster).writeBoost c.boost.toNat 0).writeDroop c.droop.toNat).writeSlope c.cslope.toNat

/-- The 96 clusters, with the registers the stored configuration names (R19, R104). -/
def Stored.clusterList (c : Stored) : List Cluster :=
  (List.range 96).map fun n => ((findKey ClusterCfg.num n c.clusters).map ClusterCfg.load).getD { num := n }

/-- The IMSIC files of a hart: every hart has the supervisor's, at an address of the implementation where the stored configuration
names none (R48; log 60). -/
def Stored.filesOf (c : Stored) (n : Nat) : List Imsic :=
  let fs : List Imsic := (c.imsic.filter fun f => f.2.1 == n).map fun f => { num := f.2.2, addr := f.1 }
  (if fs.any fun f => f.num == 0 then [] else [{ num := 0, addr := (Config.fwAddr 6 n).toNat }]) ++ fs

/-- Step 5: partitions, functions, clusters, the boundaries of the fabric and the peer table from the stored configuration. -/
def bootStep5 (s : State) : State :=
  let s1 : State := { s with
    parts := s.stored.parts.map PartCfg.load
    vfs := s.stored.vfs.map fun v => { num := v.1, part := some v.2.1, ranges := v.2.2 }
    clusters := s.stored.clusterList
    peers := s.stored.peers
    harts := s.harts.map fun (h : Hart) => { h with files := s.stored.filesOf h.num } }
  let s2 := s1.loadAllots.drawFabric
  s2.setMeas 7 s2.partDigest

/-- Whether a port can train at a rate, in units of 0.5 GT/s, and a width (R34). -/
def portOk (rate lanes : Nat) : Bool := [5, 10, 16, 32, 64, 128].contains rate && [4, 8, 16].contains lanes

/-- A port trained as it can be, with what is attached to it; the second of two endpoints is not trained (R34, R35, R37). -/
def Port.train (p : Port) (both : Bool) (fact : Option (Nat × Nat × Attached)) : Port :=
  match fact with
  | some (r, l, a) => if portOk r l && !(both && p.num == 1) then { p with trained := true, rate := r, lanes := l, attached := some a } else p
  | none => p

/-- Step 6: links and ports train, PTP starts, ticks are loaded, the scheduler firmware starts in S-mode, plug-ins are loaded,
and queues may be used (R26, R42, R75, R76). A stored plug-in that breaks a limit of R63, or of a function in no partition, is
passed over and the step goes on (log 66). -/
def bootStep6 (f : BootFacts) (s : State) : State :=
  let both := s.ports.all Port.endpoint
  let s1 : State := { s with
    tick := f.lock.getD 0
    ptp := { running := true, locked := f.lock.isSome, domain := s.stored.ptpDomain % 128, ethernet := s.stored.ptpEthernet }
    links := (List.range 16).map fun n => { num := n, up := f.links.contains n }
    ports := s.ports.map fun p => p.train both f.ports[p.num]?
    parts := s.parts.map fun (p : Part) => { p with accepting := true, meterAt := f.lock.getD 0, boundary := f.lock.getD 0 }
    polledAt := f.lock.getD 0, clearedAt := f.lock.getD 0
    fwCores := s.fwCores.map fun (c : FwCore) => { c with sched := true, mode := .s, pc := Config.fwAddr 1 c.num }
    vfs := s.vfs.map fun (v : Vf) => match s.stored.plugins.find? fun p => p.1 == v.num && v.part.isSome && plugOk p.2.1 p.2.1.length with
      | some p => { v with plugin := some (plugOf p.2.1 p.2.2) }
      | none => v }
  s1.setMeas 5 s1.pluginDigest

/-- The rollback floors after a boot that completed step 7 (R71). -/
def State.raiseFloors (s : State) : Fuses :=
  { s.fuses with floors := (List.range 4).map fun k =>
      BitVec.ofNat 32 (Nat.max ((s.fuses.floors[k]?).getD 0).toNat (fieldAt (s.active.image (k + 1)) 12 4)) }

/-- A hart as the resident leaves it: its trap vector set, exceptions and interrupts of the supervisor delegated, Sstc enabled
(R45, R46; log 60). -/
def Hart.resident (h : Hart) : Hart :=
  { h with csr := ssetAll (0 : DWord) [] [(0x302, 0xF0B509), (0x303, 0x1666), (0x305, Config.fwAddr 2 h.num), (0x30A, 0xC000000000000000)] }

/-- Step 7: hart 0 runs the operating system, harts 1 to 31 stay stopped (R75, R76). -/
def bootStep7 (s : State) : State :=
  let s1 := s.measure 4
  { s1 with
    fuses := s1.raiseFloors
    boot := { s1.boot with at_ := 8, proving := false, fails := 0 }
    harts := s1.harts.map fun (h : Hart) => if h.num = 0 then h.resident.start s1.stored.osEntry s1.stored.deviceTree else h.resident }

/-- The boot up to and with step `n`. -/
def State.bootTo (s : State) (f : BootFacts) (n : Nat) : State :=
  let run (k : Nat) (g : State → State) (s : State) : State := if k ≤ n then g s else s
  run 7 bootStep7 (run 6 (bootStep6 f) (run 5 bootStep5 (run 4 bootStep4 (run 3 bootStep3 (run 2 bootStep2 (run 1 bootStep1 s.cleared))))))

/-! ## Failures (R71, R75) -/

/-- A failure logged by the controller, under a code that the spec does not give (log 17). -/
def State.logBoot (s : State) : State :=
  let n := s.nonce
  (s.takeNonces 3).logEvent (Config.freeNat n % 65536) (Config.freeNat (n + 1) % 4) (sourceOf 6 0) 255 (leList 16 (Config.freeNat (n + 2)))

/-- Step `k` of the boot fails: with a new bank a cold reset starts, after the third on the previous bank; else the device is held. -/
def State.bootFail (s : State) (f : BootFacts) (k : Nat) : State :=
  let s1 := (s.bootTo f (k - 1)).logBoot
  let b := s1.boot
  if !b.proving then { s1 with boot := { b with at_ := k, held := true } }
  else if b.fails + 1 < 3 then { s1 with boot := { b with at_ := k, fails := b.fails + 1, restart := true } }
  else { s1 with boot := { b with at_ := k, fails := 0, proving := false, bankB := !b.bankB, restart := true } }.logBoot

/-- COLD_RESET. -/
def execColdReset (f : BootFacts) (s : State) : Host.Outcome State Fault Refusal :=
  if s.boot.held then .next s
  else match s.cleared.badStep with
    | some k => .next (s.bootFail f k)
    | none => .next (s.bootTo f 7)

/-- BOOT_STEP_FAILURE: of a cold reset with its facts; the step is not reached where images before it do not verify. -/
def execBootStepFailure (f : FailedStep) (s : State) : Host.Outcome State Fault Refusal :=
  if s.boot.held || f.step = 0 || 8 ≤ f.step then .next s
  else .next (s.bootFail f.facts (Nat.min f.step ((s.cleared.badStep).getD f.step)))

/-! ## The management controller (R65, R66, R68, R71, R75) -/

/-- INPUT_VOLTAGE_FAULT. -/
def execInputVoltageFault (s : State) : Host.Outcome State Fault Refusal := .next s.freeze

/-- CONTROLLER_LOCKSTEP_MISMATCH: the record freezes and both controller cores start again from the active bank; the rest of
the device keeps running (R65, R68). -/
def execControllerLockstepMismatch (s : State) : Host.Outcome State Fault Refusal := .next (s.freeze.startCtrl (s.ctrl.restarts + 1))

/-- The resolution of a sensor in thousandths of its unit: 0.25 and 1 °C, 1 mV, 10 mW, 10 mV, 10 mA, 1 mV (R66). -/
def sensorStep : Sensor → Nat
  | .die _ _ => 250
  | .hbm _ => 1000
  | .converter _ => 1
  | .meter _ => 10
  | .volts => 10
  | .amps => 10
  | .checkerRail _ => 1

/-- Whether the device has a sensor (R66). -/
def State.hasSensor (s : State) : Sensor → Bool
  | .die d p => decide (d < 4) && decide (p < 12)
  | .hbm n => decide (n < 12)
  | .converter n => decide (n < 96)
  | .meter p => s.parts.any fun x => x.num == p
  | .volts => true
  | .amps => true
  | .checkerRail n => decide (n < 4)

/-- The reading of a partition's power meter: its updates since the last poll averaged, in steps (R66, R82). -/
def Part.meterReading (p : Part) : Nat := (if p.meterCount = 0 then p.meter else p.meterSum / p.meterCount) / sensorStep (.meter p.num)

/-- Whether a sensor is a partition's meter, which the device reads itself. -/
def isMeter : Sensor → Bool
  | .meter _ => true
  | _ => false

/-- SENSOR_POLL: every 1 ms; readings are in thousandths of °C, V, A, and are kept in steps of the sensor's resolution. -/
def execSensorPoll (readings : List (Sensor × Nat)) (s : State) : Host.Outcome State Fault Refusal :=
  if s.tick < s.polledAt + 1000000 then .next s
  else .next { s with
    sensors := ((readings.filter fun r => s.hasSensor r.1 && !isMeter r.1).map fun r => (r.1, r.2 / sensorStep r.1)) ++
      s.parts.map fun p => (.meter p.num, p.meterReading)
    parts := s.parts.map fun (p : Part) => { p with meterSum := 0, meterCount := 0 }
    polledAt := s.tick }

/-- PLDM_MONITORING_REQUEST: the last reading; one never read is left open. -/
def execPldmMonitoringRequest (id : Sensor) (s : State) : Host.Outcome State Fault Refusal :=
  if !s.hasSensor id then .next (s.reply (.pldm false))
  else match s.sensors.find? fun r => r.1 == id with
    | some r => .next (s.reply (.sensor id r.2))
    | none => .next (s.takeNonce.reply (.sensor id (Config.freeNat s.nonce)))

/-- PLDM_FIRMWARE_UPDATE: the inactive bank is written, and pending when every image in it is valid (R71). -/
def execPldmFirmwareUpdate (images : List (List Byte)) (s : State) : Host.Outcome State Fault Refusal :=
  let ok := images.all s.imageValid && [1, 2, 3, 4].all fun k => images.countP (fun b => imageKind b == k) == 1
  let s1 : State := { s with
    bankA := if s.boot.bankB then { images := images } else s.bankA
    bankB := if s.boot.bankB then s.bankB else { images := images }
    boot := { s.boot with pending := ok } }
  .next (s1.reply (.pldm ok))

/-- PLDM_FREEZE. -/
def execPldmFreeze (s : State) : Host.Outcome State Fault Refusal := .next (s.freeze.reply (.pldm true))

/-- PLDM_UNFREEZE: accepted after a complete readout (R68). -/
def execPldmUnfreeze (readout : Bool) (s : State) : Host.Outcome State Fault Refusal :=
  .next ({ s with frozen := s.frozen && !readout }.reply (.pldm readout))

/-- PLDM_COLD_RESET_REQUEST. -/
def execPldmColdResetRequest (s : State) : Host.Outcome State Fault Refusal :=
  .next ({ s with boot := { s.boot with held := false, restart := true } }.reply (.pldm true))

/-! ## The SPDM responder (R72, R73; log 18) -/

/-- GET_VERSION: SPDM 1.3. -/
def execGetVersion (s : State) : Host.Outcome State Fault Refusal := .next (s.reply (.spdm (.version 0x13)))

/-- GET_CAPABILITIES: certificates, challenges and measurements. -/
def execGetCapabilities (s : State) : Host.Outcome State Fault Refusal := .next (s.reply (.spdm (.capabilities true true true)))

/-- NEGOTIATE_ALGORITHMS: ECDSA P-256 is bit 4 of the signature algorithms, SHA-256 bit 0 of the hashes. -/
def execNegotiateAlgorithms (asym hash : Nat) (s : State) : Host.Outcome State Fault Refusal :=
  .next (s.reply (.spdm (if asym.testBit 4 && hash.testBit 0 then .algorithms 0x10 1 else .error)))

/-- GET_DIGESTS: the digest of the chain in slot 0. -/
def execGetDigests (s : State) : Host.Outcome State Fault Refusal := .next (s.reply (.spdm (.digests (sha256 s.chain))))

/-- GET_CERTIFICATE: a portion of the chain, and how much is left after it. -/
def execGetCertificate (off len : Nat) (s : State) : Host.Outcome State Fault Refusal :=
  let part := (s.chain.drop off).take len
  .next (s.reply (.spdm (if off < s.chain.length then .certificate part (s.chain.length - off - part.length) else .error)))

/-- CHALLENGE: signed with the device identity key. -/
def execChallenge (nonce : List Byte) (s : State) : Host.Outcome State Fault Refusal :=
  .next (s.takeNonce.reply (.spdm (.challenge (Config.ecdsaSign (Config.spdmTranscript nonce s.chain s.nonce)))))

/-- GET_MEASUREMENTS: how many indices, one of them, or all of them. -/
def execGetMeasurements (index : Nat) (s : State) : Host.Outcome State Fault Refusal :=
  let all := s.meas.zipIdx.map fun m => (m.2 + 1, m.1)
  .next (s.reply (.spdm (if index = 0 then .measCount s.meas.length else if index = 255 then .measurements all
    else match all.find? fun m => m.1 == index with
      | some m => .measurements [m]
      | none => .error)))

end Sys2Proof.Machine
end

