-- ==== Sys2Proof/Machine/Special.lean ====
section
/-! DEFINITION. The correctly rounded special functions 2^x, log2 x, sin πx, cos πx and tanh x
(R297, R365). Each is enclosed between two fixed-point bounds of 384 fraction bits; when both bounds
round to one code with one flag set, that is the result, because rounding is monotone. -/
namespace Sys2Proof.Machine

/-- Fraction bits of the fixed-point bounds. -/
def fxP : Nat := 384
/-- The fixed-point one. -/
def fxOne : Nat := 2 ^ fxP
/-- The floor of π · 2^400. -/
def piFloor : Nat := 8112377246730971238862271351300894519161151600179265203591191037615230905373990498745523360926816815427566779727327576236
/-- The floor of ln 2 · 2^400. -/
def ln2Floor : Nat := 1789879222497203190815761498240779176894896805856420935579692301363062920687047601279850318367644315849030039181347319086

/-- Two bounds of one non-negative real, scaled by `2 ^ fxP`. -/
structure Enc where
  lo : Nat
  hi : Nat
  deriving DecidableEq, Repr

/-- π. -/
def encPi : Enc := ⟨piFloor / 2 ^ 16, piFloor / 2 ^ 16 + 1⟩
/-- ln 2. -/
def encLn2 : Enc := ⟨ln2Floor / 2 ^ 16, ln2Floor / 2 ^ 16 + 1⟩
/-- A product. -/
def Enc.mul (a b : Enc) : Enc := ⟨a.lo * b.lo / fxOne, a.hi * b.hi / fxOne + 1⟩
/-- A quotient, for a divisor with a positive lower bound. -/
def Enc.div (a b : Enc) : Enc := ⟨a.lo * fxOne / b.hi, a.hi * fxOne / b.lo + 1⟩
/-- A quotient by a positive integer. -/
def Enc.divNat (a : Enc) (n : Nat) : Enc := ⟨a.lo / n, a.hi / n + 1⟩
/-- A sum. -/
def Enc.add (a b : Enc) : Enc := ⟨a.lo + b.lo, a.hi + b.hi⟩
/-- A difference known to be non-negative. -/
def Enc.sub (a b : Enc) : Enc := ⟨a.lo - b.hi, a.hi - b.lo⟩
/-- The value `m · 2 ^ e`. -/
def encOf (m : Nat) (e : Int) : Enc :=
  if 0 ≤ e + (fxP : Int) then ⟨m * 2 ^ (e + (fxP : Int)).toNat, m * 2 ^ (e + (fxP : Int)).toNat⟩
  else ⟨m / 2 ^ (-(e + (fxP : Int))).toNat, m / 2 ^ (-(e + (fxP : Int))).toNat + 1⟩

/-- Terms `t^k / k!` from `k` on, `n` of them, each added to the sum (R297). -/
def expTerms (t : Enc) : Nat → Nat → Enc → Enc → Enc
  | 0, _, _, acc => acc
  | n + 1, k, term, acc =>
    let term' := (term.mul t).divNat k
    expTerms t n (k + 1) term' (acc.add term')

/-- e^t for `0 ≤ t < 1`: 80 terms; the tail lies below four units of the last place. -/
def encExp (t : Enc) : Enc :=
  let r := expTerms t 80 1 ⟨fxOne, fxOne⟩ ⟨fxOne, fxOne⟩
  ⟨r.lo, r.hi + 4⟩

/-- Repeated squaring. -/
def encSquares : Nat → Enc → Enc
  | 0, a => a
  | n + 1, a => encSquares n (a.mul a)

/-- Terms `z^(2k+1) / (2k+1)` of the inverse hyperbolic tangent. -/
def atanhTerms (z2 : Enc) : Nat → Nat → Enc → Enc → Enc
  | 0, _, _, acc => acc
  | n + 1, k, pw, acc =>
    let pw' := pw.mul z2
    atanhTerms z2 n (k + 2) pw' (acc.add (pw'.divNat k))

/-- ln y for `1 ≤ y ≤ 2`, `y = m · 2 ^ e`: 130 terms of 2 atanh((y − 1)/(y + 1)). -/
def encLn (y : Enc) : Enc :=
  let one : Enc := ⟨fxOne, fxOne⟩
  let z := (y.sub one).div (y.add one)
  let r := atanhTerms (z.mul z) 130 3 z z
  ⟨2 * r.lo, 2 * (r.hi + 4)⟩

/-- Alternating terms `θ^(2k+1)/(2k+1)!` or `θ^(2k)/(2k)!`: the positive and the negative sums apart. -/
def trigTerms (th2 : Enc) : Nat → Nat → Enc → Enc → Enc → Enc × Enc
  | 0, _, _, pos, negs => (pos, negs)
  | n + 1, k, term, pos, negs =>
    let t1 := (term.mul th2).divNat (k * (k + 1))
    let t2 := (t1.mul th2).divNat ((k + 2) * (k + 3))
    trigTerms th2 n (k + 4) t2 (pos.add t2) (negs.add t1)

/-- sin(π t) for `0 ≤ t ≤ 1/4`. -/
def encSinPi (t : Enc) : Enc :=
  let th := encPi.mul t
  let r := trigTerms (th.mul th) 24 2 th th ⟨0, 0⟩
  let d := r.1.sub r.2
  ⟨d.lo - 4, d.hi + 4⟩

/-- cos(π t) for `0 ≤ t ≤ 1/4`. -/
def encCosPi (t : Enc) : Enc :=
  let th := encPi.mul t
  let r := trigTerms (th.mul th) 24 1 ⟨fxOne, fxOne⟩ ⟨fxOne, fxOne⟩ ⟨0, 0⟩
  let d := r.1.sub r.2
  ⟨d.lo - 4, d.hi + 4⟩

/-- The FP32 rounding of an irrational result enclosed between two positive bounds, scaled by
`2 ^ (k − fxP)`; when the bounds do not agree the result is the opaque value of log 11. -/
def roundEnc (rm : Rm) (s : Bool) (v : Enc) (k : Int) (fn a : Nat) : Nat × Flags :=
  let lo := roundExact fp32 rm s (2 * v.lo + 1) (k - (fxP : Int) - 1)
  let hi := roundExact fp32 rm s (2 * v.hi - 1) (k - (fxP : Int) - 1)
  if lo = hi then lo else ((Config.hardToRound fn a).toNat, flagNX)

/-- 2^x (R297): exact for an integer x, else 2^n · e^(f ln 2). -/
def ex2F (rm : Rm) (a : Nat) : Nat × Flags :=
  match fp32.unpack a with
  | .nan g => (fp32.nan, flagIf g flagIV)
  | .inf s => if s then (0, flagNone) else (fp32.top, flagNone)
  | .fin s m e =>
    if m = 0 then roundExact fp32 rm false 1 0
    else
      let big := decide (0 ≤ (Nat.log2 m : Int) + e - 8)
      if big then roundExact fp32 rm false 1 (if s then -400 else 400)
      else if 0 ≤ e then roundExact fp32 rm false 1 (signedInt s (m * 2 ^ e.toNat))
      else
        let k := (-e).toNat
        let v := signedInt s m
        let n : Int := v / (2 ^ k : Nat)
        let fr := (v % ((2 ^ k : Nat) : Int)).toNat
        if fr = 0 then roundExact fp32 rm false 1 n
        else roundEnc rm false (encExp (encLn2.mul (encOf fr e))) n 0 a

/-- log2 x (R297): exact for a power of two. -/
def lg2F (rm : Rm) (a : Nat) : Nat × Flags :=
  match fp32.unpack a with
  | .nan g => (fp32.nan, flagIf g flagIV)
  | .inf s => if s then (fp32.nan, flagIV) else (fp32.top, flagNone)
  | .fin s m e =>
    if m = 0 then (fp32.withSign true fp32.top, flagDZ)
    else if s then (fp32.nan, flagIV)
    else
      let l := Nat.log2 m
      let n : Int := (l : Int) + e
      if m = 2 ^ l then (if n = 0 then (0, flagNone) else roundExact fp32 rm (decide (n < 0)) n.natAbs 0)
      else
        let fr := (encLn (encOf m (-(l : Int)))).div encLn2
        if 0 ≤ n then roundEnc rm false (⟨n.toNat * fxOne + fr.lo, n.toNat * fxOne + fr.hi⟩) 0 1 a
        else
          let p := n.natAbs * fxOne
          roundEnc rm true ⟨p - fr.hi, p - fr.lo⟩ 0 1 a

/-- sin(π t) or cos(π t) for `t = r · 2^(−k)` in (0, 1/2): the bounds, from whichever series is short. -/
def trigHalf (isSin : Bool) (r k : Nat) : Enc :=
  let t := encOf r (-(k : Int))
  let half : Enc := ⟨fxOne / 2, fxOne / 2⟩
  if 4 * r ≤ 2 ^ k then (if isSin then encSinPi t else encCosPi t)
  else if isSin then encCosPi (half.sub t) else encSinPi (half.sub t)

/-- sin πx (`isSin`) or cos πx for a finite x (R297). `r` is |x| mod 2 in units of 2^(−k). -/
def trigF (isSin : Bool) (rm : Rm) (a : Nat) : Nat × Flags :=
  match fp32.unpack a with
  | .nan g => (fp32.nan, flagIf g flagIV)
  | .inf _ => (fp32.nan, flagIV)
  | .fin s m e =>
    let k := (-e).toNat
    let v := if 0 ≤ e then m * 2 ^ e.toNat else m
    let u := 2 ^ k
    let r := v % (2 * u)
    if isSin then
      if r % u = 0 then (fp32.withSign s 0, flagNone)
      else
        let neg := s != decide (u < r)
        let q := r % u
        let h := if 2 * q ≤ u then q else u - q
        if 2 * h = u then roundExact fp32 rm neg 1 0
        else roundEnc rm neg (trigHalf true h k) 0 2 a
    else
      if r = 0 then roundExact fp32 rm false 1 0
      else if r = u then roundExact fp32 rm true 1 0
      else
        let q := if r ≤ u then r else 2 * u - r
        if 2 * q = u then (0, flagNone)
        else
          let neg := decide (u < 2 * q)
          let h := if neg then u - q else q
          roundEnc rm neg (trigHalf false h k) 0 3 a

/-- tanh x (R297): below 2^−40 it lies just under x, from 32 on just under 1, else (E − 1)/(E + 1). -/
def tanhF (rm : Rm) (a : Nat) : Nat × Flags :=
  match fp32.unpack a with
  | .nan g => (fp32.nan, flagIf g flagIV)
  | .inf s => (fp32.withSign s 0x3F800000, flagNone)
  | .fin s m e =>
    if m = 0 then (a, flagNone)
    else
      let l : Int := (Nat.log2 m : Int) + e
      if l < -40 then roundExact fp32 rm s (m * 2 ^ 64 - 1) (e - 64)
      else if 5 ≤ l then roundExact fp32 rm s (2 ^ 64 - 1) (-64)
      else
        let one : Enc := ⟨fxOne, fxOne⟩
        let ee := encSquares 7 (encExp (encOf m (e - 6)))
        roundEnc rm s ((ee.sub one).div (ee.add one)) 0 4 a

end Sys2Proof.Machine
end

