-- ==== Sys2Proof/Machine/FloatInstr.lean ====
section
/-! DEFINITION. Floating-point and conversion instructions 0x40 to 0x9F (R358 to R377). -/
namespace Sys2Proof.Machine

/-- The rounding mode of FMODE (R291). -/
def rmOf (l : Lane) : Rm := (Rm.ofCode l.rm.toNat).getD .rne

/-- The FMODE of a lane of the issue. -/
def Iss.rm (i : Iss) (l : Nat) : Rm := rmOf (i.warp.lane l)

/-- A 32-bit result and its flags written (R358). -/
def Lane.setF (k : Lane) (row : Nat) (r : Nat × Flags) : Lane := (k.setReg row (BitVec.ofNat 32 r.1)).orFlags r.2

/-- A 64-bit result and its flags written (R358). -/
def Lane.setF64 (k : Lane) (row : Nat) (r : Nat × Flags) : Lane := (k.setPair row (BitVec.ofNat 64 r.1)).orFlags r.2

/-- A two-source FP32 form (R361). -/
def runFBin (s : State) (ins : Instr) (f : FmtR) (op : Rm → Nat → Nat → Nat × Flags) : Host.Outcome State Fault Refusal :=
  runLanes s ins f.e (usesBin f) fun _ i l k =>
    k.setF (i.row f.d.toNat) (op (i.rm l) (i.rd l f.a).toNat (i.rd l f.b).toNat)

/-- A form with D as a source, which is its first operand for E and for waiting (R360). -/
def usesFTri (f : FmtR) : List Use := [rwU f.d, srcU f.a, srcU f.b]

/-- A three-source FP32 form (R361). -/
def runFTri (s : State) (ins : Instr) (f : FmtR) (op : Rm → Nat → Nat → Nat → Nat × Flags) : Host.Outcome State Fault Refusal :=
  runLanes s ins f.e (usesFTri f) fun _ i l k =>
    k.setF (i.row f.d.toNat) (op (i.rm l) (i.rd l f.a).toNat (i.rd l f.b).toNat (i.rd l f.d).toNat)

/-- A one-source FP32 form (R363 to R365). -/
def runFUn (s : State) (ins : Instr) (f : FmtR1) (op : Rm → Nat → Nat × Flags) : Host.Outcome State Fault Refusal :=
  runLanes s ins f.e (usesUn f) fun _ i l k => k.setF (i.row f.d.toNat) (op (i.rm l) (i.rd l f.a).toNat)

/-- The elements of a packed register (R369). -/
def elt (w : Nat) (j : Nat) : Nat := w / 2 ^ (16 * j) % 2 ^ 16

/-- Two packed results and their flags together (R369). -/
def pack2 (r0 r1 : Nat × Flags) : Nat × Flags := (r0.1 + 2 ^ 16 * r1.1, r0.2 ||| r1.2)

/-- FADD (R361). -/
def execFadd (f : FmtR) (s : State) : Host.Outcome State Fault Refusal :=
  runFBin s (.fadd f) f fun rm a b => addF fp32 rm a b

/-- FSUB (R361). -/
def execFsub (f : FmtR) (s : State) : Host.Outcome State Fault Refusal :=
  runFBin s (.fsub f) f fun rm a b => subF fp32 rm a b

/-- FMUL (R361). -/
def execFmul (f : FmtR) (s : State) : Host.Outcome State Fault Refusal :=
  runFBin s (.fmul f) f fun rm a b => mulF fp32 rm a b

/-- FDIV (R361). -/
def execFdiv (f : FmtR) (s : State) : Host.Outcome State Fault Refusal :=
  runFBin s (.fdiv f) f fun rm a b => divFV fp32 rm (fp32.unpack a) (fp32.unpack b)

/-- FFMA (R361). -/
def execFfma (f : FmtR) (s : State) : Host.Outcome State Fault Refusal :=
  runFTri s (.ffma f) f fun rm a b d => fmaF fp32 rm false false a b d

/-- FFMS (R361). -/
def execFfms (f : FmtR) (s : State) : Host.Outcome State Fault Refusal :=
  runFTri s (.ffms f) f fun rm a b d => fmaF fp32 rm false true a b d

/-- FNMA (R361). -/
def execFnma (f : FmtR) (s : State) : Host.Outcome State Fault Refusal :=
  runFTri s (.fnma f) f fun rm a b d => fmaF fp32 rm true false a b d

/-- FMIN (R296, R362). -/
def execFmin (f : FmtR) (s : State) : Host.Outcome State Fault Refusal :=
  runFBin s (.fmin f) f fun _ a b => minMaxF fp32 false a b

/-- FMAX (R296, R362). -/
def execFmax (f : FmtR) (s : State) : Host.Outcome State Fault Refusal :=
  runFBin s (.fmax f) f fun _ a b => minMaxF fp32 true a b

/-- FABS (R363). -/
def execFabs (f : FmtR1) (s : State) : Host.Outcome State Fault Refusal :=
  runFUn s (.fabs f) f (fun _ a => absF fp32 a)

/-- FNEG (R363). -/
def execFneg (f : FmtR1) (s : State) : Host.Outcome State Fault Refusal :=
  runFUn s (.fneg f) f (fun _ a => negF fp32 a)

/-- FCLASS (R364). -/
def execFclass (f : FmtR1) (s : State) : Host.Outcome State Fault Refusal :=
  runFUn s (.fclass f) f (fun _ a => (2 ^ classF fp32 a, flagNone))

/-- FSQRT (R365). -/
def execFsqrt (f : FmtR1) (s : State) : Host.Outcome State Fault Refusal :=
  runFUn s (.fsqrt f) f (sqrtF fp32)

/-- FRCP (R365). -/
def execFrcp (f : FmtR1) (s : State) : Host.Outcome State Fault Refusal :=
  runFUn s (.frcp f) f (rcpF fp32)

/-- FRSQ (R365). -/
def execFrsq (f : FmtR1) (s : State) : Host.Outcome State Fault Refusal :=
  runFUn s (.frsq f) f (rsqrtF fp32)

/-- FEX2 (R365). -/
def execFex2 (f : FmtR1) (s : State) : Host.Outcome State Fault Refusal :=
  runFUn s (.fex2 f) f (ex2F)

/-- FLG2 (R365). -/
def execFlg2 (f : FmtR1) (s : State) : Host.Outcome State Fault Refusal :=
  runFUn s (.flg2 f) f (lg2F)

/-- FSIN (R365). -/
def execFsin (f : FmtR1) (s : State) : Host.Outcome State Fault Refusal :=
  runFUn s (.fsin f) f (trigF true)

/-- FCOS (R365). -/
def execFcos (f : FmtR1) (s : State) : Host.Outcome State Fault Refusal :=
  runFUn s (.fcos f) f (trigF false)

/-- FTANH (R365). -/
def execFtanh (f : FmtR1) (s : State) : Host.Outcome State Fault Refusal :=
  runFUn s (.ftanh f) f (tanhF)

/-- FRND (R366). -/
def execFrnd (f : FmtMR) (s : State) : Host.Outcome State Fault Refusal :=
  runLanes s (.frnd f) f.e [srcU f.a, dstU f.d] fun _ i l k => k.setF (i.row f.d.toNat) (rndF fp32 f.rm (i.rd l f.a).toNat)

/-- FSETP (R367). -/
def execFsetp (f : FmtCF) (s : State) : Host.Outcome State Fault Refusal :=
  runLanes s (.fsetp f) f.e [srcU f.a, srcU f.b] fun _ i l k =>
    let r := compareF f.cond (fp32.unpack (i.rd l f.a).toNat) (fp32.unpack (i.rd l f.b).toNat)
    (k.setPred f.pd r.1).orFlags r.2

/-- DSETP (R367). -/
def execDsetp (f : FmtCF) (s : State) : Host.Outcome State Fault Refusal :=
  runLanes s (.dsetp f) f.e [srcN f.a 2, srcN f.b 2] fun _ i l k =>
    let r := compareF f.cond (fp64.unpack (i.rd64 l f.a).toNat) (fp64.unpack (i.rd64 l f.b).toNat)
    (k.setPred f.pd r.1).orFlags r.2

/-- A two-source FP64 form (R368). -/
def runDBin (s : State) (ins : Instr) (f : FmtR) (op : Rm → Nat → Nat → Nat × Flags) : Host.Outcome State Fault Refusal :=
  runLanes s ins f.e (uses64 f) fun _ i l k =>
    k.setF64 (i.row f.d.toNat) (op (i.rm l) (i.rd64 l f.a).toNat (i.rd64 l f.b).toNat)

/-- DADD (R368). -/
def execDadd (f : FmtR) (s : State) : Host.Outcome State Fault Refusal := runDBin s (.dadd f) f (addF fp64)

/-- DMUL (R368). -/
def execDmul (f : FmtR) (s : State) : Host.Outcome State Fault Refusal := runDBin s (.dmul f) f (mulF fp64)

/-- DFMA (R368): D is its first operand (R360). -/
def execDfma (f : FmtR) (s : State) : Host.Outcome State Fault Refusal :=
  runLanes s (.dfma f) f.e [{ r := f.d.toNat, n := 2, dst := true }, srcN f.a 2, srcN f.b 2] fun _ i l k =>
    k.setF64 (i.row f.d.toNat)
      (fmaF fp64 (i.rm l) false false (i.rd64 l f.a).toNat (i.rd64 l f.b).toNat (i.rd64 l f.d).toNat)

/-- HADD2 (R369). -/
def execHadd2 (f : FmtR) (s : State) : Host.Outcome State Fault Refusal :=
  runFBin s (.hadd2 f) f fun rm a b => pack2 (addF fp16 rm (elt a 0) (elt b 0)) (addF fp16 rm (elt a 1) (elt b 1))

/-- HMUL2 (R369). -/
def execHmul2 (f : FmtR) (s : State) : Host.Outcome State Fault Refusal :=
  runFBin s (.hmul2 f) f fun rm a b => pack2 (mulF fp16 rm (elt a 0) (elt b 0)) (mulF fp16 rm (elt a 1) (elt b 1))

/-- HFMA2 (R369). -/
def execHfma2 (f : FmtR) (s : State) : Host.Outcome State Fault Refusal :=
  runFTri s (.hfma2 f) f fun rm a b d => pack2 (fmaF fp16 rm false false (elt a 0) (elt b 0) (elt d 0)) (fmaF fp16 rm false false (elt a 1) (elt b 1) (elt d 1))

/-- BADD2 (R369). -/
def execBadd2 (f : FmtR) (s : State) : Host.Outcome State Fault Refusal :=
  runFBin s (.badd2 f) f fun rm a b => pack2 (addF fmtBF16 rm (elt a 0) (elt b 0)) (addF fmtBF16 rm (elt a 1) (elt b 1))

/-- BMUL2 (R369). -/
def execBmul2 (f : FmtR) (s : State) : Host.Outcome State Fault Refusal :=
  runFBin s (.bmul2 f) f fun rm a b => pack2 (mulF fmtBF16 rm (elt a 0) (elt b 0)) (mulF fmtBF16 rm (elt a 1) (elt b 1))

/-- BFMA2 (R369). -/
def execBfma2 (f : FmtR) (s : State) : Host.Outcome State Fault Refusal :=
  runFTri s (.bfma2 f) f fun rm a b d => pack2 (fmaF fmtBF16 rm false false (elt a 0) (elt b 0) (elt d 0)) (fmaF fmtBF16 rm false false (elt a 1) (elt b 1) (elt d 1))

/-- FDOT2B (R370). -/
def execFdot2b (f : FmtR) (s : State) : Host.Outcome State Fault Refusal :=
  runFTri s (.fdot2b f) f fun rm a b d => dot2F fmtBF16 rm (elt a 0) (elt b 0) (elt a 1) (elt b 1) d

/-- FDOT2H (R370). -/
def execFdot2h (f : FmtR) (s : State) : Host.Outcome State Fault Refusal :=
  runFTri s (.fdot2h f) f fun rm a b d => dot2F fp16 rm (elt a 0) (elt b 0) (elt a 1) (elt b 1) d

/-- I2F (R371). -/
def execI2f (f : FmtMI) (s : State) : Host.Outcome State Fault Refusal :=
  runLanes s (.i2f f) f.e [srcN f.a (if f.w64 then 2 else 1), dstU f.d] fun _ i l k =>
    let v : Int := match f.w64, f.uns with
      | true, true => ((i.rd64 l f.a).toNat : Int)
      | true, false => (i.rd64 l f.a).toInt
      | false, true => ((i.rd l f.a).toNat : Int)
      | false, false => (i.rd l f.a).toInt
    k.setF (i.row f.d.toNat) (i2F f.rm v)

/-- The bounds of an integer format (R288, R372). -/
def intRange (w64 uns : Bool) : Int × Int :=
  match w64, uns with
  | true, true => (0, 2 ^ 64 - 1)
  | true, false => (-(2 ^ 63), 2 ^ 63 - 1)
  | false, true => (0, 2 ^ 32 - 1)
  | false, false => (-(2 ^ 31), 2 ^ 31 - 1)

/-- F2I (R372). -/
def execF2i (f : FmtMI) (s : State) : Host.Outcome State Fault Refusal :=
  runLanes s (.f2i f) f.e [srcU f.a, dstN f.d (if f.w64 then 2 else 1)] fun _ i l k =>
    let b := intRange f.w64 f.uns
    let r := f2I f.rm b.1 b.2 (i.rd l f.a).toNat
    if f.w64 then (k.setPair (i.row f.d.toNat) (BitVec.ofInt 64 r.1)).orFlags r.2
    else (k.setReg (i.row f.d.toNat) (BitVec.ofInt 32 r.1)).orFlags r.2

/-- Registers a float format takes (R373). -/
def f2Regs (g : F2Fmt) : Nat := if g = .f64 then 2 else 1

/-- F2F (R373). -/
def execF2f (f : FmtMF) (s : State) : Host.Outcome State Fault Refusal :=
  runLanes s (.f2f f) f.e [srcN f.a (f2Regs f.src), dstN f.d (f2Regs f.dst)] fun _ i l k =>
    let a := match f.src with
      | .f64 => (i.rd64 l f.a).toNat
      | .f32 => (i.rd l f.a).toNat
      | _ => (i.rd l f.a).toNat % 2 ^ 16
    let r := f2F f.src f.dst f.rm a
    if f.dst = .f64 then k.setF64 (i.row f.d.toNat) r else k.setF (i.row f.d.toNat) r

/-- The word of a format slot of the grid (R165, R289). -/
def Iss.slot (i : Iss) (k : BitVec 3) : Word := (i.grid.record.fslot[k.toNat]?).getD 0

/-- SCL (R374). -/
def execScl (f : FmtMS) (s : State) : Host.Outcome State Fault Refusal :=
  runLanes s (.scl f) f.e [srcU f.a, dstU f.d] fun _ i l k =>
    k.setF (i.row f.d.toNat) (sclCode (slotElem (i.slot f.slot)) (i.rd l f.a).toNat)

/-- Registers of the packed side of CVTW4 and CVTN4 (R375, R376). -/
def packRegs (slot : Word) : Nat := (slotElem slot).bytes

/-- B as a source, read in scale mode 1 only (R375). -/
def scaleUse (slot : Word) (b : RegNo) : List Use := if slotMode slot = 1 then [srcU b] else []

/-- The scale a lane's conversion uses (R290, R375). -/
def Iss.scale (i : Iss) (l : Nat) (slot : Word) (b : RegNo) (s : BitVec 2) : FV :=
  scaleOf slot ((i.rd l b).toNat / 2 ^ (8 * s.toNat) % 256)

/-- `n` registers from a group as one number (R375). -/
def Iss.rdGroup (i : Iss) (l : Nat) (r : RegNo) : Nat → Nat
  | 0 => 0
  | n + 1 => i.rdGroup l r n + 2 ^ (32 * n) * (i.rdN l r n).toNat

/-- `n` registers written from one number. -/
def Lane.setGroup (k : Lane) (row : Nat) (v : Nat) : Nat → Lane
  | 0 => k
  | n + 1 => (k.setGroup row v n).setReg (row + n) (BitVec.ofNat 32 (v / 2 ^ (32 * n)))

/-- CVTW4 (R375). The registers depend on the grid's slot, so they are named once the issue is known. -/
def execCvtw4 (f : FmtCvtw) (s : State) : Host.Outcome State Fault Refusal :=
  match s.issue with
  | none => .next s
  | some i =>
    let slot := i.slot f.k
    .next (checked s i (.cvtw4 f) false (srcN f.a (packRegs slot) :: scaleUse slot f.b ++ [dstN f.d 4]) fun s i =>
      .go (commit s i (i.next s.len fun l k =>
        let w := 8 * (slotElem slot).bytes
        let v := i.rdGroup l f.a (packRegs slot)
        let r (j : Nat) := widen (slotElem slot) (i.scale l slot f.b f.s) (v / 2 ^ (w * j) % 2 ^ w)
        (((k.setF (i.row f.d.toNat) (r 0)).setF (i.row f.d.toNat + 1) (r 1)).setF (i.row f.d.toNat + 2) (r 2)).setF
          (i.row f.d.toNat + 3) (r 3)) false))

/-- The four narrowed elements of a lane (R376). -/
def Iss.narrow4 (i : Iss) (l : Nat) (f : FmtCvtn) (slot : Word) (ovf : Ovf) : List Narrowed :=
  (List.range 4).map fun j => narrow (slotElem slot) (i.scale l slot f.b f.s) ovf (i.rdN l f.a j).toNat

/-- The elements packed (R376). -/
def packNarrow (w : Nat) : List Narrowed → Nat
  | [] => 0
  | x :: xs => x.code + 2 ^ w * packNarrow w xs

/-- The flags of the elements; those of an overflowing element count unless the policy is TRAP (R377). -/
def narrowFlags (ovf : Ovf) (xs : List Narrowed) : Flags :=
  xs.foldl (fun a x => if x.spills && ovf == .trap then a else a ||| x.flags) 0

/-- The lowest active non-helper lane with an overflowing element, and that element (R377). -/
def Iss.narrowTrap (i : Iss) (f : FmtCvtn) (slot : Word) : Option (Nat × Nat) :=
  i.act.findSome? fun l =>
    (List.range 4).findSome? fun j =>
      match (i.narrow4 l f slot f.ovf)[j]? with
      | some x => if x.spills then some (l, j) else none
      | none => none

/-- CVTN4 (R376, R377). -/
def execCvtn4 (f : FmtCvtn) (s : State) : Host.Outcome State Fault Refusal :=
  match s.issue with
  | none => .next s
  | some i =>
    let slot := i.slot f.k
    .next (checked s i (.cvtn4 f) false (srcN f.a 4 :: scaleUse slot f.b ++ [dstN f.d (packRegs slot)]) fun s i =>
      match (if f.ovf = .trap then i.narrowTrap f slot else none) with
      | some (l, j) => .trap { cause := causeOVF, info := BitVec.ofNat 32 (l + 32 * j), lane := l }
      | none =>
        .go (commit s i (i.next s.len fun l k =>
          let xs := i.narrow4 l f slot f.ovf
          (k.setGroup (i.row f.d.toNat) (packNarrow (8 * (slotElem slot).bytes) xs) (packRegs slot)).orFlags
            (narrowFlags f.ovf xs)) false))

end Sys2Proof.Machine
end

