-- ==== Sys2Proof/Machine/Dispatch.lean ====
section
/-! DEFINITION. The dispatch of `exec`: one arm per constructor of `Instr`, each one direct call of its meaning. -/
namespace Sys2Proof.Machine

def exec (i : Instr) (s : State) : Host.Outcome State Fault Refusal :=
  match i with
  | .nop => Sys2Proof.Machine.execNop s
  | .pblk f => Sys2Proof.Machine.execPblk f s
  | .imx f => Sys2Proof.Machine.execImx f s
  | .bra f => Sys2Proof.Machine.execBra f s
  | .jmp f => Sys2Proof.Machine.execJmp f s
  | .call f => Sys2Proof.Machine.execCall f s
  | .jmpi f => Sys2Proof.Machine.execJmpi f s
  | .calli f => Sys2Proof.Machine.execCalli f s
  | .setprio f => Sys2Proof.Machine.execSetprio f s
  | .exit => Sys2Proof.Machine.execExit s
  | .winb f => Sys2Proof.Machine.execWinb f s
  | .yield => Sys2Proof.Machine.execYield s
  | .brk f => Sys2Proof.Machine.execBrk f s
  | .trap f => Sys2Proof.Machine.execTrap f s
  | .rft => Sys2Proof.Machine.execRft s
  | .iadd f => Sys2Proof.Machine.execIadd f s
  | .isub f => Sys2Proof.Machine.execIsub f s
  | .imul f => Sys2Proof.Machine.execImul f s
  | .imulh f => Sys2Proof.Machine.execImulh f s
  | .imulhu f => Sys2Proof.Machine.execImulhu f s
  | .imad f => Sys2Proof.Machine.execImad f s
  | .imad64 f => Sys2Proof.Machine.execImad64 f s
  | .imad64u f => Sys2Proof.Machine.execImad64u f s
  | .iadd64 f => Sys2Proof.Machine.execIadd64 f s
  | .isub64 f => Sys2Proof.Machine.execIsub64 f s
  | .idiv f => Sys2Proof.Machine.execIdiv f s
  | .idivu f => Sys2Proof.Machine.execIdivu f s
  | .irem f => Sys2Proof.Machine.execIrem f s
  | .iremu f => Sys2Proof.Machine.execIremu f s
  | .min f => Sys2Proof.Machine.execMin f s
  | .max f => Sys2Proof.Machine.execMax f s
  | .minu f => Sys2Proof.Machine.execMinu f s
  | .maxu f => Sys2Proof.Machine.execMaxu f s
  | .abs f => Sys2Proof.Machine.execAbs f s
  | .and f => Sys2Proof.Machine.execAnd f s
  | .or f => Sys2Proof.Machine.execOr f s
  | .xor f => Sys2Proof.Machine.execXor f s
  | .andn f => Sys2Proof.Machine.execAndn f s
  | .shl f => Sys2Proof.Machine.execShl f s
  | .shr f => Sys2Proof.Machine.execShr f s
  | .sar f => Sys2Proof.Machine.execSar f s
  | .rotl f => Sys2Proof.Machine.execRotl f s
  | .popc f => Sys2Proof.Machine.execPopc f s
  | .clz f => Sys2Proof.Machine.execClz f s
  | .brev f => Sys2Proof.Machine.execBrev f s
  | .bfe f => Sys2Proof.Machine.execBfe f s
  | .bfi f => Sys2Proof.Machine.execBfi f s
  | .bpick f => Sys2Proof.Machine.execBpick f s
  | .leaX1 f => Sys2Proof.Machine.execLeaX1 f s
  | .leaX2 f => Sys2Proof.Machine.execLeaX2 f s
  | .leaX4 f => Sys2Proof.Machine.execLeaX4 f s
  | .leaX8 f => Sys2Proof.Machine.execLeaX8 f s
  | .idot4 f => Sys2Proof.Machine.execIdot4 f s
  | .idot4u f => Sys2Proof.Machine.execIdot4u f s
  | .isetp f => Sys2Proof.Machine.execIsetp f s
  | .sel f => Sys2Proof.Machine.execSel f s
  | .mov f => Sys2Proof.Machine.execMov f s
  | .movi f => Sys2Proof.Machine.execMovi f s
  | .iaddi f => Sys2Proof.Machine.execIaddi f s
  | .andi f => Sys2Proof.Machine.execAndi f s
  | .ori f => Sys2Proof.Machine.execOri f s
  | .xori f => Sys2Proof.Machine.execXori f s
  | .shi f => Sys2Proof.Machine.execShi f s
  | .fadd f => Sys2Proof.Machine.execFadd f s
  | .fsub f => Sys2Proof.Machine.execFsub f s
  | .fmul f => Sys2Proof.Machine.execFmul f s
  | .ffma f => Sys2Proof.Machine.execFfma f s
  | .ffms f => Sys2Proof.Machine.execFfms f s
  | .fnma f => Sys2Proof.Machine.execFnma f s
  | .fmin f => Sys2Proof.Machine.execFmin f s
  | .fmax f => Sys2Proof.Machine.execFmax f s
  | .fabs f => Sys2Proof.Machine.execFabs f s
  | .fneg f => Sys2Proof.Machine.execFneg f s
  | .fsetp f => Sys2Proof.Machine.execFsetp f s
  | .fclass f => Sys2Proof.Machine.execFclass f s
  | .frnd f => Sys2Proof.Machine.execFrnd f s
  | .fdiv f => Sys2Proof.Machine.execFdiv f s
  | .fsqrt f => Sys2Proof.Machine.execFsqrt f s
  | .frcp f => Sys2Proof.Machine.execFrcp f s
  | .frsq f => Sys2Proof.Machine.execFrsq f s
  | .fex2 f => Sys2Proof.Machine.execFex2 f s
  | .flg2 f => Sys2Proof.Machine.execFlg2 f s
  | .fsin f => Sys2Proof.Machine.execFsin f s
  | .fcos f => Sys2Proof.Machine.execFcos f s
  | .ftanh f => Sys2Proof.Machine.execFtanh f s
  | .dadd f => Sys2Proof.Machine.execDadd f s
  | .dmul f => Sys2Proof.Machine.execDmul f s
  | .dfma f => Sys2Proof.Machine.execDfma f s
  | .dsetp f => Sys2Proof.Machine.execDsetp f s
  | .hadd2 f => Sys2Proof.Machine.execHadd2 f s
  | .hmul2 f => Sys2Proof.Machine.execHmul2 f s
  | .hfma2 f => Sys2Proof.Machine.execHfma2 f s
  | .badd2 f => Sys2Proof.Machine.execBadd2 f s
  | .bmul2 f => Sys2Proof.Machine.execBmul2 f s
  | .bfma2 f => Sys2Proof.Machine.execBfma2 f s
  | .fdot2b f => Sys2Proof.Machine.execFdot2b f s
  | .fdot2h f => Sys2Proof.Machine.execFdot2h f s
  | .i2f f => Sys2Proof.Machine.execI2f f s
  | .f2i f => Sys2Proof.Machine.execF2i f s
  | .f2f f => Sys2Proof.Machine.execF2f f s
  | .scl f => Sys2Proof.Machine.execScl f s
  | .cvtw4 f => Sys2Proof.Machine.execCvtw4 f s
  | .cvtn4 f => Sys2Proof.Machine.execCvtn4 f s
  | .ld f => Sys2Proof.Machine.execLd f s
  | .st f => Sys2Proof.Machine.execSt f s
  | .lds f => Sys2Proof.Machine.execLds f s
  | .sts f => Sys2Proof.Machine.execSts f s
  | .ldl f => Sys2Proof.Machine.execLdl f s
  | .stl f => Sys2Proof.Machine.execStl f s
  | .ldp f => Sys2Proof.Machine.execLdp f s
  | .prf f => Sys2Proof.Machine.execPrf f s
  | .spres f => Sys2Proof.Machine.execSpres f s
  | .fence f => Sys2Proof.Machine.execFence f s
  | .cctlClean f => Sys2Proof.Machine.execCctlClean f s
  | .cctlInval f => Sys2Proof.Machine.execCctlInval f s
  | .cctlCleanAll f => Sys2Proof.Machine.execCctlCleanAll f s
  | .gpriv f => Sys2Proof.Machine.execGpriv f s
  | .ispace f => Sys2Proof.Machine.execIspace f s
  | .atom f => Sys2Proof.Machine.execAtom f s
  | .red f => Sys2Proof.Machine.execRed f s
  | .atoms f => Sys2Proof.Machine.execAtoms f s
  | .hopen f => Sys2Proof.Machine.execHopen f s
  | .hset f => Sys2Proof.Machine.execHset f s
  | .hget f => Sys2Proof.Machine.execHget f s
  | .hconf f => Sys2Proof.Machine.execHconf f s
  | .href f => Sys2Proof.Machine.execHref f s
  | .hstat f => Sys2Proof.Machine.execHstat f s
  | .bar f => Sys2Proof.Machine.execBar f s
  | .bara f => Sys2Proof.Machine.execBara f s
  | .barw f => Sys2Proof.Machine.execBarw f s
  | .waitc f => Sys2Proof.Machine.execWaitc f s
  | .stgwImm f => Sys2Proof.Machine.execStgwImm f s
  | .stgwReg f => Sys2Proof.Machine.execStgwReg f s
  | .stgaImm f => Sys2Proof.Machine.execStgaImm f s
  | .stgaReg f => Sys2Proof.Machine.execStgaReg f s
  | .ftest f => Sys2Proof.Machine.execFtest f s
  | .fcan f => Sys2Proof.Machine.execFcan f s
  | .fwait f => Sys2Proof.Machine.execFwait f s
  | .elect f => Sys2Proof.Machine.execElect f s
  | .time f => Sys2Proof.Machine.execTime f s
  | .clk f => Sys2Proof.Machine.execClk f s
  | .fid f => Sys2Proof.Machine.execFid f s
  | .mjoin f => Sys2Proof.Machine.execMjoin f s
  | .mleave f => Sys2Proof.Machine.execMleave f s
  | .mwait f => Sys2Proof.Machine.execMwait f s
  | .mld f => Sys2Proof.Machine.execMld f s
  | .mst f => Sys2Proof.Machine.execMst f s
  | .mact f => Sys2Proof.Machine.execMact f s
  | .qswp f => Sys2Proof.Machine.execQswp f s
  | .qbc f => Sys2Proof.Machine.execQbc f s
  | .qhlp f => Sys2Proof.Machine.execQhlp f s
  | .wshfl f => Sys2Proof.Machine.execWshfl f s
  | .wvote f => Sys2Proof.Machine.execWvote f s
  | .wred f => Sys2Proof.Machine.execWred f s
  | .wscan f => Sys2Proof.Machine.execWscan f s
  | .pset f => Sys2Proof.Machine.execPset f s
  | .pld f => Sys2Proof.Machine.execPld f s
  | .pst f => Sys2Proof.Machine.execPst f s
  | .mma f => Sys2Proof.Machine.execMma f s
  | .mmap f => Sys2Proof.Machine.execMmap f s
  | .tld f => Sys2Proof.Machine.execTld f s
  | .tst f => Sys2Proof.Machine.execTst f s
  | .tzero f => Sys2Proof.Machine.execTzero f s
  | .tfree f => Sys2Proof.Machine.execTfree f s
  | .cpy f => Sys2Proof.Machine.execCpy f s
  | .cpyt f => Sys2Proof.Machine.execCpyt f s
  | .cpym f => Sys2Proof.Machine.execCpym f s
  | .lxf f => Sys2Proof.Machine.execLxf f s
  | .tkw f => Sys2Proof.Machine.execTkw f s
  | .tkwBar f => Sys2Proof.Machine.execTkwBar f s
  | .tkwBarw f => Sys2Proof.Machine.execTkwBarw f s
  | .tkt f => Sys2Proof.Machine.execTkt f s
  | .tktBar f => Sys2Proof.Machine.execTktBar f s
  | .spclr f => Sys2Proof.Machine.execSpclr f s
  | .spset f => Sys2Proof.Machine.execSpset f s
  | .srd f => Sys2Proof.Machine.execSrd f s
  | .swr f => Sys2Proof.Machine.execSwr f s
  | .coldReset facts => Sys2Proof.Machine.execColdReset facts s
  | .bootStepFailure f => Sys2Proof.Machine.execBootStepFailure f s
  | .hartStart c addr arg => Sys2Proof.Machine.execHartStart c addr arg s
  | .inputVoltageFault => Sys2Proof.Machine.execInputVoltageFault s
  | .controllerLockstepMismatch => Sys2Proof.Machine.execControllerLockstepMismatch s
  | .sensorPoll readings => Sys2Proof.Machine.execSensorPoll readings s
  | .pldmMonitoringRequest id => Sys2Proof.Machine.execPldmMonitoringRequest id s
  | .pldmFirmwareUpdate images => Sys2Proof.Machine.execPldmFirmwareUpdate images s
  | .pldmFreeze => Sys2Proof.Machine.execPldmFreeze s
  | .pldmUnfreeze readout => Sys2Proof.Machine.execPldmUnfreeze readout s
  | .pldmColdResetRequest => Sys2Proof.Machine.execPldmColdResetRequest s
  | .getVersion => Sys2Proof.Machine.execGetVersion s
  | .getCapabilities => Sys2Proof.Machine.execGetCapabilities s
  | .negotiateAlgorithms asym hash => Sys2Proof.Machine.execNegotiateAlgorithms asym hash s
  | .getDigests => Sys2Proof.Machine.execGetDigests s
  | .getCertificate off len => Sys2Proof.Machine.execGetCertificate off len s
  | .challenge nonce => Sys2Proof.Machine.execChallenge nonce s
  | .getMeasurements index => Sys2Proof.Machine.execGetMeasurements index s
  | .ptpMessage c seq m => Sys2Proof.Machine.execPtpMessage c seq m s
  | .flitReceive link flit req => Sys2Proof.Machine.execFlitReceive link flit req s
  | .retryRequest link seq => Sys2Proof.Machine.execRetryRequest link seq s
  | .linkRetrainComplete link => Sys2Proof.Machine.execLinkRetrainComplete link s
  | .linkDown link => Sys2Proof.Machine.execLinkDown link s
  | .peerUnreach peer => Sys2Proof.Machine.execPeerUnreach peer s
  | .tlbinv c base len => Sys2Proof.Machine.execTlbinv c base len s
  | .qreg c pl => Sys2Proof.Machine.execQreg c pl s
  | .qunreg c q => Sys2Proof.Machine.execQunreg c q s
  | .faultack c serial act => Sys2Proof.Machine.execFaultack c serial act s
  | .partinfo c => Sys2Proof.Machine.execPartinfo c s
  | .plugload c addr len ctl => Sys2Proof.Machine.execPlugload c addr len ctl s
  | .ckpt c slot => Sys2Proof.Machine.execCkpt c slot s
  | .checkpointComplete ok bytes status => Sys2Proof.Machine.execCheckpointComplete ok bytes status s
  | .restore c slot ok bytes status => Sys2Proof.Machine.execRestore c slot ok bytes status s
  | .pluginBudgetExpiry vf => Sys2Proof.Machine.execPluginBudgetExpiry vf s
  | .repartition part dest allot => Sys2Proof.Machine.execRepartition part dest allot s
  | .partAllotWrite part v => Sys2Proof.Machine.execPartAllotWrite part v s
  | .coreInjWrite core v => Sys2Proof.Machine.execCoreInjWrite core v s
  | .registerWrite a v => Sys2Proof.Machine.execRegisterWrite a v s
  | .meterUpdate part power => Sys2Proof.Machine.execMeterUpdate part power s
  | .boostBoundary part => Sys2Proof.Machine.execBoostBoundary part s
  | .permitRefill cluster => Sys2Proof.Machine.execPermitRefill cluster s
  | .ratioSwitchComplete cluster => Sys2Proof.Machine.execRatioSwitchComplete cluster s
  | .droopAlarm d => Sys2Proof.Machine.execDroopAlarm d s
  | .droopSpanEnd cluster => Sys2Proof.Machine.execDroopSpanEnd cluster s
  | .releaseWave cluster => Sys2Proof.Machine.execReleaseWave cluster s
  | .idleEntry part => Sys2Proof.Machine.execIdleEntry part s
  | .idleExit part => Sys2Proof.Machine.execIdleExit part s
  | .hbmThermalStage stack temp => Sys2Proof.Machine.execHbmThermalStage stack temp s
  | .notify vf q t => Sys2Proof.Machine.execNotify vf q t s
  | .launch vf q pl => Sys2Proof.Machine.execLaunch vf q pl s
  | .launchComplete grid => Sys2Proof.Machine.execLaunchComplete grid s
  | .signalCmd vf q => Sys2Proof.Machine.execSignalCmd vf q s
  | .waitCmd vf q => Sys2Proof.Machine.execWaitCmd vf q s
  | .waitReevaluate vf q => Sys2Proof.Machine.execWaitReevaluate vf q s
  | .waitTimeout vf q => Sys2Proof.Machine.execWaitTimeout vf q s
  | .setGate vf q => Sys2Proof.Machine.execSetGate vf q s
  | .clearGate vf q => Sys2Proof.Machine.execClearGate vf q s
  | .setCycle vf q => Sys2Proof.Machine.execSetCycle vf q s
  | .tableBoundary part => Sys2Proof.Machine.execTableBoundary part s
  | .unknownOpCommand vf q => Sys2Proof.Machine.execUnknownOpCommand vf q s
  | .queueFence vf q => Sys2Proof.Machine.execQueueFence vf q s
  | .exportCmd vf q => Sys2Proof.Machine.execExportCmd vf q s
  | .importCmd vf q pl => Sys2Proof.Machine.execImportCmd vf q pl s
  | .irqTimeExpiry vf q => Sys2Proof.Machine.execIrqTimeExpiry vf q s
  | .gateInstanceStart part gate => Sys2Proof.Machine.execGateInstanceStart part gate s
  | .gateInstanceComplete part gate => Sys2Proof.Machine.execGateInstanceComplete part gate s
  | .deadlineMiss part gate inst => Sys2Proof.Machine.execDeadlineMiss part gate inst s
  | .teamPlace part => Sys2Proof.Machine.execTeamPlace part s
  | .placementReservation part => Sys2Proof.Machine.execPlacementReservation part s
  | .teamPark team => Sys2Proof.Machine.execTeamPark team s
  | .teamWake team => Sys2Proof.Machine.execTeamWake team s
  | .preemptRequest part pl => Sys2Proof.Machine.execPreemptRequest part pl s
  | .drainTimeout team => Sys2Proof.Machine.execDrainTimeout team s
  | .saveComplete team => Sys2Proof.Machine.execSaveComplete team s
  | .teamLeave team => Sys2Proof.Machine.execTeamLeave team s
  | .check team warp slow keep differs inval => Sys2Proof.Machine.execCheck team warp slow keep differs inval s
  | .coreSelfTest core pass => Sys2Proof.Machine.execCoreSelfTest core pass s
  | .strikeReport cluster cores => Sys2Proof.Machine.execStrikeReport cluster cores s
  | .holdRelease core => Sys2Proof.Machine.execHoldRelease core s
  | .undoLogRetire core => Sys2Proof.Machine.execUndoLogRetire core s
  | .dualcoreMismatch team warp lane back => Sys2Proof.Machine.execDualcoreMismatch team warp lane back s
  | .eccCorrected unit row by_ => Sys2Proof.Machine.execEccCorrected unit row by_ s
  | .cbfClear => Sys2Proof.Machine.execCbfClear s
  | .eccUncorrectable at_ n unit team => Sys2Proof.Machine.execEccUncorrectable at_ n unit team s
  | .tagError at_ => Sys2Proof.Machine.execTagError at_ s
  | .partitionTeardown part unit => Sys2Proof.Machine.execPartitionTeardown part unit s
  | .kBlockComplete core differs => Sys2Proof.Machine.execKBlockComplete core differs s
  | .matrixOpStart core => Sys2Proof.Machine.execMatrixOpStart core s
  | .pairWatchdog core => Sys2Proof.Machine.execPairWatchdog core s
  | .layoutCommandStart cluster => Sys2Proof.Machine.execLayoutCommandStart cluster s
  | .copyComplete key => Sys2Proof.Machine.execCopyComplete key s
  | .lineLand key line => Sys2Proof.Machine.execLineLand key line s
  | .loadFill key => Sys2Proof.Machine.execLoadFill key s
  | .atomicReturn key => Sys2Proof.Machine.execAtomicReturn key s
  | .publishTimeout core => Sys2Proof.Machine.execPublishTimeout core s
  | .faultEntry vf serial pl => Sys2Proof.Machine.execFaultEntry vf serial pl s
  | .pageFaultRepost vf serial => Sys2Proof.Machine.execPageFaultRepost vf serial s
  | .resolvePoint key => Sys2Proof.Machine.execResolvePoint key s
  | .resolveComplete key => Sys2Proof.Machine.execResolveComplete key s
  | .orphanTrap team warp lane => Sys2Proof.Machine.execOrphanTrap team warp lane s
  | .barrierWatchdog team bar => Sys2Proof.Machine.execBarrierWatchdog team bar s
  | .waitcEvaluate key => Sys2Proof.Machine.execWaitcEvaluate key s
  | .waitcTimeout key => Sys2Proof.Machine.execWaitcTimeout key s
  | .functionLevelReset vf => Sys2Proof.Machine.execFunctionLevelReset vf s
  | .destinationLineWrite key line => Sys2Proof.Machine.execDestinationLineWrite key line s
  | .applicationCoreAccess hart acc => Sys2Proof.Machine.execApplicationCoreAccess hart acc s

end Sys2Proof.Machine
end

