-- ==== Sys2Proof/Machine/Riscv.lean ====
section
/-! DEFINITION. The integer instructions of RV64IMAC with Zicsr, and the privileged ones, of application and firmware cores
(R45, R55), which the spec takes from RISC-V by name (log 60): what one asks of its core. -/
namespace Sys2Proof.Machine

/-! ## Fields of a word -/

/-- Bits `hi` to `lo` of a word. -/
def bitsAt (w hi lo : Nat) : Nat := w / 2 ^ lo % 2 ^ (hi + 1 - lo)

/-- An `n`-bit number with its sign, as 64 bits. -/
def sextN (n v : Nat) : Nat := if v.testBit (n - 1) then (v % 2 ^ n + 2 ^ 64 - 2 ^ n) % 2 ^ 64 else v % 2 ^ n

def rvImmI (w : Nat) : Nat := sextN 12 (bitsAt w 31 20)
def rvImmS (w : Nat) : Nat := sextN 12 (bitsAt w 31 25 * 32 + bitsAt w 11 7)
def rvImmB (w : Nat) : Nat := sextN 13 (bitsAt w 31 31 * 2 ^ 12 + bitsAt w 7 7 * 2 ^ 11 + bitsAt w 30 25 * 32 + bitsAt w 11 8 * 2)
def rvImmU (w : Nat) : Nat := sextN 32 (bitsAt w 31 12 * 2 ^ 12)
def rvImmJ (w : Nat) : Nat := sextN 21 (bitsAt w 31 31 * 2 ^ 20 + bitsAt w 19 12 * 2 ^ 12 + bitsAt w 20 20 * 2 ^ 11 + bitsAt w 30 21 * 2)

/-! ## Words of the compressed instructions' equivalents -/

def rvR (op f3 f7 rd rs1 rs2 : Nat) : Nat := op + rd * 2 ^ 7 + f3 * 2 ^ 12 + rs1 * 2 ^ 15 + rs2 * 2 ^ 20 + f7 * 2 ^ 25
def rvI (op f3 rd rs1 imm : Nat) : Nat := op + rd * 2 ^ 7 + f3 * 2 ^ 12 + rs1 * 2 ^ 15 + imm % 2 ^ 12 * 2 ^ 20
def rvS (f3 rs1 rs2 imm : Nat) : Nat := 0x23 + imm % 32 * 2 ^ 7 + f3 * 2 ^ 12 + rs1 * 2 ^ 15 + rs2 * 2 ^ 20 + imm / 32 % 128 * 2 ^ 25
def rvB (f3 rs1 imm : Nat) : Nat :=
  0x63 + bitsAt imm 11 11 * 2 ^ 7 + bitsAt imm 4 1 * 2 ^ 8 + f3 * 2 ^ 12 + rs1 * 2 ^ 15 + bitsAt imm 10 5 * 2 ^ 25 + bitsAt imm 12 12 * 2 ^ 31
def rvJ (rd imm : Nat) : Nat :=
  0x6F + rd * 2 ^ 7 + bitsAt imm 19 12 * 2 ^ 12 + bitsAt imm 11 11 * 2 ^ 20 + bitsAt imm 10 1 * 2 ^ 21 + bitsAt imm 20 20 * 2 ^ 31

/-- Whether a 16-bit word is a load or store of floating point. -/
def rvcFloat (h : Nat) : Bool :=
  let f3 := bitsAt h 15 13
  (h % 4 == 0 || h % 4 == 2) && (f3 == 1 || f3 == 5)

/-- The 32-bit equivalent of a 16-bit integer instruction; none where it is reserved. -/
def rvcWord (h : Nat) : Option Nat :=
  let f3 := bitsAt h 15 13
  let rd := bitsAt h 11 7
  let r2 := bitsAt h 6 2
  let p := 8 + bitsAt h 4 2
  let q := 8 + bitsAt h 9 7
  let imm6 := sextN 6 (bitsAt h 12 12 * 32 + r2)
  let sh := bitsAt h 12 12 * 32 + r2
  let offW := bitsAt h 12 10 * 8 + bitsAt h 6 6 * 4 + bitsAt h 5 5 * 64
  let offD := bitsAt h 12 10 * 8 + bitsAt h 6 5 * 64
  match h % 4, f3 with
  | 0, 0 =>
    let u := bitsAt h 12 11 * 16 + bitsAt h 10 7 * 64 + bitsAt h 6 6 * 4 + bitsAt h 5 5 * 8
    if u = 0 then none else some (rvI 0x13 0 p 2 u)
  | 0, 2 => some (rvI 0x03 2 p q offW)
  | 0, 3 => some (rvI 0x03 3 p q offD)
  | 0, 6 => some (rvS 2 q p offW)
  | 0, 7 => some (rvS 3 q p offD)
  | 1, 0 => some (rvI 0x13 0 rd rd imm6)
  | 1, 1 => if rd = 0 then none else some (rvI 0x1B 0 rd rd imm6)
  | 1, 2 => some (rvI 0x13 0 rd 0 imm6)
  | 1, 3 =>
    if rd = 2 then
      let n := sextN 10 (bitsAt h 12 12 * 512 + bitsAt h 6 6 * 16 + bitsAt h 5 5 * 64 + bitsAt h 4 3 * 128 + bitsAt h 2 2 * 32)
      if n = 0 then none else some (rvI 0x13 0 2 2 n)
    else if sh = 0 then none else some (0x37 + rd * 2 ^ 7 + imm6 % 2 ^ 20 * 2 ^ 12)
  | 1, 4 =>
    match bitsAt h 11 10, bitsAt h 12 12, bitsAt h 6 5 with
    | 0, _, _ => some (rvI 0x13 5 q q sh)
    | 1, _, _ => some (rvI 0x13 5 q q (1024 + sh))
    | 2, _, _ => some (rvI 0x13 7 q q imm6)
    | _, 0, 0 => some (rvR 0x33 0 32 q q p)
    | _, 0, 1 => some (rvR 0x33 4 0 q q p)
    | _, 0, 2 => some (rvR 0x33 6 0 q q p)
    | _, 0, _ => some (rvR 0x33 7 0 q q p)
    | _, _, 0 => some (rvR 0x3B 0 32 q q p)
    | _, _, 1 => some (rvR 0x3B 0 0 q q p)
    | _, _, _ => none
  | 1, 5 =>
    some (rvJ 0 (sextN 12 (bitsAt h 12 12 * 2 ^ 11 + bitsAt h 11 11 * 16 + bitsAt h 10 9 * 256 + bitsAt h 8 8 * 1024 + bitsAt h 7 7 * 64 +
      bitsAt h 6 6 * 128 + bitsAt h 5 3 * 2 + bitsAt h 2 2 * 32)))
  | 1, n =>
    some (rvB (n - 6) q (sextN 9 (bitsAt h 12 12 * 256 + bitsAt h 11 10 * 8 + bitsAt h 6 5 * 64 + bitsAt h 4 3 * 2 + bitsAt h 2 2 * 32)))
  | 2, 0 => some (rvI 0x13 1 rd rd sh)
  | 2, 2 => if rd = 0 then none else some (rvI 0x03 2 rd 2 (bitsAt h 12 12 * 32 + bitsAt h 6 4 * 4 + bitsAt h 3 2 * 64))
  | 2, 3 => if rd = 0 then none else some (rvI 0x03 3 rd 2 (bitsAt h 12 12 * 32 + bitsAt h 6 5 * 8 + bitsAt h 4 2 * 64))
  | 2, 4 =>
    if bitsAt h 12 12 = 0 then
      (if r2 ≠ 0 then some (rvR 0x33 0 0 rd 0 r2) else if rd = 0 then none else some (rvI 0x67 0 0 rd 0))
    else if r2 ≠ 0 then some (rvR 0x33 0 0 rd rd r2)
    else if rd = 0 then some 0x00100073 else some (rvI 0x67 0 1 rd 0)
  | 2, 6 => some (rvS 2 2 r2 (bitsAt h 12 9 * 4 + bitsAt h 8 7 * 64))
  | 2, 7 => some (rvS 3 2 r2 (bitsAt h 12 10 * 8 + bitsAt h 9 7 * 64))
  | _, _ => none

/-! ## Arithmetic -/

/-- The low 32 bits with their sign. -/
def sext32 (v : DWord) : DWord := (v.setWidth 32).signExtend 64

/-- The operations of OP and OP-IMM. -/
def rvAlu (f3 : Nat) (alt : Bool) (a b : DWord) : DWord :=
  let n := b.toNat % 64
  match f3 with
  | 0 => if alt then a - b else a + b
  | 1 => a <<< n
  | 2 => if a.slt b then 1 else 0
  | 3 => if a.ult b then 1 else 0
  | 4 => a ^^^ b
  | 5 => if alt then a.sshiftRight n else a >>> n
  | 6 => a ||| b
  | _ => a &&& b

/-- The operations on words of OP-32 and OP-IMM-32. -/
def rvAluW (f3 : Nat) (alt : Bool) (a b : DWord) : DWord :=
  let x : Word := a.setWidth 32
  let n := b.toNat % 32
  match f3 with
  | 0 => sext32 (if alt then a - b else a + b)
  | 1 => (x <<< n).signExtend 64
  | _ => (if alt then x.sshiftRight n else x >>> n).signExtend 64

/-- Quotient and remainder of words of a width: a divisor of 0 gives all ones and the dividend. -/
def rvDiv (signed : Bool) (a b : BitVec n) : BitVec n := if b = 0 then BitVec.allOnes n else if signed then a.sdiv b else a / b
def rvRem (signed : Bool) (a b : BitVec n) : BitVec n := if b = 0 then a else if signed then a.srem b else a % b

/-- The operations of M, on double words and on words. -/
def rvMul (f3 : Nat) (a b : DWord) : DWord :=
  match f3 with
  | 0 => a * b
  | 1 => BitVec.ofInt 64 (a.toInt * b.toInt / 2 ^ 64)
  | 2 => BitVec.ofInt 64 (a.toInt * (b.toNat : Int) / 2 ^ 64)
  | 3 => BitVec.ofNat 64 (a.toNat * b.toNat / 2 ^ 64)
  | 4 => rvDiv true a b
  | 5 => rvDiv false a b
  | 6 => rvRem true a b
  | _ => rvRem false a b
def rvMulW (f3 : Nat) (a b : DWord) : DWord :=
  let x : Word := a.setWidth 32
  let y : Word := b.setWidth 32
  (match f3 with
  | 0 => x * y
  | 4 => rvDiv true x y
  | 5 => rvDiv false x y
  | 6 => rvRem true x y
  | _ => rvRem false x y).signExtend 64

/-- Whether a branch is taken. -/
def rvTaken (f3 : Nat) (a b : DWord) : Bool :=
  match f3 with
  | 0 => a == b
  | 1 => a != b
  | 4 => a.slt b
  | 5 => !a.slt b
  | 6 => a.ult b
  | _ => !a.ult b

/-- The atomic of an AMO's function code. -/
def rvAop : Nat → Option Aop
  | 0 => some .add
  | 1 => some .xchg
  | 4 => some .xor
  | 8 => some .or
  | 12 => some .and
  | 16 => some .min
  | 20 => some .max
  | 24 => some .minu
  | 28 => some .maxu
  | _ => none

/-! ## What an instruction asks of its core -/

/-- What one instruction asks: a register's value; a jump; an access of memory; a CSR read and written (function code, number,
operand); the privileged instructions; one that the model only sees the result of; or an illegal one. -/
inductive RvAct where
  | put (rd : Nat) (v : DWord)
  | jump (rd target : Nat)
  | load (rd va bytes : Nat) (signed : Bool)
  | store (va bytes v : Nat)
  | amo (aop : Aop) (rd va bytes v : Nat)
  | lr (rd va bytes : Nat)
  | sc (rd va bytes v : Nat)
  | csr (f3 rd n v : Nat) (write : Bool)
  | fence
  | skip
  | ecall
  | ebreak
  | mret
  | sret
  | sfence (va : Option Nat)
  | hfenceV (va : Option Nat)
  | hfenceG (gpa : Option Nat)
  | other
  | illegal
  deriving DecidableEq, Repr

/-- An instruction of SYSTEM that is no CSR access. -/
def rvSystem (x : Nat → DWord) (w : Nat) : RvAct :=
  let rs1 := bitsAt w 19 15
  let va := if rs1 = 0 then none else some (x rs1).toNat
  if w = 0x00000073 then .ecall
  else if w = 0x00100073 then .ebreak
  else if w = 0x30200073 then .mret
  else if w = 0x10200073 then .sret
  else if w = 0x10500073 then .skip
  else if bitsAt w 31 25 = 0x09 && bitsAt w 11 7 == 0 then .sfence va
  else if bitsAt w 31 25 = 0x11 && bitsAt w 11 7 == 0 then .hfenceV va
  else if bitsAt w 31 25 = 0x31 && bitsAt w 11 7 == 0 then .hfenceG (va.map (4 * ·))
  else .illegal

/-- What a 32-bit word asks at a pc, `next` being the address of the next instruction; `x` are the integer registers. -/
def rvWord (x : Nat → DWord) (pc next w : Nat) : RvAct :=
  let rd := bitsAt w 11 7
  let f3 := bitsAt w 14 12
  let f7 := bitsAt w 31 25
  let a := x (bitsAt w 19 15)
  let b := x (bitsAt w 24 20)
  let at_ (imm : Nat) : Nat := (a.toNat + imm) % 2 ^ 64
  let imm : DWord := BitVec.ofNat 64 (rvImmI w)
  match w % 128 with
  | 0x37 => .put rd (BitVec.ofNat 64 (rvImmU w))
  | 0x17 => .put rd (BitVec.ofNat 64 (pc + rvImmU w))
  | 0x6F => .jump rd ((pc + rvImmJ w) % 2 ^ 64)
  | 0x67 => if f3 = 0 then .jump rd (at_ (rvImmI w) / 2 * 2) else .illegal
  | 0x63 => if f3 = 2 || f3 = 3 then .illegal else .jump 0 (if rvTaken f3 a b then (pc + rvImmB w) % 2 ^ 64 else next)
  | 0x03 => if f3 = 7 then .illegal else .load rd (at_ (rvImmI w)) (2 ^ (f3 % 4)) (decide (f3 < 4))
  | 0x23 => if 4 ≤ f3 then .illegal else .store (at_ (rvImmS w)) (2 ^ f3) (b.toNat % 2 ^ (8 * 2 ^ f3))
  | 0x13 =>
    if f3 = 1 then (if bitsAt w 31 26 = 0 then .put rd (rvAlu 1 false a imm) else .illegal)
    else if f3 = 5 then (if bitsAt w 31 26 = 0 || bitsAt w 31 26 = 16 then .put rd (rvAlu 5 (bitsAt w 31 26 == 16) a imm) else .illegal)
    else .put rd (rvAlu f3 false a imm)
  | 0x1B =>
    if f3 = 0 then .put rd (rvAluW 0 false a imm)
    else if (f3 = 1 && f7 = 0) || (f3 = 5 && (f7 = 0 || f7 = 32)) then .put rd (rvAluW f3 (f7 == 32) a imm)
    else .illegal
  | 0x33 =>
    if f7 = 0 then .put rd (rvAlu f3 false a b)
    else if f7 = 32 && (f3 = 0 || f3 = 5) then .put rd (rvAlu f3 true a b)
    else if f7 = 1 then .put rd (rvMul f3 a b)
    else .illegal
  | 0x3B =>
    if f7 = 0 && (f3 = 0 || f3 = 1 || f3 = 5) then .put rd (rvAluW f3 false a b)
    else if f7 = 32 && (f3 = 0 || f3 = 5) then .put rd (rvAluW f3 true a b)
    else if f7 = 1 && (f3 = 0 || 4 ≤ f3) then .put rd (rvMulW f3 a b)
    else .illegal
  | 0x2F =>
    let bytes := 2 ^ f3
    if f3 ≠ 2 && f3 ≠ 3 then .illegal
    else if bitsAt w 31 27 = 2 then (if bitsAt w 24 20 = 0 then .lr rd a.toNat bytes else .illegal)
    else if bitsAt w 31 27 = 3 then .sc rd a.toNat bytes (b.toNat % 2 ^ (8 * bytes))
    else match rvAop (bitsAt w 31 27) with
      | some o => .amo o rd a.toNat bytes (b.toNat % 2 ^ (8 * bytes))
      | none => .illegal
  | 0x0F => if f3 = 0 then .fence else if f3 = 1 then .skip else .illegal
  | 0x73 =>
    if f3 = 0 then rvSystem x w
    else if f3 = 4 then .other
    else
      let z := bitsAt w 19 15
      .csr (f3 % 4) rd (bitsAt w 31 20) (if 4 ≤ f3 then z else a.toNat) (f3 % 4 == 1 || z != 0)
  | 0x07 => .other
  | 0x27 => .other
  | 0x43 => .other
  | 0x47 => .other
  | 0x4B => .other
  | 0x4F => .other
  | 0x53 => .other
  | 0x57 => .other
  | _ => .illegal

/-- The bytes of the instruction whose first half-word this is. -/
def rvLen (h : Nat) : Nat := if h % 4 = 3 then 4 else 2

/-- What the instruction at a pc asks, of whose bytes `w` is the number. -/
def rvAct (x : Nat → DWord) (pc w : Nat) : RvAct :=
  if w % 4 = 3 then rvWord x pc ((pc + 4) % 2 ^ 64) w
  else if rvcFloat (w % 65536) then .other
  else match rvcWord (w % 65536) with
    | some v => rvWord x pc ((pc + 2) % 2 ^ 64) v
    | none => .illegal

/-- What a CSR instruction writes over the value it read: a write, set or clear. -/
def rvCsrNew (f3 old v : Nat) : Nat :=
  if f3 = 1 then v else if f3 = 2 then Nat.lor old v else Nat.land old (2 ^ 64 - 1 - v % 2 ^ 64)

end Sys2Proof.Machine
end

