-- ==== Sys2Proof/Machine/Complex.lean ====
section
/-! DEFINITION. What application cores do by themselves: instructions, CSRs, fences, traps, the calls of the standard SBI
extensions (R45 to R48, R53, R76; log 60); the lines of the shared caches (R183); the messages of the management port (R39). -/
namespace Sys2Proof.Machine

/-! ## The standard SBI extensions (R46) -/

/-- The harts a mask and base name: all with base −1; none where one does not exist. -/
def maskHarts (mask : Nat) (from_ : Int) : Option (List Nat) :=
  if from_ = -1 then some (List.range 32)
  else
    let hs := ((List.range 64).filter fun j => mask.testBit j).map fun (j : Nat) => from_ + (j : Int)
    if hs.all fun h => decide (0 ≤ h) && decide (h < 32) then some (hs.map Int.toNat) else none

/-- Some harts changed. -/
def State.updHarts (s : State) (ns : List Nat) (f : Hart → Hart) : State :=
  { s with harts := s.harts.map fun h => if ns.contains h.num then f h else h }

/-- The extensions that the resident provides: Base, Timer, IPI, RFENCE, HSM, SRST and the Onaen extension. -/
def extensions : List Nat := [0x10, 0x54494D45, 0x735049, 0x52464E43, 0x48534D, 0x53525354, 0x4F4E4145]

/-- The code of a hart's status. -/
def HartStatus.code : HartStatus → Nat
  | .started => 0
  | .stopped => 1
  | .suspended => 4

/-- A call on some harts, answered. -/
def State.onHarts (s : State) (n mask : Nat) (from_ : Int) (f : Hart → Hart) : State :=
  match maskHarts mask from_ with
  | some hs => (s.updHarts hs f).answer (.hart n) sbiOk []
  | none => s.answer (.hart n) sbiInvalidParam []

/-- The range of a remote fence: none, for all, where start and size are 0 or the size is all ones. -/
def fenceRange (start size : Nat) : Option (Nat × Nat) :=
  if (start = 0 ∧ size = 0) ∨ 2 ^ 64 - 1 ≤ size then none else some (start, size)

/-- A call of a standard extension. Numbers of the implementation are open. -/
def State.sbiCall (s : State) (n : Nat) (c : Sbi) : State :=
  match c with
  | .base 0 _ => s.answer (.hart n) sbiOk [0x02000000]
  | .base 3 eid => s.answer (.hart n) sbiOk [if extensions.contains eid then 1 else 0]
  | .base fid _ => if fid < 7 then s.takeNonce.answer (.hart n) sbiOk [Config.freeNat s.nonce % 2 ^ 64] else s.answer (.hart n) sbiNotSupported []
  | .setTimer t => (s.updHart n fun h => h.rawSet 0x14D t).answer (.hart n) sbiOk []
  | .sendIpi mask from_ => s.onHarts n mask from_ fun h => h.rawSet 0x344 (Nat.lor (h.rawCsr 0x344) 2)
  | .fenceI mask from_ => s.onHarts n mask from_ id
  | .sfence mask from_ start size => s.onHarts n mask from_ fun h => h.fenceTlb false (fenceRange start size)
  | .hfenceV mask from_ start size => s.onHarts n mask from_ fun h => h.fenceTlb true (fenceRange start size)
  | .hfenceG mask from_ start size => s.onHarts n mask from_ fun h => h.fenceGuest (fenceRange start size)
  | .hartStop => s.updHart n fun h => { h with status := .stopped }
  | .hartStatus k => match s.hart? k with
    | some h => s.answer (.hart n) sbiOk [h.status.code]
    | none => s.answer (.hart n) sbiInvalidParam []
  | .hartSuspend kind addr arg =>
    if kind = 0 then (s.answer (.hart n) sbiOk []).updHart n fun h => { h with status := .suspended, resume := none }
    else if kind = 0x80000000 then s.updHart n fun h => { h with status := .suspended, resume := some (addr, arg) }
    else s.answer (.hart n) sbiInvalidParam []
  | .systemReset kind =>
    if kind = 0 then s.updHarts (List.range 32) fun h => { h with status := .stopped }
    else if kind ≤ 2 then { s with boot := { s.boot with restart := true } }
    else s.answer (.hart n) sbiInvalidParam []

/-- Whether a core's registers name a call that a row of the opcode table makes: of the Onaen extension, or hart_start. -/
def Hart.rowCall (h : Hart) : Bool :=
  (h.getX 17 == onaenExt && decide (h.getX 16 < 8)) || (h.getX 17 == hsmExt && h.getX 16 == 0)

/-- The call of a standard extension that a core's registers name (R46). -/
def Hart.sbiOf (h : Hart) : Option Sbi :=
  let a (n : Nat) : Nat := h.getX (10 + n)
  let from_ : Int := (BitVec.ofNat 64 (a 1)).toInt
  match h.getX 17, h.getX 16 with
  | 0x10, fid => some (.base fid (a 0))
  | 0x54494D45, 0 => some (.setTimer (a 0))
  | 0x735049, 0 => some (.sendIpi (a 0) from_)
  | 0x52464E43, 0 => some (.fenceI (a 0) from_)
  | 0x52464E43, 1 => some (.sfence (a 0) from_ (a 2) (a 3))
  | 0x52464E43, 2 => some (.sfence (a 0) from_ (a 2) (a 3))
  | 0x52464E43, 3 => some (.hfenceG (a 0) from_ (a 2) (a 3))
  | 0x52464E43, 4 => some (.hfenceG (a 0) from_ (a 2) (a 3))
  | 0x52464E43, 5 => some (.hfenceV (a 0) from_ (a 2) (a 3))
  | 0x52464E43, 6 => some (.hfenceV (a 0) from_ (a 2) (a 3))
  | 0x48534D, 1 => some .hartStop
  | 0x48534D, 2 => some (.hartStatus (a 0))
  | 0x48534D, 3 => some (.hartSuspend (a 0 % 2 ^ 32) (a 1) (a 2))
  | 0x53525354, 0 => some (.systemReset (a 0 % 2 ^ 32))
  | _, _ => none

/-- ECALL of an application core: HS-mode calls the resident, where a row of the opcode table makes the call or it is one of the
standard extensions; other modes trap (R46, R54). -/
def State.ecall (s : State) (n : Nat) (h : Hart) : State :=
  match h.mode with
  | .s =>
    if h.rowCall then s
    else match h.sbiOf with
      | some c => s.sbiCall n c
      | none => s.answer (.hart n) sbiNotSupported []
  | .vs => s.updHart n fun h => h.trapped 10 0
  | .m => s.updHart n fun h => h.trapped 11 0
  | _ => s.updHart n fun h => h.trapped 8 0

/-! ## Instructions of an application core (R45 to R48, R53) -/

/-- An integer instruction of an application core, at an address with `next` behind it. -/
def State.hartDo (s : State) (n : Nat) (h : Hart) (keep : Bool) (next w : Nat) (act : RvAct) : State :=
  let upd (f : Hart → Hart) : State := s.updHart n f
  let acc (a : AppAcc) : State := s.hartAccess n h { acc := a, keep := keep, next := next }
  let user := h.mode == .u || h.mode == .vu
  match act with
  | .put rd v => upd fun h => (h.put (.x rd) v.toNat).goTo next
  | .jump rd t => upd fun h => (h.put (.x rd) next).goTo t
  | .load rd va b signed => acc (.load va b signed (.x rd))
  | .store va b v => acc (.store va (leList b v))
  | .amo o rd va b v => acc (.atomic o va b v rd)
  | .lr rd va b => acc (.reserve va b rd)
  | .sc rd va b v => acc (.conditional va (leList b v) rd)
  | .csr f3 rd c v write =>
    if !h.mode.csrOk c write then upd fun h => h.trapped 2 w
    else
      let old := s.csr h c
      (upd fun h => ((if write then h.setCsr c (rvCsrNew f3 old v) else h).put (.x rd) old).goTo next).takeNonce
  | .fence => acc .fence
  | .skip => upd fun h => h.goTo next
  | .ecall => s.ecall n h
  | .ebreak => upd fun h => h.trapped 3 h.pc.toNat
  | .mret => if h.mode == .m then upd Hart.returned else upd fun h => h.trapped 2 w
  | .sret => if h.mode == .s || h.mode == .vs then upd Hart.returned else upd fun h => h.trapped 2 w
  | .sfence va => if user then upd fun h => h.trapped 2 w else upd fun h => (h.fenceTlb h.virt (va.map fun a => (a, 1))).goTo next
  | .hfenceV va =>
    if h.virt then upd fun h => h.trapped 22 w else if user then upd fun h => h.trapped 2 w
    else upd fun h => (h.fenceTlb true (va.map fun a => (a, 1))).goTo next
  | .hfenceG a =>
    if h.virt then upd fun h => h.trapped 22 w else if user then upd fun h => h.trapped 2 w
    else upd fun h => (h.fenceGuest (a.map fun a => (a, 1))).goTo next
  | .other => s
  | .illegal => upd fun h => h.trapped 2 w

/-- The instruction at a core's pc: fetched through its translation, from this device's memory (log 73), and executed. -/
def State.hartRun (s : State) (n : Nat) (h : Hart) (keep : Bool) : State :=
  let pc := h.pc.toNat
  let bytes (ps : List (Nat × List (Nat × Nat) × Option HartTlb)) : Nat := leNum (ps.map fun p => s.baseByte p.1)
  match s.hartRange h .fetch pc 2 with
  | .error c => s.updHart n fun h => h.trapped c.1 c.2
  | .ok half =>
    let len := rvLen (bytes half)
    match s.hartRange h .fetch pc len with
    | .error c => s.updHart n fun h => h.trapped c.1 c.2
    | .ok ps =>
      if ps.any fun p => isPeer p.1 || s.poison.contains (lineOf p.1) then s.updHart n fun h => h.trapped 1 pc
      else (s.hartUse n keep ps).hartDo n h keep ((pc + len) % 2 ^ 64) (bytes ps) (rvAct (fun k => sget (0 : DWord) h.x k) pc (bytes ps))

/-- A step of a core that runs. -/
def State.hartStep (s : State) (n : Nat) (h : Hart) (op : HartOp) : State :=
  let upd (f : Hart → Hart) : State := s.updHart n f
  match op with
  | .run keep => s.hartRun n h keep
  | .result dst v pc => upd fun h => (h.put dst v).goTo pc
  | .read r rd =>
    let gave (h : Hart) (v : Nat) : Hart := (h.put (.x rd) v).goTo (h.pc.toNat + 4)
    if !s.mayReach (.hart n) r then upd fun h => h.trapped 5 0
    else match s.readReg r with
      | some v => upd fun h => gave h v
      | none => (upd fun h => gave h (Config.freeNat s.nonce)).takeNonce
  | .trap cause tval =>
    if decide (cause < 2 ^ 63) || s.irqReady h (cause - 2 ^ 63) then upd fun h => h.trapped cause tval else s

/-- A suspended core goes on: after its call, or, where it kept no registers, at the address that it named (R46). -/
def Hart.wake (h : Hart) : Hart :=
  match h.resume with
  | some (addr, arg) => h.start addr arg
  | none => { h with status := .started }

/-- A step of an application core by itself; a suspended one goes on once an interrupt that it enables is pending. -/
def State.hartOp (s : State) (n : Nat) (op : HartOp) : State :=
  match s.hart? n with
  | none => s
  | some h =>
    if h.runs then s.hartStep n h op
    else if h.status == .suspended && Nat.land (s.mip h) (h.rawCsr 0x304) != 0 then s.updHart n Hart.wake
    else s

/-! ## Lines of the shared caches (R183) -/

/-- The soft limit of a context in a cache; 0 means none (R184). -/
def State.softLimit (s : State) (msc : Bool) (ctx : Nat) : Nat := if msc then (s.limitsOf ctx).2 else (s.limitsOf ctx).1

/-- Whether a line belongs to a context above its soft limit in its cache. -/
def State.overLimit (s : State) (l : CacheLine) : Bool :=
  s.softLimit l.msc l.ctx != 0 && decide (s.softLimit l.msc l.ctx < s.occupancy l.msc l.ctx)

/-- Whether two are the same line of a cache: of committed data, or the same version of a hypothesis. -/
def CacheLine.same (a b : CacheLine) : Bool :=
  a.msc == b.msc && a.line == b.line && a.tag == b.tag && (a.tag == 0 || a.ctx == b.ctx)

/-- The line a set evicts: the least recently used of those whose context is above its limit, else the one that normal
replacement chooses. -/
def State.victimOf (s : State) (l normal : CacheLine) : CacheLine :=
  ((s.lines.filter fun x => x.msc == l.msc && x.set_ == l.set_ && s.overLimit x).getLast?).getD normal

/-- An access of a context to a line, or to a version of a hypothesis of its tree: a line that is there becomes the most recently
used; another is allocated and counts toward the context, and where its set must evict, `victim` is the choice of normal
replacement. -/
def State.touchLine (s : State) (l : CacheLine) (victim : Option CacheLine) : State :=
  match s.lines.find? l.same with
  | some x => { s with lines := x :: s.lines.filter fun y => !l.same y }
  | none =>
    let rest := match victim with
      | some v => let out := s.victimOf l v; s.lines.filter fun x => !(x.set_ == l.set_ && out.same x)
      | none => s.lines
    { s with lines := l :: rest }

/-! ## The management port (R39) -/

/-- Whether a row is a message that the management port carries: PLDM, with the requests for a checkpoint and a restore, and
SPDM. -/
def isMessage : Instr → Bool
  | .pldmMonitoringRequest _ | .pldmFirmwareUpdate _ | .pldmFreeze | .pldmUnfreeze _ | .pldmColdResetRequest => true
  | .getVersion | .getCapabilities | .negotiateAlgorithms _ _ | .getDigests | .getCertificate _ _ | .challenge _ | .getMeasurements _ => true
  | .ckpt c _ => c.by_ == .pldm
  | .restore c _ _ _ _ => c.by_ == .pldm
  | _ => false

/-- The message type of MCTP that a row's message has: 1 for PLDM, 5 for SPDM. -/
def messageType : Instr → Nat
  | .getVersion | .getCapabilities | .negotiateAlgorithms _ _ | .getDigests | .getCertificate _ _ | .challenge _ | .getMeasurements _ => 5
  | _ => 1

/-- The message of MCTP as it stands after a packet, and the transmission unit; none where the packet does not fit: a first packet
begins a message, and one that is not the last fills the unit of 64 to 1,024 B (R39; log 60). -/
def Ctrl.assemble (c : Ctrl) (packet : List Byte) : Option (List Byte × Nat) :=
  let mark := (packet[3]?.map BitVec.toNat).getD 0
  let body := packet.drop 4
  let n := body.length
  let first := mark / 128 % 2 == 1
  let last := mark / 64 % 2 == 1
  if packet.length < 5 || fieldAt packet 0 1 % 16 ≠ 1 || 1024 < n || (!last && decide (n < 64)) then none
  else if first then some (body, if last then c.unit else n)
  else match c.rx with
    | none => none
    | some m => if n = c.unit || (last && decide (n < c.unit)) then some (m ++ body, c.unit) else none

/-- A datagram to a UDP port with an MCTP packet: the controller takes those to port 0x0FE2. With it goes the message, where the
packet is its last and its type is that of the row that `i` names. -/
def State.takePacket (s : State) (udp : Nat) (packet : List Byte) (i : Instr) : State × Bool :=
  if !s.ctrl.running || udp ≠ 0x0FE2 then (s, false)
  else match s.ctrl.assemble packet with
    | none => (s, false)
    | some (m, unit) =>
      if ((packet[3]?.map BitVec.toNat).getD 0) / 64 % 2 = 1 then
        ({ s with ctrl := { s.ctrl with unit := unit, rx := none } }, isMessage i && fieldAt m 0 1 == messageType i)
      else ({ s with ctrl := { s.ctrl with unit := unit, rx := some m } }, false)

end Sys2Proof.Machine
end

