-- ==== Sys2Proof/Machine/FwCores.lean ====
section
/-! DEFINITION. What one instruction of a firmware core does (R55, R58, R59, R63): PMP, Sv39, its memory, RV64IMAC with Zicsr. -/
namespace Sys2Proof.Machine

/-! ## PMP (R58, R59, R63) -/

/-- The addresses that a PMP entry covers: base and bytes. -/
def State.pmpArea (s : State) : Pmp → Nat × Nat
  | .off => (0, 0)
  | .monitorCode => Config.fwArea 0
  | .monitorData => Config.fwArea 1
  | .registers => Config.fwArea 2
  | .tables => Config.fwArea 3
  | .schedCode => Config.fwArea 4
  | .schedData => Config.fwArea 5
  | .mailbox => Config.fwArea 6
  | .schedRegs => Config.fwArea 7
  | .plugCode vf => (plugCodeAt vf, (((s.vf vf).plugin.map fun p => p.code.length).getD 0))
  | .plugData vf => (plugDataAt vf, ((s.vf vf).plugin.map Plugin.dataBytes).getD 0)
  | .plugControl vf => (((s.vf vf).plugin.map Plugin.control).getD 0, 16384)

/-- Whether the PMP of a core lets a mode make an access at an address: the first entry that covers it decides; where none does,
only the monitor may (R58, R59). -/
def State.pmpOk (s : State) (f : FwCore) (md : Priv) (acc : PmpAcc) (a : Nat) : Bool :=
  match f.pmp.find? fun e => let r := s.pmpArea e; decide (r.1 ≤ a) && decide (a < r.1 + r.2) with
  | some e => e.allows md acc
  | none => md == .m

/-! ## Memory of a firmware core -/

/-- A byte at an address of a firmware core: of a plug-in's code or data (R63), of the device's memory, or of the core's own
memory (log 60). -/
def State.fwByte (s : State) (f : FwCore) (a : Nat) : Byte :=
  match s.vfs.findSome? fun v => v.plugin.bind fun p =>
      if plugCodeAt v.num ≤ a && decide (a < plugCodeAt v.num + p.code.length) then some ((p.code[a - plugCodeAt v.num]?).getD 0)
      else if plugDataAt v.num ≤ a && decide (a < plugDataAt v.num + p.dataBytes) then some (sget (0 : Byte) p.data (a - plugDataAt v.num))
      else none with
  | some b => b
  | none => if a < 0x00C000000000 then s.baseByte a else sget (0 : Byte) f.mem a

/-- A firmware core changed. -/
def State.updFw (s : State) (n : Nat) (f : FwCore → FwCore) : State := { s with fwCores := updKey FwCore.num n f s.fwCores }

/-- A byte stored by a firmware core. -/
def State.fwStore (s : State) (n a : Nat) (b : Byte) : State :=
  match s.vfs.find? fun v => (v.plugin.map fun p => plugDataAt v.num ≤ a && decide (a < plugDataAt v.num + p.dataBytes)).getD false with
  | some v => s.updVf v.num fun v => { v with plugin := v.plugin.map fun p => { p with data := sset (0 : Byte) p.data (a - plugDataAt v.num) b } }
  | none => if a < 0x00C000000000 then s.physWrite .device a [b] else s.updFw n fun f => { f with mem := sset (0 : Byte) f.mem a b }

/-! ## Sv39 (R55; log 60) -/

/-- A walk of Sv39 from a table at level `n`: the physical page. An entry with A clear, or D clear under a store, lets nothing
through, and a page of user mode serves that mode alone. -/
def State.walk39 (s : State) (f : FwCore) (acc : PmpAcc) (user : Bool) (page : Nat) : Nat → Nat → Option Nat
  | n, base =>
    let pte := leNum ((List.range 8).map fun j => s.fwByte f (base + 8 * (page / 512 ^ n % 512) + j))
    let ppn := pte / 2 ^ 10 % 2 ^ 44
    let bit (k : Nat) : Bool := pte.testBit k
    if !bit 0 || (bit 2 && !bit 1) || pte / 2 ^ 54 ≠ 0 then none
    else if bit 1 || bit 3 then
      let fits := match acc with
        | .r => bit 1
        | .w => bit 2 && bit 7
        | .x => bit 3
      if fits && bit 6 && bit 4 == user && ppn % 512 ^ n == 0 then some (ppn + page % 512 ^ n) else none
    else match n with
      | 0 => none
      | m + 1 => s.walk39 f acc user page m (ppn * 4096)

/-- The cause of a page fault or of an access fault of a firmware core. -/
def fwCause (acc : PmpAcc) (pageFault : Bool) : Nat :=
  match acc with
  | .r => if pageFault then 13 else 5
  | .w => if pageFault then 15 else 7
  | .x => if pageFault then 12 else 1

/-- The address that a byte at a virtual address has; or the cause of the trap. -/
def State.fwAt (s : State) (f : FwCore) (acc : PmpAcc) (va : Nat) : Except Nat Nat :=
  let satp := (sget (0 : DWord) f.csr 0x180).toNat
  let ok (a : Nat) : Except Nat Nat := if s.pmpOk f f.mode acc a then .ok a else .error (fwCause acc false)
  if f.mode = .m || satp / 2 ^ 60 ≠ 8 then ok va
  else if sextN 39 (va % 2 ^ 39) ≠ va then .error (fwCause acc true)
  else match s.walk39 f acc (f.mode == .u) (va / 4096 % 2 ^ 27) 2 (satp % 2 ^ 44 * 4096) with
    | some p => ok (p * 4096 + va % 4096)
    | none => .error (fwCause acc true)

/-- The addresses of `n` bytes. -/
def State.fwRange (s : State) (f : FwCore) (acc : PmpAcc) (va : Nat) : Nat → Except (Nat × Nat) (List Nat)
  | 0 => .ok []
  | n + 1 => match s.fwAt f acc va with
    | .error c => .error (c, va)
    | .ok a => match s.fwRange f acc (va + 1) n with
      | .error c => .error c
      | .ok l => .ok (a :: l)

/-! ## Instructions -/

/-- The part of a firmware core that it shares with an application core: traps, CSRs and registers follow the same rules. -/
def FwCore.asHart (f : FwCore) : Hart := { num := f.num, status := .started, pc := f.pc, mode := f.mode, x := f.x, csr := f.csr }
def FwCore.through (f : FwCore) (g : Hart → Hart) : FwCore :=
  let h := g f.asHart
  { f with pc := h.pc, mode := h.mode, x := h.x, csr := h.csr }

/-- What a load of a firmware core reads: a device register at its address, or bytes of memory. -/
def State.fwLoad (s : State) (f : FwCore) (as : List Nat) : Nat :=
  match (as.head?).bind Config.fwRegister with
  | some r => (s.readReg r).getD 0
  | none => leNum (as.map (s.fwByte f))

/-- What a store of a firmware core writes; it ends reservations of the place. -/
def State.fwWrite (s : State) (n : Nat) (as : List Nat) (v : Nat) : State :=
  match (as.head?).bind Config.fwRegister with
  | some r => s.writeReg r v
  | none => (as.zip (leList as.length v)).foldl (fun s x => s.fwStore n x.1 x.2) s

/-- An instruction of a firmware core, with `next` behind it. -/
def State.fwDo (s : State) (n : Nat) (f : FwCore) (next w : Nat) (act : RvAct) : State :=
  let upd (g : Hart → Hart) : State := s.updFw n fun f => f.through g
  let trap (cause tval : Nat) : State := upd fun h => h.trapped cause tval
  let at_ (acc : PmpAcc) (va b : Nat) (k : List Nat → State) : State :=
    if va % b ≠ 0 then trap (if acc = .w then 6 else 4) va
    else match s.fwRange f acc va b with
      | .error c => trap c.1 c.2
      | .ok as => k as
  let past (rd v : Nat) (h : Hart) : Hart := (h.put (.x rd) v).goTo next
  match act with
  | .put rd v => upd (past rd v.toNat)
  | .jump rd t => upd fun h => (h.put (.x rd) next).goTo t
  | .load rd va b signed => at_ .r va b fun as => upd (past rd (loadedAs b signed (.x rd) (s.fwLoad f as)))
  | .store va b v => at_ .w va b fun as => (s.fwWrite n as v).updFw n fun f => { f with resv := none }.through fun h => h.goTo next
  | .amo o rd va b v => at_ .w va b fun as =>
      let old := s.fwLoad f as
      (s.fwWrite n as (atomNew o b old v 0)).updFw n fun f => f.through (past rd (loadedAs b true (.x rd) old))
  | .lr rd va b => at_ .r va b fun as =>
      s.updFw n fun f => { f with resv := as.head? }.through (past rd (loadedAs b true (.x rd) (s.fwLoad f as)))
  | .sc rd va b v => at_ .w va b fun as =>
      let ok := f.resv.isSome && f.resv == as.head?
      (if ok then s.fwWrite n as v else s).updFw n fun f => { f with resv := none }.through (past rd (if ok then 0 else 1))
  | .csr f3 rd c v write =>
    if !f.mode.csrOk c write then trap 2 w
    else
      let old := s.csr f.asHart c
      (upd fun h => past rd old (if write then h.setCsr c (rvCsrNew f3 old v) else h)).takeNonce
  | .fence => upd fun h => h.goTo next
  | .skip => upd fun h => h.goTo next
  | .ecall => trap (match f.mode with
      | .m => 11
      | .s => 9
      | _ => 8) 0
  | .ebreak => trap 3 f.pc.toNat
  | .mret => if f.mode == .m then upd Hart.returned else trap 2 w
  | .sret => if f.mode == .s then upd Hart.returned else trap 2 w
  | .sfence _ => if f.mode == .u then trap 2 w else upd fun h => h.goTo next
  | _ => trap 2 w

/-- A step of a firmware core by itself: the instruction at its pc. -/
def State.fwStep (s : State) (n : Nat) : State :=
  match s.fwCores.find? fun f => f.num == n with
  | none => s
  | some f =>
    let trap (c : Nat × Nat) : State := s.updFw n fun f => f.through fun h => h.trapped c.1 c.2
    let pc := f.pc.toNat
    if !f.released then s
    else match s.fwRange f .x pc 2 with
      | .error c => trap c
      | .ok half =>
        let len := rvLen (leNum (half.map (s.fwByte f)))
        match s.fwRange f .x pc len with
        | .error c => trap c
        | .ok as =>
          let w := leNum (as.map (s.fwByte f))
          s.fwDo n f ((pc + len) % 2 ^ 64) w (rvAct (fun k => sget (0 : DWord) f.x k) pc w)

end Sys2Proof.Machine
end

