-- ==== Sys2Proof/Machine/Step.lean ====
section
/-! DEFINITION. One step of the device: the selected warp's instruction, a due event, or the next input
(logs 1 and 2), and the placing of one instruction. -/
namespace Sys2Proof.Machine

/-- The outcome with a function on its next state. -/
def mapNext (f : State → State) : Host.Outcome State Fault Refusal → Host.Outcome State Fault Refusal
  | .next s => .next (f s)
  | .fault r => .fault r
  | .refused r => .refused r

/-- Whether a word's opcode is one of the movement instructions (R323). -/
def movementWord (w : Nat) : Bool := decide (0xE8 ≤ w / 2 ^ 24 % 256) && decide (w / 2 ^ 24 % 256 ≤ 0xEF)

/-- Whether a movement word, one with forbidden operands too, waits for a token that its WM field, bits [20:13], names (R436). -/
def Iss.heldBy (i : Iss) (w : Nat) : Bool :=
  i.movement && i.act != [] && movementWord w && w / 2 ^ 24 % 256 != 0xED && !i.warp.tokensDone (BitVec.ofNat 8 (w / 2 ^ 13))

/-- The selected warp's next instruction is fetched, decoded and executed; its time passes. An orphan at its instruction boundary
takes HORPH instead (R277). -/
def State.run (s : State) : Host.Outcome State Fault Refusal :=
  match s.sel.bind fun k => (s.orphanNow k.1 k.2).map fun o => (k, o) with
  | some (k, o) => .next (s.trapLane k.1 k.2 o.1 causeHORPH o.2 0).afterRun
  | none =>
  match s.fetched with
  | .idle => .next s.afterRun
  | .away i ls => .next (s.awaitCode i ls).afterRun
  | .page i => .next (fetchPage s.takeNonce i i.pc (Config.freeWord s.nonce) 0).afterRun
  | .bad i w u =>
    .next (if i.heldBy w then markWait s i else badWord (s.useAll [u]) i 1 (BitVec.ofNat 32 w) (BitVec.ofNat 32 w) 0).afterRun
  | .ok _ ins u => mapNext State.afterRun (exec ins (s.useAll [u]))

/-- With no input left, what is at hand goes on (log 2): a diagnostic record is posted, the selected warp's next instruction is
checked, or a tick passes. -/
def State.goOn (s : State) : Host.Outcome State Fault Refusal :=
  match s.diags, s.sel with
  | _ :: _, _ => .next s.postDiag
  | [], some (t, w) => if s.checkable t w then execCheck t w false true none false s else .next s.tickOne
  | [], none => .next s.tickOne

/-- The step before the WAITCs it may have fulfilled. -/
def State.stepOne (s : State) : Host.Outcome State Fault Refusal :=
  if s.go then s.run
  else
    match s.inputs with
    | .ticks (n + 1) :: t => .next { s with inputs := .ticks n :: t }.tickOne
    | .ticks 0 :: t => .next { s with inputs := t }
    | .event i :: t => exec i { s with inputs := t }
    | .evict core line :: t => .next ({ s with inputs := t }.forceCore core [line])
    | .read by_ r :: t => .next ({ s with inputs := t }.regRead by_ r)
    | .hart n op :: t => .next ({ s with inputs := t }.hartOp n op)
    | .fw n :: t => .next ({ s with inputs := t }.fwStep n)
    | .mctp udp packet i :: t =>
      let r := { s with inputs := t }.takePacket udp packet i
      if r.2 then exec i r.1 else .next r.1
    | .cache l victim :: t => .next ({ s with inputs := t }.touchLine l victim)
    | .teardownEnd part :: t => .next ({ s with inputs := t }.endTeardown part)
    | .operands core addrs :: t => .next ({ s with inputs := t }.readEarly core addrs)
    | .cycle cl n :: t => .next { s with inputs := t, clusters := s.clusters.map fun c => if c.num = cl && s.clocked cl then c.part n else c }
    | .diag :: t => .next ({ s with inputs := t } : State).postDiag
    | [] => s.goOn

/-- One step (log 2); a WAITC whose mode it has brought about is evaluated (R421), and requests of peers whose lines it has set
free are performed (R33, R269). -/
def step (s : State) : Host.Outcome State Fault Refusal := mapNext (fun t => t.settleWaits.serveHeld) s.stepOne

/-! ## Placing one instruction (log 1) -/

/-- A launch that lets the instruction run: matrix role, or movement for the movement instructions. -/
def placeRecord : LRec :=
  { hypo := true, entryMat := some 0, entryMsq := some 0, warpsMat := 1, accTiles := 4, ringCount := 4, ringLog := 4, regsMat := 512
    scratchBytes := 524288, privateBytes := 1024, fslot := List.replicate 8 0, barrier := List.replicate 16 0x6002
    hoaBytes := 65536 }

/-- A warp of the role that runs the word, at word index 0. -/
def placeWarp (w : Nat) : Warp :=
  if movementWord w then
    { id := 32, role := .movement, lanes := [{}], masks := 0xFFFFFFFF :: List.replicate 11 0, mwait := List.replicate 12 0, tokens := List.replicate 8 {} }
  else
    { id := 0, role := .matrix, lanes := List.replicate 32 {}, masks := 0xFFFFFFFF :: List.replicate 11 0, mwait := List.replicate 12 0 }

/-- The state with an instruction stored where the next step fetches: a team of its own on core 0, selected,
whose code holds the word at index 0. -/
def State.withFetchWord (s : State) (nbits w : Nat) : State :=
  let v := w % 2 ^ nbits
  let key := s.nextKey
  let ctx := (s.ctxs.map Ctx.num).foldl Nat.max 0 + 1
  let g : Grid := { key := key, vf := 0, ctx := ctx, origin := .queue 0 0, record := placeRecord, remaining := 1
                    code := ssetAll (0 : Byte) [] (layAt 0 (leBytes 4 v)) }
  let t : Team := { key := key, grid := key, ctx := ctx, index := 0, place := .on 0 none, warps := [placeWarp v]
                    rings := List.replicate 4 (List.replicate 16 false), barriers := List.replicate 16 {} }
  { s with
    teams := t :: s.teams, grids := g :: s.grids, ctxs := { num := ctx, vf := 0 } :: s.ctxs
    cores := { num := 0 } :: s.cores.filter fun k => k.num != 0
    sel := some (key, (placeWarp v).id), go := true, ext := none, nextKey := key + 1 }

end Sys2Proof.Machine
end

