-- ==== Sys2Proof/Laws/Decode.lean ====
section
/-! SUPPORT. Every format's fields are read back from the bits an encoding puts them at, and one lemma per row of the map. -/
namespace Sys2Proof

/-- A row answers its instruction when its zero bits are zero and its fields are read. -/
theorem row_ok {w : Nat} {zeros : List (Nat × Nat)} {g : Option α} {c : α → Instr} {f : α}
    (hz : zeros.all (fun z => natField w z.1 z.2 == 0) = true) (hg : g = some f) : row w zeros g c = .ok (c f) := by
  simp [row, hz, hg]

theorem bv_eq {n w lo : Nat} {x : BitVec n} (h : w / 2 ^ lo % 2 ^ n = x.toNat) : bv n w lo = x := by
  apply BitVec.eq_of_toNat_eq; simpa [bv] using h

theorem bit_eq {w lo : Nat} {b : Bool} (h : w / 2 ^ lo % 2 = b.toNat) : bit w lo = b := by
  unfold bit; rw [h]; cases b <;> rfl

theorem decode_row {w : Nat} {i : Instr} (h : decodeFields w = .ok i) (hw : i.wellFormed = true) : decode w = .ok i := by
  simp [decode, h, hw]

/-- The opcode byte of a word. -/
theorem opc {w c : Nat} (h : w / 16777216 = c) : natField w 28 4 = c / 16 % 16 ∧ natField w 24 4 = c % 16 := by
  unfold natField; omega

theorem Aop.code_spec (x : Aop) : x.code < 16 ∧ Aop.ofCode x.code = some x := by cases x <;> decide

theorem Ch.code_spec (x : Ch) : x.code < 4 ∧ Ch.ofCode x.code = some x := by cases x <;> decide

theorem F2Fmt.code_spec (x : F2Fmt) : x.code < 4 ∧ F2Fmt.ofCode x.code = some x := by cases x <;> decide

theorem FCond.code_spec (x : FCond) : x.code < 16 ∧ FCond.ofCode x.code = some x := by cases x <;> decide

theorem ICond.code_spec (x : ICond) : x.code < 16 ∧ ICond.ofCode x.code = some x := by cases x <;> decide

theorem MemOrd.code_spec (x : MemOrd) : x.code < 4 ∧ MemOrd.ofCode x.code = some x := by cases x <;> decide

theorem Ovf.code_spec (x : Ovf) : x.code < 4 ∧ Ovf.ofCode x.code = some x := by cases x <;> decide

theorem QDir.code_spec (x : QDir) : x.code < 8 ∧ QDir.ofCode x.code = some x := by cases x <;> decide

theorem RedOp.code_spec (x : RedOp) : x.code < 8 ∧ RedOp.ofCode x.code = some x := by cases x <;> decide

theorem Rm.code_spec (x : Rm) : x.code < 4 ∧ Rm.ofCode x.code = some x := by cases x <;> decide

theorem Scope.code_spec (x : Scope) : x.code < 4 ∧ Scope.ofCode x.code = some x := by cases x <;> decide

theorem ShKind.code_spec (x : ShKind) : x.code < 4 ∧ ShKind.ofCode x.code = some x := by cases x <;> decide

theorem Sz.code_spec (x : Sz) : x.code < 8 ∧ Sz.ofCode x.code = some x := by cases x <;> decide

theorem VoteOp.code_spec (x : VoteOp) : x.code < 8 ∧ VoteOp.ofCode x.code = some x := by cases x <;> decide

theorem FmtPB.put_spec (f : FmtPB) : f.put < 16777216 ∧ ∀ w, w % 16777216 = f.put → FmtPB.get w = some f := by
  obtain ⟨p, n, len, pat⟩ := f
  have := p.isLt; have := n.toNat_lt; have := len.isLt; have := pat.isLt
  refine ⟨by simp only [FmtPB.put]; omega, fun w h => ?_⟩
  simp only [FmtPB.put] at h
  simp only [FmtPB.get]
  congr 2 <;> first | (apply bv_eq; omega) | (apply bit_eq; omega)

theorem FmtX.put_spec (f : FmtX) : f.put < 4194304 ∧ ∀ w, w % 16777216 = f.put → FmtX.get w = some f := by
  obtain ⟨imm⟩ := f
  have := imm.isLt
  refine ⟨by simp only [FmtX.put]; omega, fun w h => ?_⟩
  simp only [FmtX.put] at h
  simp only [FmtX.get]
  congr 2 <;> first | (apply bv_eq; omega) | (apply bit_eq; omega)

theorem FmtB.put_spec (f : FmtB) : f.put < 16777216 ∧ ∀ w, w % 16777216 = f.put → FmtB.get w = some f := by
  obtain ⟨p, n, prio, off⟩ := f
  have := p.isLt; have := n.toNat_lt; have := prio.isLt; have := off.isLt
  refine ⟨by simp only [FmtB.put]; omega, fun w h => ?_⟩
  simp only [FmtB.put] at h
  simp only [FmtB.get]
  congr 2 <;> first | (apply bv_eq; omega) | (apply bit_eq; omega)

theorem FmtJ.put_spec (f : FmtJ) : f.put < 16777216 ∧ ∀ w, w % 16777216 = f.put → FmtJ.get w = some f := by
  obtain ⟨off⟩ := f
  have := off.isLt
  refine ⟨by simp only [FmtJ.put]; omega, fun w h => ?_⟩
  simp only [FmtJ.put] at h
  simp only [FmtJ.get]
  congr 2 <;> first | (apply bv_eq; omega) | (apply bit_eq; omega)

theorem FmtJmpi.put_spec (f : FmtJmpi) : f.put < 131072 ∧ ∀ w, w % 16777216 = f.put → FmtJmpi.get w = some f := by
  obtain ⟨a, prio⟩ := f
  have := a.isLt; have := prio.isLt
  refine ⟨by simp only [FmtJmpi.put]; omega, fun w h => ?_⟩
  simp only [FmtJmpi.put] at h
  simp only [FmtJmpi.get]
  congr 2 <;> first | (apply bv_eq; omega) | (apply bit_eq; omega)

theorem FmtCalli.put_spec (f : FmtCalli) : f.put < 16777216 ∧ ∀ w, w % 16777216 = f.put → FmtCalli.get w = some f := by
  obtain ⟨d, a, prio⟩ := f
  have := d.isLt; have := a.isLt; have := prio.isLt
  refine ⟨by simp only [FmtCalli.put]; omega, fun w h => ?_⟩
  simp only [FmtCalli.put] at h
  simp only [FmtCalli.get]
  congr 2 <;> first | (apply bv_eq; omega) | (apply bit_eq; omega)

theorem FmtPrio.put_spec (f : FmtPrio) : f.put < 16 ∧ ∀ w, w % 16777216 = f.put → FmtPrio.get w = some f := by
  obtain ⟨prio⟩ := f
  have := prio.isLt
  refine ⟨by simp only [FmtPrio.put]; omega, fun w h => ?_⟩
  simp only [FmtPrio.put] at h
  simp only [FmtPrio.get]
  congr 2 <;> first | (apply bv_eq; omega) | (apply bit_eq; omega)

theorem FmtWinb.put_spec (f : FmtWinb) : f.put < 32 ∧ ∀ w, w % 16777216 = f.put → FmtWinb.get w = some f := by
  obtain ⟨base⟩ := f
  have := base.isLt
  refine ⟨by simp only [FmtWinb.put]; omega, fun w h => ?_⟩
  simp only [FmtWinb.put] at h
  simp only [FmtWinb.get]
  congr 2 <;> first | (apply bv_eq; omega) | (apply bit_eq; omega)

theorem FmtCode.put_spec (f : FmtCode) : f.put < 1024 ∧ ∀ w, w % 16777216 = f.put → FmtCode.get w = some f := by
  obtain ⟨code⟩ := f
  have := code.isLt
  refine ⟨by simp only [FmtCode.put]; omega, fun w h => ?_⟩
  simp only [FmtCode.put] at h
  simp only [FmtCode.get]
  congr 2 <;> first | (apply bv_eq; omega) | (apply bit_eq; omega)

theorem FmtR.put_spec (f : FmtR) : f.put < 16777216 ∧ ∀ w, w % 16777216 = f.put → FmtR.get w = some f := by
  obtain ⟨d, a, b, e, ha, hb⟩ := f
  have := d.isLt; have := a.isLt; have := b.isLt; have := e.toNat_lt; have := ha.toNat_lt; have := hb.toNat_lt
  refine ⟨by simp only [FmtR.put]; omega, fun w h => ?_⟩
  simp only [FmtR.put] at h
  simp only [FmtR.get]
  congr 2 <;> first | (apply bv_eq; omega) | (apply bit_eq; omega)

theorem FmtR1.put_spec (f : FmtR1) : f.put < 16777216 ∧ ∀ w, w % 16777216 = f.put → FmtR1.get w = some f := by
  obtain ⟨d, a, e, ha⟩ := f
  have := d.isLt; have := a.isLt; have := e.toNat_lt; have := ha.toNat_lt
  refine ⟨by simp only [FmtR1.put]; omega, fun w h => ?_⟩
  simp only [FmtR1.put] at h
  simp only [FmtR1.get]
  congr 2 <;> first | (apply bv_eq; omega) | (apply bit_eq; omega)

theorem FmtCI.put_spec (f : FmtCI) : f.put < 16777216 ∧ ∀ w, w % 16777216 = f.put → FmtCI.get w = some f := by
  obtain ⟨pd, cond, a, b, e, ha, hb⟩ := f
  have := pd.isLt; have ⟨_, hcond⟩ := ICond.code_spec cond; have := a.isLt; have := b.isLt; have := e.toNat_lt; have := ha.toNat_lt; have := hb.toNat_lt
  refine ⟨by simp only [FmtCI.put]; omega, fun w h => ?_⟩
  simp only [FmtCI.put] at h
  simp only [FmtCI.get]
  rw [show natField w 17 4 = cond.code by unfold natField; omega, hcond]
  simp only [Option.bind_eq_bind, Option.bind_some]
  congr 2 <;> first | (apply bv_eq; omega) | (apply bit_eq; omega)

theorem FmtRK.put_spec (f : FmtRK) : f.put < 16777216 ∧ ∀ w, w % 16777216 = f.put → FmtRK.get w = some f := by
  obtain ⟨d, a, b, k⟩ := f
  have := d.isLt; have := a.isLt; have := b.isLt; have := k.isLt
  refine ⟨by simp only [FmtRK.put]; omega, fun w h => ?_⟩
  simp only [FmtRK.put] at h
  simp only [FmtRK.get]
  congr 2 <;> first | (apply bv_eq; omega) | (apply bit_eq; omega)

theorem FmtMovi.put_spec (f : FmtMovi) : f.put < 16777216 ∧ ∀ w, w % 16777216 = f.put → FmtMovi.get w = some f := by
  obtain ⟨d, imm⟩ := f
  have := d.isLt; have := imm.isLt
  refine ⟨by simp only [FmtMovi.put]; omega, fun w h => ?_⟩
  simp only [FmtMovi.put] at h
  simp only [FmtMovi.get]
  congr 2 <;> first | (apply bv_eq; omega) | (apply bit_eq; omega)

theorem FmtI.put_spec (f : FmtI) : f.put < 16777216 ∧ ∀ w, w % 16777216 = f.put → FmtI.get w = some f := by
  obtain ⟨d, a, imm⟩ := f
  have := d.isLt; have := a.isLt; have := imm.isLt
  refine ⟨by simp only [FmtI.put]; omega, fun w h => ?_⟩
  simp only [FmtI.put] at h
  simp only [FmtI.get]
  congr 2 <;> first | (apply bv_eq; omega) | (apply bit_eq; omega)

theorem FmtSh.put_spec (f : FmtSh) : f.put < 16777216 ∧ ∀ w, w % 16777216 = f.put → FmtSh.get w = some f := by
  obtain ⟨d, a, kind, amount⟩ := f
  have := d.isLt; have := a.isLt; have ⟨_, hkind⟩ := ShKind.code_spec kind; have := amount.isLt
  refine ⟨by simp only [FmtSh.put]; omega, fun w h => ?_⟩
  simp only [FmtSh.put] at h
  simp only [FmtSh.get]
  rw [show natField w 5 2 = kind.code by unfold natField; omega, hkind]
  simp only [Option.bind_eq_bind, Option.bind_some]
  congr 2 <;> first | (apply bv_eq; omega) | (apply bit_eq; omega)

theorem FmtCF.put_spec (f : FmtCF) : f.put < 16777216 ∧ ∀ w, w % 16777216 = f.put → FmtCF.get w = some f := by
  obtain ⟨pd, cond, a, b, e, ha, hb⟩ := f
  have := pd.isLt; have ⟨_, hcond⟩ := FCond.code_spec cond; have := a.isLt; have := b.isLt; have := e.toNat_lt; have := ha.toNat_lt; have := hb.toNat_lt
  refine ⟨by simp only [FmtCF.put]; omega, fun w h => ?_⟩
  simp only [FmtCF.put] at h
  simp only [FmtCF.get]
  rw [show natField w 17 4 = cond.code by unfold natField; omega, hcond]
  simp only [Option.bind_eq_bind, Option.bind_some]
  congr 2 <;> first | (apply bv_eq; omega) | (apply bit_eq; omega)

theorem FmtMR.put_spec (f : FmtMR) : f.put < 16777216 ∧ ∀ w, w % 16777216 = f.put → FmtMR.get w = some f := by
  obtain ⟨d, a, rm, e, ha⟩ := f
  have := d.isLt; have := a.isLt; have ⟨_, hrm⟩ := Rm.code_spec rm; have := e.toNat_lt; have := ha.toNat_lt
  refine ⟨by simp only [FmtMR.put]; omega, fun w h => ?_⟩
  simp only [FmtMR.put] at h
  simp only [FmtMR.get]
  rw [show natField w 3 2 = rm.code by unfold natField; omega, hrm]
  simp only [Option.bind_eq_bind, Option.bind_some]
  congr 2 <;> first | (apply bv_eq; omega) | (apply bit_eq; omega)

theorem FmtMI.put_spec (f : FmtMI) : f.put < 16777216 ∧ ∀ w, w % 16777216 = f.put → FmtMI.get w = some f := by
  obtain ⟨d, a, w64, uns, rm, e, ha⟩ := f
  have := d.isLt; have := a.isLt; have := w64.toNat_lt; have := uns.toNat_lt; have ⟨_, hrm⟩ := Rm.code_spec rm; have := e.toNat_lt; have := ha.toNat_lt
  refine ⟨by simp only [FmtMI.put]; omega, fun w h => ?_⟩
  simp only [FmtMI.put] at h
  simp only [FmtMI.get]
  rw [show natField w 3 2 = rm.code by unfold natField; omega, hrm]
  simp only [Option.bind_eq_bind, Option.bind_some]
  congr 2 <;> first | (apply bv_eq; omega) | (apply bit_eq; omega)

theorem FmtMF.put_spec (f : FmtMF) : f.put < 16777216 ∧ ∀ w, w % 16777216 = f.put → FmtMF.get w = some f := by
  obtain ⟨d, a, dst, src, rm, e, ha⟩ := f
  have := d.isLt; have := a.isLt; have ⟨_, hdst⟩ := F2Fmt.code_spec dst; have ⟨_, hsrc⟩ := F2Fmt.code_spec src; have ⟨_, hrm⟩ := Rm.code_spec rm; have := e.toNat_lt; have := ha.toNat_lt
  refine ⟨by simp only [FmtMF.put]; omega, fun w h => ?_⟩
  simp only [FmtMF.put] at h
  simp only [FmtMF.get]
  rw [show natField w 8 2 = dst.code by unfold natField; omega, hdst]
  rw [show natField w 6 2 = src.code by unfold natField; omega, hsrc]
  rw [show natField w 4 2 = rm.code by unfold natField; omega, hrm]
  simp only [Option.bind_eq_bind, Option.bind_some]
  congr 2 <;> first | (apply bv_eq; omega) | (apply bit_eq; omega)

theorem FmtMS.put_spec (f : FmtMS) : f.put < 16777216 ∧ ∀ w, w % 16777216 = f.put → FmtMS.get w = some f := by
  obtain ⟨d, a, slot, e, ha⟩ := f
  have := d.isLt; have := a.isLt; have := slot.isLt; have := e.toNat_lt; have := ha.toNat_lt
  refine ⟨by simp only [FmtMS.put]; omega, fun w h => ?_⟩
  simp only [FmtMS.put] at h
  simp only [FmtMS.get]
  congr 2 <;> first | (apply bv_eq; omega) | (apply bit_eq; omega)

theorem FmtCvtw.put_spec (f : FmtCvtw) : f.put < 67108864 ∧ ∀ w, w % 67108864 = f.put → FmtCvtw.get w = some f := by
  obtain ⟨s, d, a, b, k⟩ := f
  have := s.isLt; have := d.isLt; have := a.isLt; have := b.isLt; have := k.isLt
  refine ⟨by simp only [FmtCvtw.put]; omega, fun w h => ?_⟩
  simp only [FmtCvtw.put] at h
  simp only [FmtCvtw.get]
  congr 2 <;> first | (apply bv_eq; omega) | (apply bit_eq; omega)

theorem FmtCvtn.put_spec (f : FmtCvtn) : f.put < 268435456 ∧ ∀ w, w % 268435456 = f.put → FmtCvtn.get w = some f := by
  obtain ⟨ovf, s, d, a, b, k⟩ := f
  have ⟨_, hovf⟩ := Ovf.code_spec ovf; have := s.isLt; have := d.isLt; have := a.isLt; have := b.isLt; have := k.isLt
  refine ⟨by simp only [FmtCvtn.put]; omega, fun w h => ?_⟩
  simp only [FmtCvtn.put] at h
  simp only [FmtCvtn.get]
  rw [show natField w 26 2 = ovf.code by unfold natField; omega, hovf]
  simp only [Option.bind_eq_bind, Option.bind_some]
  congr 2 <;> first | (apply bv_eq; omega) | (apply bit_eq; omega)

theorem FmtMem.put_spec (f : FmtMem) : f.put < 16777216 ∧ ∀ w, w % 16777216 = f.put → FmtMem.get w = some f := by
  obtain ⟨d, a, sz, ord, scp, e, ch⟩ := f
  have := d.isLt; have := a.isLt; have ⟨_, hsz⟩ := Sz.code_spec sz; have ⟨_, hord⟩ := MemOrd.code_spec ord; have ⟨_, hscp⟩ := Scope.code_spec scp; have := e.toNat_lt; have ⟨_, hch⟩ := Ch.code_spec ch
  refine ⟨by simp only [FmtMem.put]; omega, fun w h => ?_⟩
  simp only [FmtMem.put] at h
  simp only [FmtMem.get]
  rw [show natField w 7 3 = sz.code by unfold natField; omega, hsz]
  rw [show natField w 5 2 = ord.code by unfold natField; omega, hord]
  rw [show natField w 3 2 = scp.code by unfold natField; omega, hscp]
  rw [show natField w 0 2 = ch.code by unfold natField; omega, hch]
  simp only [Option.bind_eq_bind, Option.bind_some]
  congr 2 <;> first | (apply bv_eq; omega) | (apply bit_eq; omega)

theorem FmtMemL.put_spec (f : FmtMemL) : f.put < 16777216 ∧ ∀ w, w % 16777216 = f.put → FmtMemL.get w = some f := by
  obtain ⟨d, a, sz, ord, scp, e⟩ := f
  have := d.isLt; have := a.isLt; have ⟨_, hsz⟩ := Sz.code_spec sz; have ⟨_, hord⟩ := MemOrd.code_spec ord; have ⟨_, hscp⟩ := Scope.code_spec scp; have := e.toNat_lt
  refine ⟨by simp only [FmtMemL.put]; omega, fun w h => ?_⟩
  simp only [FmtMemL.put] at h
  simp only [FmtMemL.get]
  rw [show natField w 7 3 = sz.code by unfold natField; omega, hsz]
  rw [show natField w 5 2 = ord.code by unfold natField; omega, hord]
  rw [show natField w 3 2 = scp.code by unfold natField; omega, hscp]
  simp only [Option.bind_eq_bind, Option.bind_some]
  congr 2 <;> first | (apply bv_eq; omega) | (apply bit_eq; omega)

theorem FmtLdp.put_spec (f : FmtLdp) : f.put < 16777216 ∧ ∀ w, w % 16777216 = f.put → FmtLdp.get w = some f := by
  obtain ⟨d, a, sz, e⟩ := f
  have := d.isLt; have := a.isLt; have ⟨_, hsz⟩ := Sz.code_spec sz; have := e.toNat_lt
  refine ⟨by simp only [FmtLdp.put]; omega, fun w h => ?_⟩
  simp only [FmtLdp.put] at h
  simp only [FmtLdp.get]
  rw [show natField w 7 3 = sz.code by unfold natField; omega, hsz]
  simp only [Option.bind_eq_bind, Option.bind_some]
  congr 2 <;> first | (apply bv_eq; omega) | (apply bit_eq; omega)

theorem FmtPrf.put_spec (f : FmtPrf) : f.put < 131072 ∧ ∀ w, w % 16777216 = f.put → FmtPrf.get w = some f := by
  obtain ⟨a, ch⟩ := f
  have := a.isLt; have ⟨_, hch⟩ := Ch.code_spec ch
  refine ⟨by simp only [FmtPrf.put]; omega, fun w h => ?_⟩
  simp only [FmtPrf.put] at h
  simp only [FmtPrf.get]
  rw [show natField w 0 2 = ch.code by unfold natField; omega, hch]
  simp only [Option.bind_eq_bind, Option.bind_some]
  congr 2 <;> first | (apply bv_eq; omega) | (apply bit_eq; omega)

theorem FmtCP.put_spec (f : FmtCP) : f.put < 16777216 ∧ ∀ w, w % 16777216 = f.put → FmtCP.get w = some f := by
  obtain ⟨pd, a, e, ha⟩ := f
  have := pd.isLt; have := a.isLt; have := e.toNat_lt; have := ha.toNat_lt
  refine ⟨by simp only [FmtCP.put]; omega, fun w h => ?_⟩
  simp only [FmtCP.put] at h
  simp only [FmtCP.get]
  congr 2 <;> first | (apply bv_eq; omega) | (apply bit_eq; omega)

theorem FmtFence.put_spec (f : FmtFence) : f.put < 128 ∧ ∀ w, w % 16777216 = f.put → FmtFence.get w = some f := by
  obtain ⟨ord, scp⟩ := f
  have ⟨_, hord⟩ := MemOrd.code_spec ord; have ⟨_, hscp⟩ := Scope.code_spec scp
  refine ⟨by simp only [FmtFence.put]; omega, fun w h => ?_⟩
  simp only [FmtFence.put] at h
  simp only [FmtFence.get]
  rw [show natField w 5 2 = ord.code by unfold natField; omega, hord]
  rw [show natField w 3 2 = scp.code by unfold natField; omega, hscp]
  simp only [Option.bind_eq_bind, Option.bind_some]

theorem FmtCctl.put_spec (f : FmtCctl) : f.put < 131072 ∧ ∀ w, w % 16777216 = f.put → FmtCctl.get w = some f := by
  obtain ⟨a, scp, ch⟩ := f
  have := a.isLt; have ⟨_, hscp⟩ := Scope.code_spec scp; have ⟨_, hch⟩ := Ch.code_spec ch
  refine ⟨by simp only [FmtCctl.put]; omega, fun w h => ?_⟩
  simp only [FmtCctl.put] at h
  simp only [FmtCctl.get]
  rw [show natField w 3 2 = scp.code by unfold natField; omega, hscp]
  rw [show natField w 0 2 = ch.code by unfold natField; omega, hch]
  simp only [Option.bind_eq_bind, Option.bind_some]
  congr 2 <;> first | (apply bv_eq; omega) | (apply bit_eq; omega)

theorem FmtCctlAll.put_spec (f : FmtCctlAll) : f.put < 32 ∧ ∀ w, w % 16777216 = f.put → FmtCctlAll.get w = some f := by
  obtain ⟨scp, ch⟩ := f
  have ⟨_, hscp⟩ := Scope.code_spec scp; have ⟨_, hch⟩ := Ch.code_spec ch
  refine ⟨by simp only [FmtCctlAll.put]; omega, fun w h => ?_⟩
  simp only [FmtCctlAll.put] at h
  simp only [FmtCctlAll.get]
  rw [show natField w 3 2 = scp.code by unfold natField; omega, hscp]
  rw [show natField w 0 2 = ch.code by unfold natField; omega, hch]
  simp only [Option.bind_eq_bind, Option.bind_some]

theorem FmtAt.put_spec (f : FmtAt) : f.put < 16777216 ∧ ∀ w, w % 16777216 = f.put → FmtAt.get w = some f := by
  obtain ⟨d, a, aop, ord, scp, w64, e⟩ := f
  have := d.isLt; have := a.isLt; have ⟨_, haop⟩ := Aop.code_spec aop; have ⟨_, hord⟩ := MemOrd.code_spec ord; have ⟨_, hscp⟩ := Scope.code_spec scp; have := w64.toNat_lt; have := e.toNat_lt
  refine ⟨by simp only [FmtAt.put]; omega, fun w h => ?_⟩
  simp only [FmtAt.put] at h
  simp only [FmtAt.get]
  rw [show natField w 6 4 = aop.code by unfold natField; omega, haop]
  rw [show natField w 4 2 = ord.code by unfold natField; omega, hord]
  rw [show natField w 2 2 = scp.code by unfold natField; omega, hscp]
  simp only [Option.bind_eq_bind, Option.bind_some]
  congr 2 <;> first | (apply bv_eq; omega) | (apply bit_eq; omega)

theorem FmtSrc.put_spec (f : FmtSrc) : f.put < 131072 ∧ ∀ w, w % 16777216 = f.put → FmtSrc.get w = some f := by
  obtain ⟨a, e, ha⟩ := f
  have := a.isLt; have := e.toNat_lt; have := ha.toNat_lt
  refine ⟨by simp only [FmtSrc.put]; omega, fun w h => ?_⟩
  simp only [FmtSrc.put] at h
  simp only [FmtSrc.get]
  congr 2 <;> first | (apply bv_eq; omega) | (apply bit_eq; omega)

theorem FmtDst.put_spec (f : FmtDst) : f.put < 16777216 ∧ ∀ w, w % 16777216 = f.put → FmtDst.get w = some f := by
  obtain ⟨d, e⟩ := f
  have := d.isLt; have := e.toNat_lt
  refine ⟨by simp only [FmtDst.put]; omega, fun w h => ?_⟩
  simp only [FmtDst.put] at h
  simp only [FmtDst.get]
  congr 2 <;> first | (apply bv_eq; omega) | (apply bit_eq; omega)

theorem FmtBar.put_spec (f : FmtBar) : f.put < 16 ∧ ∀ w, w % 16777216 = f.put → FmtBar.get w = some f := by
  obtain ⟨b⟩ := f
  have := b.isLt
  refine ⟨by simp only [FmtBar.put]; omega, fun w h => ?_⟩
  simp only [FmtBar.put] at h
  simp only [FmtBar.get]
  congr 2 <;> first | (apply bv_eq; omega) | (apply bit_eq; omega)

theorem FmtStgw.put_spec (f : FmtStgw) : f.put < 128 ∧ ∀ w, w % 16777216 = f.put → FmtStgw.get w = some f := by
  obtain ⟨phase, slot, ring⟩ := f
  have := phase.toNat_lt; have := slot.isLt; have := ring.isLt
  refine ⟨by simp only [FmtStgw.put]; omega, fun w h => ?_⟩
  simp only [FmtStgw.put] at h
  simp only [FmtStgw.get]
  congr 2 <;> first | (apply bv_eq; omega) | (apply bit_eq; omega)

theorem FmtStgR.put_spec (f : FmtStgR) : f.put < 131072 ∧ ∀ w, w % 16777216 = f.put → FmtStgR.get w = some f := by
  obtain ⟨a, ring⟩ := f
  have := a.isLt; have := ring.isLt
  refine ⟨by simp only [FmtStgR.put]; omega, fun w h => ?_⟩
  simp only [FmtStgR.put] at h
  simp only [FmtStgR.get]
  congr 2 <;> first | (apply bv_eq; omega) | (apply bit_eq; omega)

theorem FmtStga.put_spec (f : FmtStga) : f.put < 64 ∧ ∀ w, w % 16777216 = f.put → FmtStga.get w = some f := by
  obtain ⟨slot, ring⟩ := f
  have := slot.isLt; have := ring.isLt
  refine ⟨by simp only [FmtStga.put]; omega, fun w h => ?_⟩
  simp only [FmtStga.put] at h
  simp only [FmtStga.get]
  congr 2 <;> first | (apply bv_eq; omega) | (apply bit_eq; omega)

theorem FmtQd.put_spec (f : FmtQd) : f.put < 16777216 ∧ ∀ w, w % 16777216 = f.put → FmtQd.get w = some f := by
  obtain ⟨d, m, e⟩ := f
  have := d.isLt; have := m.isLt; have := e.toNat_lt
  refine ⟨by simp only [FmtQd.put]; omega, fun w h => ?_⟩
  simp only [FmtQd.put] at h
  simp only [FmtQd.get]
  congr 2 <;> first | (apply bv_eq; omega) | (apply bit_eq; omega)

theorem FmtD.put_spec (f : FmtD) : f.put < 16777216 ∧ ∀ w, w % 16777216 = f.put → FmtD.get w = some f := by
  obtain ⟨d⟩ := f
  have := d.isLt
  refine ⟨by simp only [FmtD.put]; omega, fun w h => ?_⟩
  simp only [FmtD.put] at h
  simp only [FmtD.get]
  congr 2 <;> first | (apply bv_eq; omega) | (apply bit_eq; omega)

theorem FmtQm.put_spec (f : FmtQm) : f.put < 1024 ∧ ∀ w, w % 16777216 = f.put → FmtQm.get w = some f := by
  obtain ⟨m, e⟩ := f
  have := m.isLt; have := e.toNat_lt
  refine ⟨by simp only [FmtQm.put]; omega, fun w h => ?_⟩
  simp only [FmtQm.put] at h
  simp only [FmtQm.get]
  congr 2 <;> first | (apply bv_eq; omega) | (apply bit_eq; omega)

theorem FmtQa.put_spec (f : FmtQa) : f.put < 131072 ∧ ∀ w, w % 16777216 = f.put → FmtQa.get w = some f := by
  obtain ⟨a, m, e⟩ := f
  have := a.isLt; have := m.isLt; have := e.toNat_lt
  refine ⟨by simp only [FmtQa.put]; omega, fun w h => ?_⟩
  simp only [FmtQa.put] at h
  simp only [FmtQa.get]
  congr 2 <;> first | (apply bv_eq; omega) | (apply bit_eq; omega)

theorem FmtQswp.put_spec (f : FmtQswp) : f.put < 16777216 ∧ ∀ w, w % 16777216 = f.put → FmtQswp.get w = some f := by
  obtain ⟨dir, d, a, m, e⟩ := f
  have ⟨_, hdir⟩ := QDir.code_spec dir; have := d.isLt; have := a.isLt; have := m.isLt; have := e.toNat_lt
  refine ⟨by simp only [FmtQswp.put]; omega, fun w h => ?_⟩
  simp only [FmtQswp.put] at h
  simp only [FmtQswp.get]
  rw [show natField w 3 3 = dir.code by unfold natField; omega, hdir]
  simp only [Option.bind_eq_bind, Option.bind_some]
  congr 2 <;> first | (apply bv_eq; omega) | (apply bit_eq; omega)

theorem FmtQbc.put_spec (f : FmtQbc) : f.put < 16777216 ∧ ∀ w, w % 16777216 = f.put → FmtQbc.get w = some f := by
  obtain ⟨n, d, a, m, e⟩ := f
  have := n.isLt; have := d.isLt; have := a.isLt; have := m.isLt; have := e.toNat_lt
  refine ⟨by simp only [FmtQbc.put]; omega, fun w h => ?_⟩
  simp only [FmtQbc.put] at h
  simp only [FmtQbc.get]
  congr 2 <;> first | (apply bv_eq; omega) | (apply bit_eq; omega)

theorem FmtQ.put_spec (f : FmtQ) : f.put < 16777216 ∧ ∀ w, w % 16777216 = f.put → FmtQ.get w = some f := by
  obtain ⟨d, a, m, e⟩ := f
  have := d.isLt; have := a.isLt; have := m.isLt; have := e.toNat_lt
  refine ⟨by simp only [FmtQ.put]; omega, fun w h => ?_⟩
  simp only [FmtQ.put] at h
  simp only [FmtQ.get]
  congr 2 <;> first | (apply bv_eq; omega) | (apply bit_eq; omega)

theorem FmtVote.put_spec (f : FmtVote) : f.put < 16777216 ∧ ∀ w, w % 16777216 = f.put → FmtVote.get w = some f := by
  obtain ⟨op, d, a, m, e⟩ := f
  have ⟨_, hop⟩ := VoteOp.code_spec op; have := d.isLt; have := a.isLt; have := m.isLt; have := e.toNat_lt
  refine ⟨by simp only [FmtVote.put]; omega, fun w h => ?_⟩
  simp only [FmtVote.put] at h
  simp only [FmtVote.get]
  rw [show natField w 3 3 = op.code by unfold natField; omega, hop]
  simp only [Option.bind_eq_bind, Option.bind_some]
  congr 2 <;> first | (apply bv_eq; omega) | (apply bit_eq; omega)

theorem FmtRed.put_spec (f : FmtRed) : f.put < 16777216 ∧ ∀ w, w % 16777216 = f.put → FmtRed.get w = some f := by
  obtain ⟨op, d, a, m, e⟩ := f
  have ⟨_, hop⟩ := RedOp.code_spec op; have := d.isLt; have := a.isLt; have := m.isLt; have := e.toNat_lt
  refine ⟨by simp only [FmtRed.put]; omega, fun w h => ?_⟩
  simp only [FmtRed.put] at h
  simp only [FmtRed.get]
  rw [show natField w 3 3 = op.code by unfold natField; omega, hop]
  simp only [Option.bind_eq_bind, Option.bind_some]
  congr 2 <;> first | (apply bv_eq; omega) | (apply bit_eq; omega)

theorem FmtP.put_spec (f : FmtP) : f.put < 16777216 ∧ ∀ w, w % 16777216 = f.put → FmtP.get w = some f := by
  obtain ⟨pd, pa, pb, lut⟩ := f
  have := pd.isLt; have := pa.isLt; have := pb.isLt; have := lut.isLt
  refine ⟨by simp only [FmtP.put]; omega, fun w h => ?_⟩
  simp only [FmtP.put] at h
  simp only [FmtP.get]
  congr 2 <;> first | (apply bv_eq; omega) | (apply bit_eq; omega)

theorem FmtTile.put_spec (f : FmtTile) : f.put < 4 ∧ ∀ w, w % 16777216 = f.put → FmtTile.get w = some f := by
  obtain ⟨t⟩ := f
  have := t.isLt
  refine ⟨by simp only [FmtTile.put]; omega, fun w h => ?_⟩
  simp only [FmtTile.put] at h
  simp only [FmtTile.get]
  congr 2 <;> first | (apply bv_eq; omega) | (apply bit_eq; omega)

theorem FmtE.put_spec (f : FmtE) : f.put < 16777216 ∧ ∀ w, w % 16777216 = f.put → FmtE.get w = some f := by
  obtain ⟨tok, wm, a⟩ := f
  have := tok.isLt; have := wm.isLt; have := a.isLt
  refine ⟨by simp only [FmtE.put]; omega, fun w h => ?_⟩
  simp only [FmtE.put] at h
  simp only [FmtE.get]
  congr 2 <;> first | (apply bv_eq; omega) | (apply bit_eq; omega)

theorem FmtEm.put_spec (f : FmtEm) : f.put < 16777216 ∧ ∀ w, w % 16777216 = f.put → FmtEm.get w = some f := by
  obtain ⟨tok, wm, a, mask⟩ := f
  have := tok.isLt; have := wm.isLt; have := a.isLt; have := mask.isLt
  refine ⟨by simp only [FmtEm.put]; omega, fun w h => ?_⟩
  simp only [FmtEm.put] at h
  simp only [FmtEm.get]
  congr 2 <;> first | (apply bv_eq; omega) | (apply bit_eq; omega)

theorem FmtEw.put_spec (f : FmtEw) : f.put < 2097152 ∧ ∀ w, w % 16777216 = f.put → FmtEw.get w = some f := by
  obtain ⟨wm, a⟩ := f
  have := wm.isLt; have := a.isLt
  refine ⟨by simp only [FmtEw.put]; omega, fun w h => ?_⟩
  simp only [FmtEw.put] at h
  simp only [FmtEw.get]
  congr 2 <;> first | (apply bv_eq; omega) | (apply bit_eq; omega)

theorem FmtEb.put_spec (f : FmtEb) : f.put < 2097152 ∧ ∀ w, w % 16777216 = f.put → FmtEb.get w = some f := by
  obtain ⟨wm, b⟩ := f
  have := wm.isLt; have := b.isLt
  refine ⟨by simp only [FmtEb.put]; omega, fun w h => ?_⟩
  simp only [FmtEb.put] at h
  simp only [FmtEb.get]
  congr 2 <;> first | (apply bv_eq; omega) | (apply bit_eq; omega)

theorem FmtSrd.put_spec (f : FmtSrd) : f.put < 16777216 ∧ ∀ w, w % 16777216 = f.put → FmtSrd.get w = some f := by
  obtain ⟨d, sel⟩ := f
  have := d.isLt; have := sel.isLt
  refine ⟨by simp only [FmtSrd.put]; omega, fun w h => ?_⟩
  simp only [FmtSrd.put] at h
  simp only [FmtSrd.get]
  congr 2 <;> first | (apply bv_eq; omega) | (apply bit_eq; omega)

theorem FmtSwr.put_spec (f : FmtSwr) : f.put < 131072 ∧ ∀ w, w % 16777216 = f.put → FmtSwr.get w = some f := by
  obtain ⟨a, sel⟩ := f
  have := a.isLt; have := sel.isLt
  refine ⟨by simp only [FmtSwr.put]; omega, fun w h => ?_⟩
  simp only [FmtSwr.put] at h
  simp only [FmtSwr.get]
  congr 2 <;> first | (apply bv_eq; omega) | (apply bit_eq; omega)

end Sys2Proof
end

