-- ==== Sys2Proof/Laws/PerInstr.lean ====
section
/-! SUPPORT. The statement about each instruction as syntax: what its encoding decodes to, one lemma per constructor. -/
namespace Sys2Proof.Laws.RoundTrip

/-- The word that encodes the instruction, where it has one, fits 32 bits and decodes to the instruction again (R314, R321). -/
def Statement (i : Instr) : Prop := i.wellFormed = true → ∀ w, encode i = some w → w < 2 ^ 32 ∧ decode w = .ok i

/-- A step of the device has no word. -/
theorem none_of {i : Instr} (h : encode i = none) : Statement i := fun _ w e => by rw [h] at e; cases e

/-- A constructor whose word is `base + p`. -/
theorem some_of {i : Instr} {base p : Nat} (h : encode i = some (base + p)) (hb : base + p < 4294967296)
    (hd : ∀ w, w = base + p → decodeFields w = .ok i) : Statement i := fun hw w e => by
  rw [h] at e
  cases e
  exact ⟨hb, decode_row (hd _ rfl) hw⟩

theorem nop : Statement .nop := fun _ w e => by
  have h : encode .nop = some 0x00000000 := rfl
  rw [h] at e
  cases e
  exact ⟨by decide, rfl⟩

theorem pblk (f : FmtPB) : Statement (.pblk f) := by
  obtain ⟨hl, hg⟩ := f.put_spec
  refine some_of (base := 16777216) (p := f.put) rfl (by omega) fun w e => ?_
  obtain ⟨h1, h2⟩ := opc (w := w) (c := 1) (by omega)
  have hf := hg w (by omega)
  have := f.p.isLt; have := f.n.toNat_lt; have := f.len.isLt; have := f.pat.isLt
  unfold FmtPB.put at e
  simp only [decodeFields, h1, h2, decodeOp0, Nat.reduceDiv, Nat.reduceMod]
  refine row_ok ?_ hf
  simp only [List.all_cons, List.all_nil, Bool.and_true, beq_iff_eq, natField]
  omega

theorem imx (f : FmtX) : Statement (.imx f) := by
  obtain ⟨hl, hg⟩ := f.put_spec
  refine some_of (base := 33554432) (p := f.put) rfl (by omega) fun w e => ?_
  obtain ⟨h1, h2⟩ := opc (w := w) (c := 2) (by omega)
  have hf := hg w (by omega)
  have := f.imm.isLt
  unfold FmtX.put at e
  simp only [decodeFields, h1, h2, decodeOp0, Nat.reduceDiv, Nat.reduceMod]
  refine row_ok ?_ hf
  simp only [List.all_cons, List.all_nil, Bool.and_true, beq_iff_eq, natField]
  omega

theorem bra (f : FmtB) : Statement (.bra f) := by
  obtain ⟨hl, hg⟩ := f.put_spec
  refine some_of (base := 50331648) (p := f.put) rfl (by omega) fun w e => ?_
  obtain ⟨h1, h2⟩ := opc (w := w) (c := 3) (by omega)
  have hf := hg w (by omega)
  simp only [decodeFields, h1, h2, decodeOp0, Nat.reduceDiv, Nat.reduceMod]
  exact row_ok rfl hf

theorem jmp (f : FmtJ) : Statement (.jmp f) := by
  obtain ⟨hl, hg⟩ := f.put_spec
  refine some_of (base := 67108864) (p := f.put) rfl (by omega) fun w e => ?_
  obtain ⟨h1, h2⟩ := opc (w := w) (c := 4) (by omega)
  have hf := hg w (by omega)
  simp only [decodeFields, h1, h2, decodeOp0, Nat.reduceDiv, Nat.reduceMod]
  exact row_ok rfl hf

theorem call (f : FmtJ) : Statement (.call f) := by
  obtain ⟨hl, hg⟩ := f.put_spec
  refine some_of (base := 83886080) (p := f.put) rfl (by omega) fun w e => ?_
  obtain ⟨h1, h2⟩ := opc (w := w) (c := 5) (by omega)
  have hf := hg w (by omega)
  simp only [decodeFields, h1, h2, decodeOp0, Nat.reduceDiv, Nat.reduceMod]
  exact row_ok rfl hf

theorem jmpi (f : FmtJmpi) : Statement (.jmpi f) := by
  obtain ⟨hl, hg⟩ := f.put_spec
  refine some_of (base := 100663296) (p := f.put) rfl (by omega) fun w e => ?_
  obtain ⟨h1, h2⟩ := opc (w := w) (c := 6) (by omega)
  have hf := hg w (by omega)
  have := f.a.isLt; have := f.prio.isLt
  unfold FmtJmpi.put at e
  simp only [decodeFields, h1, h2, decodeOp0, Nat.reduceDiv, Nat.reduceMod]
  refine row_ok ?_ hf
  simp only [List.all_cons, List.all_nil, Bool.and_true, Bool.and_eq_true, beq_iff_eq, natField]
  omega

theorem calli (f : FmtCalli) : Statement (.calli f) := by
  obtain ⟨hl, hg⟩ := f.put_spec
  refine some_of (base := 117440512) (p := f.put) rfl (by omega) fun w e => ?_
  obtain ⟨h1, h2⟩ := opc (w := w) (c := 7) (by omega)
  have hf := hg w (by omega)
  have := f.d.isLt; have := f.a.isLt; have := f.prio.isLt
  unfold FmtCalli.put at e
  simp only [decodeFields, h1, h2, decodeOp0, Nat.reduceDiv, Nat.reduceMod]
  refine row_ok ?_ hf
  simp only [List.all_cons, List.all_nil, Bool.and_true, beq_iff_eq, natField]
  omega

theorem setprio (f : FmtPrio) : Statement (.setprio f) := by
  obtain ⟨hl, hg⟩ := f.put_spec
  refine some_of (base := 134217728) (p := f.put) rfl (by omega) fun w e => ?_
  obtain ⟨h1, h2⟩ := opc (w := w) (c := 8) (by omega)
  have hf := hg w (by omega)
  have := f.prio.isLt
  unfold FmtPrio.put at e
  simp only [decodeFields, h1, h2, decodeOp0, Nat.reduceDiv, Nat.reduceMod]
  refine row_ok ?_ hf
  simp only [List.all_cons, List.all_nil, Bool.and_true, beq_iff_eq, natField]
  omega

theorem exit : Statement .exit := fun _ w e => by
  have h : encode .exit = some 0x09000000 := rfl
  rw [h] at e
  cases e
  exact ⟨by decide, rfl⟩

theorem winb (f : FmtWinb) : Statement (.winb f) := by
  obtain ⟨hl, hg⟩ := f.put_spec
  refine some_of (base := 167772160) (p := f.put) rfl (by omega) fun w e => ?_
  obtain ⟨h1, h2⟩ := opc (w := w) (c := 10) (by omega)
  have hf := hg w (by omega)
  have := f.base.isLt
  unfold FmtWinb.put at e
  simp only [decodeFields, h1, h2, decodeOp0, Nat.reduceDiv, Nat.reduceMod]
  refine row_ok ?_ hf
  simp only [List.all_cons, List.all_nil, Bool.and_true, beq_iff_eq, natField]
  omega

theorem yield : Statement .yield := fun _ w e => by
  have h : encode .yield = some 0x0B000000 := rfl
  rw [h] at e
  cases e
  exact ⟨by decide, rfl⟩

theorem brk (f : FmtCode) : Statement (.brk f) := by
  obtain ⟨hl, hg⟩ := f.put_spec
  refine some_of (base := 201326592) (p := f.put) rfl (by omega) fun w e => ?_
  obtain ⟨h1, h2⟩ := opc (w := w) (c := 12) (by omega)
  have hf := hg w (by omega)
  have := f.code.isLt
  unfold FmtCode.put at e
  simp only [decodeFields, h1, h2, decodeOp0, Nat.reduceDiv, Nat.reduceMod]
  refine row_ok ?_ hf
  simp only [List.all_cons, List.all_nil, Bool.and_true, beq_iff_eq, natField]
  omega

theorem trap (f : FmtCode) : Statement (.trap f) := by
  obtain ⟨hl, hg⟩ := f.put_spec
  refine some_of (base := 218103808) (p := f.put) rfl (by omega) fun w e => ?_
  obtain ⟨h1, h2⟩ := opc (w := w) (c := 13) (by omega)
  have hf := hg w (by omega)
  have := f.code.isLt
  unfold FmtCode.put at e
  simp only [decodeFields, h1, h2, decodeOp0, Nat.reduceDiv, Nat.reduceMod]
  refine row_ok ?_ hf
  simp only [List.all_cons, List.all_nil, Bool.and_true, beq_iff_eq, natField]
  omega

theorem rft : Statement .rft := fun _ w e => by
  have h : encode .rft = some 0x0E000000 := rfl
  rw [h] at e
  cases e
  exact ⟨by decide, rfl⟩

theorem iadd (f : FmtR) : Statement (.iadd f) := by
  obtain ⟨hl, hg⟩ := f.put_spec
  refine some_of (base := 268435456) (p := f.put) rfl (by omega) fun w e => ?_
  obtain ⟨h1, h2⟩ := opc (w := w) (c := 16) (by omega)
  have hf := hg w (by omega)
  simp only [decodeFields, h1, h2, decodeOp1, Nat.reduceDiv, Nat.reduceMod]
  exact row_ok rfl hf

theorem isub (f : FmtR) : Statement (.isub f) := by
  obtain ⟨hl, hg⟩ := f.put_spec
  refine some_of (base := 285212672) (p := f.put) rfl (by omega) fun w e => ?_
  obtain ⟨h1, h2⟩ := opc (w := w) (c := 17) (by omega)
  have hf := hg w (by omega)
  simp only [decodeFields, h1, h2, decodeOp1, Nat.reduceDiv, Nat.reduceMod]
  exact row_ok rfl hf

theorem imul (f : FmtR) : Statement (.imul f) := by
  obtain ⟨hl, hg⟩ := f.put_spec
  refine some_of (base := 301989888) (p := f.put) rfl (by omega) fun w e => ?_
  obtain ⟨h1, h2⟩ := opc (w := w) (c := 18) (by omega)
  have hf := hg w (by omega)
  simp only [decodeFields, h1, h2, decodeOp1, Nat.reduceDiv, Nat.reduceMod]
  exact row_ok rfl hf

theorem imulh (f : FmtR) : Statement (.imulh f) := by
  obtain ⟨hl, hg⟩ := f.put_spec
  refine some_of (base := 318767104) (p := f.put) rfl (by omega) fun w e => ?_
  obtain ⟨h1, h2⟩ := opc (w := w) (c := 19) (by omega)
  have hf := hg w (by omega)
  simp only [decodeFields, h1, h2, decodeOp1, Nat.reduceDiv, Nat.reduceMod]
  exact row_ok rfl hf

theorem imulhu (f : FmtR) : Statement (.imulhu f) := by
  obtain ⟨hl, hg⟩ := f.put_spec
  refine some_of (base := 335544320) (p := f.put) rfl (by omega) fun w e => ?_
  obtain ⟨h1, h2⟩ := opc (w := w) (c := 20) (by omega)
  have hf := hg w (by omega)
  simp only [decodeFields, h1, h2, decodeOp1, Nat.reduceDiv, Nat.reduceMod]
  exact row_ok rfl hf

theorem imad (f : FmtR) : Statement (.imad f) := by
  obtain ⟨hl, hg⟩ := f.put_spec
  refine some_of (base := 352321536) (p := f.put) rfl (by omega) fun w e => ?_
  obtain ⟨h1, h2⟩ := opc (w := w) (c := 21) (by omega)
  have hf := hg w (by omega)
  simp only [decodeFields, h1, h2, decodeOp1, Nat.reduceDiv, Nat.reduceMod]
  exact row_ok rfl hf

theorem imad64 (f : FmtR) : Statement (.imad64 f) := by
  obtain ⟨hl, hg⟩ := f.put_spec
  refine some_of (base := 369098752) (p := f.put) rfl (by omega) fun w e => ?_
  obtain ⟨h1, h2⟩ := opc (w := w) (c := 22) (by omega)
  have hf := hg w (by omega)
  simp only [decodeFields, h1, h2, decodeOp1, Nat.reduceDiv, Nat.reduceMod]
  exact row_ok rfl hf

theorem imad64u (f : FmtR) : Statement (.imad64u f) := by
  obtain ⟨hl, hg⟩ := f.put_spec
  refine some_of (base := 385875968) (p := f.put) rfl (by omega) fun w e => ?_
  obtain ⟨h1, h2⟩ := opc (w := w) (c := 23) (by omega)
  have hf := hg w (by omega)
  simp only [decodeFields, h1, h2, decodeOp1, Nat.reduceDiv, Nat.reduceMod]
  exact row_ok rfl hf

theorem iadd64 (f : FmtR) : Statement (.iadd64 f) := by
  obtain ⟨hl, hg⟩ := f.put_spec
  refine some_of (base := 402653184) (p := f.put) rfl (by omega) fun w e => ?_
  obtain ⟨h1, h2⟩ := opc (w := w) (c := 24) (by omega)
  have hf := hg w (by omega)
  simp only [decodeFields, h1, h2, decodeOp1, Nat.reduceDiv, Nat.reduceMod]
  exact row_ok rfl hf

theorem isub64 (f : FmtR) : Statement (.isub64 f) := by
  obtain ⟨hl, hg⟩ := f.put_spec
  refine some_of (base := 419430400) (p := f.put) rfl (by omega) fun w e => ?_
  obtain ⟨h1, h2⟩ := opc (w := w) (c := 25) (by omega)
  have hf := hg w (by omega)
  simp only [decodeFields, h1, h2, decodeOp1, Nat.reduceDiv, Nat.reduceMod]
  exact row_ok rfl hf

theorem idiv (f : FmtR) : Statement (.idiv f) := by
  obtain ⟨hl, hg⟩ := f.put_spec
  refine some_of (base := 436207616) (p := f.put) rfl (by omega) fun w e => ?_
  obtain ⟨h1, h2⟩ := opc (w := w) (c := 26) (by omega)
  have hf := hg w (by omega)
  simp only [decodeFields, h1, h2, decodeOp1, Nat.reduceDiv, Nat.reduceMod]
  exact row_ok rfl hf

theorem idivu (f : FmtR) : Statement (.idivu f) := by
  obtain ⟨hl, hg⟩ := f.put_spec
  refine some_of (base := 452984832) (p := f.put) rfl (by omega) fun w e => ?_
  obtain ⟨h1, h2⟩ := opc (w := w) (c := 27) (by omega)
  have hf := hg w (by omega)
  simp only [decodeFields, h1, h2, decodeOp1, Nat.reduceDiv, Nat.reduceMod]
  exact row_ok rfl hf

theorem irem (f : FmtR) : Statement (.irem f) := by
  obtain ⟨hl, hg⟩ := f.put_spec
  refine some_of (base := 469762048) (p := f.put) rfl (by omega) fun w e => ?_
  obtain ⟨h1, h2⟩ := opc (w := w) (c := 28) (by omega)
  have hf := hg w (by omega)
  simp only [decodeFields, h1, h2, decodeOp1, Nat.reduceDiv, Nat.reduceMod]
  exact row_ok rfl hf

theorem iremu (f : FmtR) : Statement (.iremu f) := by
  obtain ⟨hl, hg⟩ := f.put_spec
  refine some_of (base := 486539264) (p := f.put) rfl (by omega) fun w e => ?_
  obtain ⟨h1, h2⟩ := opc (w := w) (c := 29) (by omega)
  have hf := hg w (by omega)
  simp only [decodeFields, h1, h2, decodeOp1, Nat.reduceDiv, Nat.reduceMod]
  exact row_ok rfl hf

theorem min (f : FmtR) : Statement (.min f) := by
  obtain ⟨hl, hg⟩ := f.put_spec
  refine some_of (base := 503316480) (p := f.put) rfl (by omega) fun w e => ?_
  obtain ⟨h1, h2⟩ := opc (w := w) (c := 30) (by omega)
  have hf := hg w (by omega)
  simp only [decodeFields, h1, h2, decodeOp1, Nat.reduceDiv, Nat.reduceMod]
  exact row_ok rfl hf

theorem max (f : FmtR) : Statement (.max f) := by
  obtain ⟨hl, hg⟩ := f.put_spec
  refine some_of (base := 520093696) (p := f.put) rfl (by omega) fun w e => ?_
  obtain ⟨h1, h2⟩ := opc (w := w) (c := 31) (by omega)
  have hf := hg w (by omega)
  simp only [decodeFields, h1, h2, decodeOp1, Nat.reduceDiv, Nat.reduceMod]
  exact row_ok rfl hf

theorem minu (f : FmtR) : Statement (.minu f) := by
  obtain ⟨hl, hg⟩ := f.put_spec
  refine some_of (base := 536870912) (p := f.put) rfl (by omega) fun w e => ?_
  obtain ⟨h1, h2⟩ := opc (w := w) (c := 32) (by omega)
  have hf := hg w (by omega)
  simp only [decodeFields, h1, h2, decodeOp2, Nat.reduceDiv, Nat.reduceMod]
  exact row_ok rfl hf

theorem maxu (f : FmtR) : Statement (.maxu f) := by
  obtain ⟨hl, hg⟩ := f.put_spec
  refine some_of (base := 553648128) (p := f.put) rfl (by omega) fun w e => ?_
  obtain ⟨h1, h2⟩ := opc (w := w) (c := 33) (by omega)
  have hf := hg w (by omega)
  simp only [decodeFields, h1, h2, decodeOp2, Nat.reduceDiv, Nat.reduceMod]
  exact row_ok rfl hf

theorem abs (f : FmtR1) : Statement (.abs f) := by
  obtain ⟨hl, hg⟩ := f.put_spec
  refine some_of (base := 570425344) (p := f.put) rfl (by omega) fun w e => ?_
  obtain ⟨h1, h2⟩ := opc (w := w) (c := 34) (by omega)
  have hf := hg w (by omega)
  have := f.d.isLt; have := f.a.isLt; have := f.e.toNat_lt; have := f.ha.toNat_lt
  unfold FmtR1.put at e
  simp only [decodeFields, h1, h2, decodeOp2, Nat.reduceDiv, Nat.reduceMod]
  refine row_ok ?_ hf
  simp only [List.all_cons, List.all_nil, Bool.and_true, Bool.and_eq_true, beq_iff_eq, natField]
  omega

theorem and (f : FmtR) : Statement (.and f) := by
  obtain ⟨hl, hg⟩ := f.put_spec
  refine some_of (base := 587202560) (p := f.put) rfl (by omega) fun w e => ?_
  obtain ⟨h1, h2⟩ := opc (w := w) (c := 35) (by omega)
  have hf := hg w (by omega)
  simp only [decodeFields, h1, h2, decodeOp2, Nat.reduceDiv, Nat.reduceMod]
  exact row_ok rfl hf

theorem or (f : FmtR) : Statement (.or f) := by
  obtain ⟨hl, hg⟩ := f.put_spec
  refine some_of (base := 603979776) (p := f.put) rfl (by omega) fun w e => ?_
  obtain ⟨h1, h2⟩ := opc (w := w) (c := 36) (by omega)
  have hf := hg w (by omega)
  simp only [decodeFields, h1, h2, decodeOp2, Nat.reduceDiv, Nat.reduceMod]
  exact row_ok rfl hf

theorem xor (f : FmtR) : Statement (.xor f) := by
  obtain ⟨hl, hg⟩ := f.put_spec
  refine some_of (base := 620756992) (p := f.put) rfl (by omega) fun w e => ?_
  obtain ⟨h1, h2⟩ := opc (w := w) (c := 37) (by omega)
  have hf := hg w (by omega)
  simp only [decodeFields, h1, h2, decodeOp2, Nat.reduceDiv, Nat.reduceMod]
  exact row_ok rfl hf

theorem andn (f : FmtR) : Statement (.andn f) := by
  obtain ⟨hl, hg⟩ := f.put_spec
  refine some_of (base := 637534208) (p := f.put) rfl (by omega) fun w e => ?_
  obtain ⟨h1, h2⟩ := opc (w := w) (c := 38) (by omega)
  have hf := hg w (by omega)
  simp only [decodeFields, h1, h2, decodeOp2, Nat.reduceDiv, Nat.reduceMod]
  exact row_ok rfl hf

theorem shl (f : FmtR) : Statement (.shl f) := by
  obtain ⟨hl, hg⟩ := f.put_spec
  refine some_of (base := 654311424) (p := f.put) rfl (by omega) fun w e => ?_
  obtain ⟨h1, h2⟩ := opc (w := w) (c := 39) (by omega)
  have hf := hg w (by omega)
  simp only [decodeFields, h1, h2, decodeOp2, Nat.reduceDiv, Nat.reduceMod]
  exact row_ok rfl hf

theorem shr (f : FmtR) : Statement (.shr f) := by
  obtain ⟨hl, hg⟩ := f.put_spec
  refine some_of (base := 671088640) (p := f.put) rfl (by omega) fun w e => ?_
  obtain ⟨h1, h2⟩ := opc (w := w) (c := 40) (by omega)
  have hf := hg w (by omega)
  simp only [decodeFields, h1, h2, decodeOp2, Nat.reduceDiv, Nat.reduceMod]
  exact row_ok rfl hf

theorem sar (f : FmtR) : Statement (.sar f) := by
  obtain ⟨hl, hg⟩ := f.put_spec
  refine some_of (base := 687865856) (p := f.put) rfl (by omega) fun w e => ?_
  obtain ⟨h1, h2⟩ := opc (w := w) (c := 41) (by omega)
  have hf := hg w (by omega)
  simp only [decodeFields, h1, h2, decodeOp2, Nat.reduceDiv, Nat.reduceMod]
  exact row_ok rfl hf

theorem rotl (f : FmtR) : Statement (.rotl f) := by
  obtain ⟨hl, hg⟩ := f.put_spec
  refine some_of (base := 704643072) (p := f.put) rfl (by omega) fun w e => ?_
  obtain ⟨h1, h2⟩ := opc (w := w) (c := 42) (by omega)
  have hf := hg w (by omega)
  simp only [decodeFields, h1, h2, decodeOp2, Nat.reduceDiv, Nat.reduceMod]
  exact row_ok rfl hf

theorem popc (f : FmtR1) : Statement (.popc f) := by
  obtain ⟨hl, hg⟩ := f.put_spec
  refine some_of (base := 721420288) (p := f.put) rfl (by omega) fun w e => ?_
  obtain ⟨h1, h2⟩ := opc (w := w) (c := 43) (by omega)
  have hf := hg w (by omega)
  have := f.d.isLt; have := f.a.isLt; have := f.e.toNat_lt; have := f.ha.toNat_lt
  unfold FmtR1.put at e
  simp only [decodeFields, h1, h2, decodeOp2, Nat.reduceDiv, Nat.reduceMod]
  refine row_ok ?_ hf
  simp only [List.all_cons, List.all_nil, Bool.and_true, Bool.and_eq_true, beq_iff_eq, natField]
  omega

theorem clz (f : FmtR1) : Statement (.clz f) := by
  obtain ⟨hl, hg⟩ := f.put_spec
  refine some_of (base := 738197504) (p := f.put) rfl (by omega) fun w e => ?_
  obtain ⟨h1, h2⟩ := opc (w := w) (c := 44) (by omega)
  have hf := hg w (by omega)
  have := f.d.isLt; have := f.a.isLt; have := f.e.toNat_lt; have := f.ha.toNat_lt
  unfold FmtR1.put at e
  simp only [decodeFields, h1, h2, decodeOp2, Nat.reduceDiv, Nat.reduceMod]
  refine row_ok ?_ hf
  simp only [List.all_cons, List.all_nil, Bool.and_true, Bool.and_eq_true, beq_iff_eq, natField]
  omega

theorem brev (f : FmtR1) : Statement (.brev f) := by
  obtain ⟨hl, hg⟩ := f.put_spec
  refine some_of (base := 754974720) (p := f.put) rfl (by omega) fun w e => ?_
  obtain ⟨h1, h2⟩ := opc (w := w) (c := 45) (by omega)
  have hf := hg w (by omega)
  have := f.d.isLt; have := f.a.isLt; have := f.e.toNat_lt; have := f.ha.toNat_lt
  unfold FmtR1.put at e
  simp only [decodeFields, h1, h2, decodeOp2, Nat.reduceDiv, Nat.reduceMod]
  refine row_ok ?_ hf
  simp only [List.all_cons, List.all_nil, Bool.and_true, Bool.and_eq_true, beq_iff_eq, natField]
  omega

theorem bfe (f : FmtR) : Statement (.bfe f) := by
  obtain ⟨hl, hg⟩ := f.put_spec
  refine some_of (base := 771751936) (p := f.put) rfl (by omega) fun w e => ?_
  obtain ⟨h1, h2⟩ := opc (w := w) (c := 46) (by omega)
  have hf := hg w (by omega)
  simp only [decodeFields, h1, h2, decodeOp2, Nat.reduceDiv, Nat.reduceMod]
  exact row_ok rfl hf

theorem bfi (f : FmtR) : Statement (.bfi f) := by
  obtain ⟨hl, hg⟩ := f.put_spec
  refine some_of (base := 788529152) (p := f.put) rfl (by omega) fun w e => ?_
  obtain ⟨h1, h2⟩ := opc (w := w) (c := 47) (by omega)
  have hf := hg w (by omega)
  simp only [decodeFields, h1, h2, decodeOp2, Nat.reduceDiv, Nat.reduceMod]
  exact row_ok rfl hf

theorem bpick (f : FmtR) : Statement (.bpick f) := by
  obtain ⟨hl, hg⟩ := f.put_spec
  refine some_of (base := 805306368) (p := f.put) rfl (by omega) fun w e => ?_
  obtain ⟨h1, h2⟩ := opc (w := w) (c := 48) (by omega)
  have hf := hg w (by omega)
  simp only [decodeFields, h1, h2, decodeOp3, Nat.reduceDiv, Nat.reduceMod]
  exact row_ok rfl hf

theorem leaX1 (f : FmtR) : Statement (.leaX1 f) := by
  obtain ⟨hl, hg⟩ := f.put_spec
  refine some_of (base := 822083584) (p := f.put) rfl (by omega) fun w e => ?_
  obtain ⟨h1, h2⟩ := opc (w := w) (c := 49) (by omega)
  have hf := hg w (by omega)
  simp only [decodeFields, h1, h2, decodeOp3, Nat.reduceDiv, Nat.reduceMod]
  exact row_ok rfl hf

theorem leaX2 (f : FmtR) : Statement (.leaX2 f) := by
  obtain ⟨hl, hg⟩ := f.put_spec
  refine some_of (base := 838860800) (p := f.put) rfl (by omega) fun w e => ?_
  obtain ⟨h1, h2⟩ := opc (w := w) (c := 50) (by omega)
  have hf := hg w (by omega)
  simp only [decodeFields, h1, h2, decodeOp3, Nat.reduceDiv, Nat.reduceMod]
  exact row_ok rfl hf

theorem leaX4 (f : FmtR) : Statement (.leaX4 f) := by
  obtain ⟨hl, hg⟩ := f.put_spec
  refine some_of (base := 855638016) (p := f.put) rfl (by omega) fun w e => ?_
  obtain ⟨h1, h2⟩ := opc (w := w) (c := 51) (by omega)
  have hf := hg w (by omega)
  simp only [decodeFields, h1, h2, decodeOp3, Nat.reduceDiv, Nat.reduceMod]
  exact row_ok rfl hf

theorem leaX8 (f : FmtR) : Statement (.leaX8 f) := by
  obtain ⟨hl, hg⟩ := f.put_spec
  refine some_of (base := 872415232) (p := f.put) rfl (by omega) fun w e => ?_
  obtain ⟨h1, h2⟩ := opc (w := w) (c := 52) (by omega)
  have hf := hg w (by omega)
  simp only [decodeFields, h1, h2, decodeOp3, Nat.reduceDiv, Nat.reduceMod]
  exact row_ok rfl hf

theorem idot4 (f : FmtR) : Statement (.idot4 f) := by
  obtain ⟨hl, hg⟩ := f.put_spec
  refine some_of (base := 889192448) (p := f.put) rfl (by omega) fun w e => ?_
  obtain ⟨h1, h2⟩ := opc (w := w) (c := 53) (by omega)
  have hf := hg w (by omega)
  simp only [decodeFields, h1, h2, decodeOp3, Nat.reduceDiv, Nat.reduceMod]
  exact row_ok rfl hf

theorem idot4u (f : FmtR) : Statement (.idot4u f) := by
  obtain ⟨hl, hg⟩ := f.put_spec
  refine some_of (base := 905969664) (p := f.put) rfl (by omega) fun w e => ?_
  obtain ⟨h1, h2⟩ := opc (w := w) (c := 54) (by omega)
  have hf := hg w (by omega)
  simp only [decodeFields, h1, h2, decodeOp3, Nat.reduceDiv, Nat.reduceMod]
  exact row_ok rfl hf

theorem isetp (f : FmtCI) : Statement (.isetp f) := by
  obtain ⟨hl, hg⟩ := f.put_spec
  refine some_of (base := 922746880) (p := f.put) rfl (by omega) fun w e => ?_
  obtain ⟨h1, h2⟩ := opc (w := w) (c := 55) (by omega)
  have hf := hg w (by omega)
  simp only [decodeFields, h1, h2, decodeOp3, Nat.reduceDiv, Nat.reduceMod]
  exact row_ok rfl hf

theorem sel (f : FmtRK) : Statement (.sel f) := by
  obtain ⟨hl, hg⟩ := f.put_spec
  refine some_of (base := 939524096) (p := f.put) rfl (by omega) fun w e => ?_
  obtain ⟨h1, h2⟩ := opc (w := w) (c := 56) (by omega)
  have hf := hg w (by omega)
  simp only [decodeFields, h1, h2, decodeOp3, Nat.reduceDiv, Nat.reduceMod]
  exact row_ok rfl hf

theorem mov (f : FmtR1) : Statement (.mov f) := by
  obtain ⟨hl, hg⟩ := f.put_spec
  refine some_of (base := 956301312) (p := f.put) rfl (by omega) fun w e => ?_
  obtain ⟨h1, h2⟩ := opc (w := w) (c := 57) (by omega)
  have hf := hg w (by omega)
  have := f.d.isLt; have := f.a.isLt; have := f.e.toNat_lt; have := f.ha.toNat_lt
  unfold FmtR1.put at e
  simp only [decodeFields, h1, h2, decodeOp3, Nat.reduceDiv, Nat.reduceMod]
  refine row_ok ?_ hf
  simp only [List.all_cons, List.all_nil, Bool.and_true, Bool.and_eq_true, beq_iff_eq, natField]
  omega

theorem movi (f : FmtMovi) : Statement (.movi f) := by
  obtain ⟨hl, hg⟩ := f.put_spec
  refine some_of (base := 973078528) (p := f.put) rfl (by omega) fun w e => ?_
  obtain ⟨h1, h2⟩ := opc (w := w) (c := 58) (by omega)
  have hf := hg w (by omega)
  have := f.d.isLt; have := f.imm.isLt
  unfold FmtMovi.put at e
  simp only [decodeFields, h1, h2, decodeOp3, Nat.reduceDiv, Nat.reduceMod]
  refine row_ok ?_ hf
  simp only [List.all_cons, List.all_nil, Bool.and_true, beq_iff_eq, natField]
  omega

theorem iaddi (f : FmtI) : Statement (.iaddi f) := by
  obtain ⟨hl, hg⟩ := f.put_spec
  refine some_of (base := 989855744) (p := f.put) rfl (by omega) fun w e => ?_
  obtain ⟨h1, h2⟩ := opc (w := w) (c := 59) (by omega)
  have hf := hg w (by omega)
  simp only [decodeFields, h1, h2, decodeOp3, Nat.reduceDiv, Nat.reduceMod]
  exact row_ok rfl hf

theorem andi (f : FmtI) : Statement (.andi f) := by
  obtain ⟨hl, hg⟩ := f.put_spec
  refine some_of (base := 1006632960) (p := f.put) rfl (by omega) fun w e => ?_
  obtain ⟨h1, h2⟩ := opc (w := w) (c := 60) (by omega)
  have hf := hg w (by omega)
  simp only [decodeFields, h1, h2, decodeOp3, Nat.reduceDiv, Nat.reduceMod]
  exact row_ok rfl hf

theorem ori (f : FmtI) : Statement (.ori f) := by
  obtain ⟨hl, hg⟩ := f.put_spec
  refine some_of (base := 1023410176) (p := f.put) rfl (by omega) fun w e => ?_
  obtain ⟨h1, h2⟩ := opc (w := w) (c := 61) (by omega)
  have hf := hg w (by omega)
  simp only [decodeFields, h1, h2, decodeOp3, Nat.reduceDiv, Nat.reduceMod]
  exact row_ok rfl hf

theorem xori (f : FmtI) : Statement (.xori f) := by
  obtain ⟨hl, hg⟩ := f.put_spec
  refine some_of (base := 1040187392) (p := f.put) rfl (by omega) fun w e => ?_
  obtain ⟨h1, h2⟩ := opc (w := w) (c := 62) (by omega)
  have hf := hg w (by omega)
  simp only [decodeFields, h1, h2, decodeOp3, Nat.reduceDiv, Nat.reduceMod]
  exact row_ok rfl hf

theorem shi (f : FmtSh) : Statement (.shi f) := by
  obtain ⟨hl, hg⟩ := f.put_spec
  refine some_of (base := 1056964608) (p := f.put) rfl (by omega) fun w e => ?_
  obtain ⟨h1, h2⟩ := opc (w := w) (c := 63) (by omega)
  have hf := hg w (by omega)
  have := f.d.isLt; have := f.a.isLt; have := (f.kind.code_spec).1; have := f.amount.isLt
  unfold FmtSh.put at e
  simp only [decodeFields, h1, h2, decodeOp3, Nat.reduceDiv, Nat.reduceMod]
  refine row_ok ?_ hf
  simp only [List.all_cons, List.all_nil, Bool.and_true, beq_iff_eq, natField]
  omega

theorem fadd (f : FmtR) : Statement (.fadd f) := by
  obtain ⟨hl, hg⟩ := f.put_spec
  refine some_of (base := 1073741824) (p := f.put) rfl (by omega) fun w e => ?_
  obtain ⟨h1, h2⟩ := opc (w := w) (c := 64) (by omega)
  have hf := hg w (by omega)
  simp only [decodeFields, h1, h2, decodeOp4, Nat.reduceDiv, Nat.reduceMod]
  exact row_ok rfl hf

theorem fsub (f : FmtR) : Statement (.fsub f) := by
  obtain ⟨hl, hg⟩ := f.put_spec
  refine some_of (base := 1090519040) (p := f.put) rfl (by omega) fun w e => ?_
  obtain ⟨h1, h2⟩ := opc (w := w) (c := 65) (by omega)
  have hf := hg w (by omega)
  simp only [decodeFields, h1, h2, decodeOp4, Nat.reduceDiv, Nat.reduceMod]
  exact row_ok rfl hf

theorem fmul (f : FmtR) : Statement (.fmul f) := by
  obtain ⟨hl, hg⟩ := f.put_spec
  refine some_of (base := 1107296256) (p := f.put) rfl (by omega) fun w e => ?_
  obtain ⟨h1, h2⟩ := opc (w := w) (c := 66) (by omega)
  have hf := hg w (by omega)
  simp only [decodeFields, h1, h2, decodeOp4, Nat.reduceDiv, Nat.reduceMod]
  exact row_ok rfl hf

theorem ffma (f : FmtR) : Statement (.ffma f) := by
  obtain ⟨hl, hg⟩ := f.put_spec
  refine some_of (base := 1124073472) (p := f.put) rfl (by omega) fun w e => ?_
  obtain ⟨h1, h2⟩ := opc (w := w) (c := 67) (by omega)
  have hf := hg w (by omega)
  simp only [decodeFields, h1, h2, decodeOp4, Nat.reduceDiv, Nat.reduceMod]
  exact row_ok rfl hf

theorem ffms (f : FmtR) : Statement (.ffms f) := by
  obtain ⟨hl, hg⟩ := f.put_spec
  refine some_of (base := 1140850688) (p := f.put) rfl (by omega) fun w e => ?_
  obtain ⟨h1, h2⟩ := opc (w := w) (c := 68) (by omega)
  have hf := hg w (by omega)
  simp only [decodeFields, h1, h2, decodeOp4, Nat.reduceDiv, Nat.reduceMod]
  exact row_ok rfl hf

theorem fnma (f : FmtR) : Statement (.fnma f) := by
  obtain ⟨hl, hg⟩ := f.put_spec
  refine some_of (base := 1157627904) (p := f.put) rfl (by omega) fun w e => ?_
  obtain ⟨h1, h2⟩ := opc (w := w) (c := 69) (by omega)
  have hf := hg w (by omega)
  simp only [decodeFields, h1, h2, decodeOp4, Nat.reduceDiv, Nat.reduceMod]
  exact row_ok rfl hf

theorem fmin (f : FmtR) : Statement (.fmin f) := by
  obtain ⟨hl, hg⟩ := f.put_spec
  refine some_of (base := 1174405120) (p := f.put) rfl (by omega) fun w e => ?_
  obtain ⟨h1, h2⟩ := opc (w := w) (c := 70) (by omega)
  have hf := hg w (by omega)
  simp only [decodeFields, h1, h2, decodeOp4, Nat.reduceDiv, Nat.reduceMod]
  exact row_ok rfl hf

theorem fmax (f : FmtR) : Statement (.fmax f) := by
  obtain ⟨hl, hg⟩ := f.put_spec
  refine some_of (base := 1191182336) (p := f.put) rfl (by omega) fun w e => ?_
  obtain ⟨h1, h2⟩ := opc (w := w) (c := 71) (by omega)
  have hf := hg w (by omega)
  simp only [decodeFields, h1, h2, decodeOp4, Nat.reduceDiv, Nat.reduceMod]
  exact row_ok rfl hf

theorem fabs (f : FmtR1) : Statement (.fabs f) := by
  obtain ⟨hl, hg⟩ := f.put_spec
  refine some_of (base := 1207959552) (p := f.put) rfl (by omega) fun w e => ?_
  obtain ⟨h1, h2⟩ := opc (w := w) (c := 72) (by omega)
  have hf := hg w (by omega)
  have := f.d.isLt; have := f.a.isLt; have := f.e.toNat_lt; have := f.ha.toNat_lt
  unfold FmtR1.put at e
  simp only [decodeFields, h1, h2, decodeOp4, Nat.reduceDiv, Nat.reduceMod]
  refine row_ok ?_ hf
  simp only [List.all_cons, List.all_nil, Bool.and_true, Bool.and_eq_true, beq_iff_eq, natField]
  omega

theorem fneg (f : FmtR1) : Statement (.fneg f) := by
  obtain ⟨hl, hg⟩ := f.put_spec
  refine some_of (base := 1224736768) (p := f.put) rfl (by omega) fun w e => ?_
  obtain ⟨h1, h2⟩ := opc (w := w) (c := 73) (by omega)
  have hf := hg w (by omega)
  have := f.d.isLt; have := f.a.isLt; have := f.e.toNat_lt; have := f.ha.toNat_lt
  unfold FmtR1.put at e
  simp only [decodeFields, h1, h2, decodeOp4, Nat.reduceDiv, Nat.reduceMod]
  refine row_ok ?_ hf
  simp only [List.all_cons, List.all_nil, Bool.and_true, Bool.and_eq_true, beq_iff_eq, natField]
  omega

theorem fsetp (f : FmtCF) : Statement (.fsetp f) := by
  obtain ⟨hl, hg⟩ := f.put_spec
  refine some_of (base := 1241513984) (p := f.put) rfl (by omega) fun w e => ?_
  obtain ⟨h1, h2⟩ := opc (w := w) (c := 74) (by omega)
  have hf := hg w (by omega)
  simp only [decodeFields, h1, h2, decodeOp4, Nat.reduceDiv, Nat.reduceMod]
  exact row_ok rfl hf

theorem fclass (f : FmtR1) : Statement (.fclass f) := by
  obtain ⟨hl, hg⟩ := f.put_spec
  refine some_of (base := 1258291200) (p := f.put) rfl (by omega) fun w e => ?_
  obtain ⟨h1, h2⟩ := opc (w := w) (c := 75) (by omega)
  have hf := hg w (by omega)
  have := f.d.isLt; have := f.a.isLt; have := f.e.toNat_lt; have := f.ha.toNat_lt
  unfold FmtR1.put at e
  simp only [decodeFields, h1, h2, decodeOp4, Nat.reduceDiv, Nat.reduceMod]
  refine row_ok ?_ hf
  simp only [List.all_cons, List.all_nil, Bool.and_true, Bool.and_eq_true, beq_iff_eq, natField]
  omega

theorem frnd (f : FmtMR) : Statement (.frnd f) := by
  obtain ⟨hl, hg⟩ := f.put_spec
  refine some_of (base := 1275068416) (p := f.put) rfl (by omega) fun w e => ?_
  obtain ⟨h1, h2⟩ := opc (w := w) (c := 76) (by omega)
  have hf := hg w (by omega)
  have := f.d.isLt; have := f.a.isLt; have := (f.rm.code_spec).1; have := f.e.toNat_lt; have := f.ha.toNat_lt
  unfold FmtMR.put at e
  simp only [decodeFields, h1, h2, decodeOp4, Nat.reduceDiv, Nat.reduceMod]
  refine row_ok ?_ hf
  simp only [List.all_cons, List.all_nil, Bool.and_true, Bool.and_eq_true, beq_iff_eq, natField]
  omega

theorem fdiv (f : FmtR) : Statement (.fdiv f) := by
  obtain ⟨hl, hg⟩ := f.put_spec
  refine some_of (base := 1291845632) (p := f.put) rfl (by omega) fun w e => ?_
  obtain ⟨h1, h2⟩ := opc (w := w) (c := 77) (by omega)
  have hf := hg w (by omega)
  simp only [decodeFields, h1, h2, decodeOp4, Nat.reduceDiv, Nat.reduceMod]
  exact row_ok rfl hf

theorem fsqrt (f : FmtR1) : Statement (.fsqrt f) := by
  obtain ⟨hl, hg⟩ := f.put_spec
  refine some_of (base := 1308622848) (p := f.put) rfl (by omega) fun w e => ?_
  obtain ⟨h1, h2⟩ := opc (w := w) (c := 78) (by omega)
  have hf := hg w (by omega)
  have := f.d.isLt; have := f.a.isLt; have := f.e.toNat_lt; have := f.ha.toNat_lt
  unfold FmtR1.put at e
  simp only [decodeFields, h1, h2, decodeOp4, Nat.reduceDiv, Nat.reduceMod]
  refine row_ok ?_ hf
  simp only [List.all_cons, List.all_nil, Bool.and_true, Bool.and_eq_true, beq_iff_eq, natField]
  omega

theorem frcp (f : FmtR1) : Statement (.frcp f) := by
  obtain ⟨hl, hg⟩ := f.put_spec
  refine some_of (base := 1325400064) (p := f.put) rfl (by omega) fun w e => ?_
  obtain ⟨h1, h2⟩ := opc (w := w) (c := 79) (by omega)
  have hf := hg w (by omega)
  have := f.d.isLt; have := f.a.isLt; have := f.e.toNat_lt; have := f.ha.toNat_lt
  unfold FmtR1.put at e
  simp only [decodeFields, h1, h2, decodeOp4, Nat.reduceDiv, Nat.reduceMod]
  refine row_ok ?_ hf
  simp only [List.all_cons, List.all_nil, Bool.and_true, Bool.and_eq_true, beq_iff_eq, natField]
  omega

theorem frsq (f : FmtR1) : Statement (.frsq f) := by
  obtain ⟨hl, hg⟩ := f.put_spec
  refine some_of (base := 1342177280) (p := f.put) rfl (by omega) fun w e => ?_
  obtain ⟨h1, h2⟩ := opc (w := w) (c := 80) (by omega)
  have hf := hg w (by omega)
  have := f.d.isLt; have := f.a.isLt; have := f.e.toNat_lt; have := f.ha.toNat_lt
  unfold FmtR1.put at e
  simp only [decodeFields, h1, h2, decodeOp5, Nat.reduceDiv, Nat.reduceMod]
  refine row_ok ?_ hf
  simp only [List.all_cons, List.all_nil, Bool.and_true, Bool.and_eq_true, beq_iff_eq, natField]
  omega

theorem fex2 (f : FmtR1) : Statement (.fex2 f) := by
  obtain ⟨hl, hg⟩ := f.put_spec
  refine some_of (base := 1358954496) (p := f.put) rfl (by omega) fun w e => ?_
  obtain ⟨h1, h2⟩ := opc (w := w) (c := 81) (by omega)
  have hf := hg w (by omega)
  have := f.d.isLt; have := f.a.isLt; have := f.e.toNat_lt; have := f.ha.toNat_lt
  unfold FmtR1.put at e
  simp only [decodeFields, h1, h2, decodeOp5, Nat.reduceDiv, Nat.reduceMod]
  refine row_ok ?_ hf
  simp only [List.all_cons, List.all_nil, Bool.and_true, Bool.and_eq_true, beq_iff_eq, natField]
  omega

theorem flg2 (f : FmtR1) : Statement (.flg2 f) := by
  obtain ⟨hl, hg⟩ := f.put_spec
  refine some_of (base := 1375731712) (p := f.put) rfl (by omega) fun w e => ?_
  obtain ⟨h1, h2⟩ := opc (w := w) (c := 82) (by omega)
  have hf := hg w (by omega)
  have := f.d.isLt; have := f.a.isLt; have := f.e.toNat_lt; have := f.ha.toNat_lt
  unfold FmtR1.put at e
  simp only [decodeFields, h1, h2, decodeOp5, Nat.reduceDiv, Nat.reduceMod]
  refine row_ok ?_ hf
  simp only [List.all_cons, List.all_nil, Bool.and_true, Bool.and_eq_true, beq_iff_eq, natField]
  omega

theorem fsin (f : FmtR1) : Statement (.fsin f) := by
  obtain ⟨hl, hg⟩ := f.put_spec
  refine some_of (base := 1392508928) (p := f.put) rfl (by omega) fun w e => ?_
  obtain ⟨h1, h2⟩ := opc (w := w) (c := 83) (by omega)
  have hf := hg w (by omega)
  have := f.d.isLt; have := f.a.isLt; have := f.e.toNat_lt; have := f.ha.toNat_lt
  unfold FmtR1.put at e
  simp only [decodeFields, h1, h2, decodeOp5, Nat.reduceDiv, Nat.reduceMod]
  refine row_ok ?_ hf
  simp only [List.all_cons, List.all_nil, Bool.and_true, Bool.and_eq_true, beq_iff_eq, natField]
  omega

theorem fcos (f : FmtR1) : Statement (.fcos f) := by
  obtain ⟨hl, hg⟩ := f.put_spec
  refine some_of (base := 1409286144) (p := f.put) rfl (by omega) fun w e => ?_
  obtain ⟨h1, h2⟩ := opc (w := w) (c := 84) (by omega)
  have hf := hg w (by omega)
  have := f.d.isLt; have := f.a.isLt; have := f.e.toNat_lt; have := f.ha.toNat_lt
  unfold FmtR1.put at e
  simp only [decodeFields, h1, h2, decodeOp5, Nat.reduceDiv, Nat.reduceMod]
  refine row_ok ?_ hf
  simp only [List.all_cons, List.all_nil, Bool.and_true, Bool.and_eq_true, beq_iff_eq, natField]
  omega

theorem ftanh (f : FmtR1) : Statement (.ftanh f) := by
  obtain ⟨hl, hg⟩ := f.put_spec
  refine some_of (base := 1426063360) (p := f.put) rfl (by omega) fun w e => ?_
  obtain ⟨h1, h2⟩ := opc (w := w) (c := 85) (by omega)
  have hf := hg w (by omega)
  have := f.d.isLt; have := f.a.isLt; have := f.e.toNat_lt; have := f.ha.toNat_lt
  unfold FmtR1.put at e
  simp only [decodeFields, h1, h2, decodeOp5, Nat.reduceDiv, Nat.reduceMod]
  refine row_ok ?_ hf
  simp only [List.all_cons, List.all_nil, Bool.and_true, Bool.and_eq_true, beq_iff_eq, natField]
  omega

theorem dadd (f : FmtR) : Statement (.dadd f) := by
  obtain ⟨hl, hg⟩ := f.put_spec
  refine some_of (base := 1442840576) (p := f.put) rfl (by omega) fun w e => ?_
  obtain ⟨h1, h2⟩ := opc (w := w) (c := 86) (by omega)
  have hf := hg w (by omega)
  simp only [decodeFields, h1, h2, decodeOp5, Nat.reduceDiv, Nat.reduceMod]
  exact row_ok rfl hf

theorem dmul (f : FmtR) : Statement (.dmul f) := by
  obtain ⟨hl, hg⟩ := f.put_spec
  refine some_of (base := 1459617792) (p := f.put) rfl (by omega) fun w e => ?_
  obtain ⟨h1, h2⟩ := opc (w := w) (c := 87) (by omega)
  have hf := hg w (by omega)
  simp only [decodeFields, h1, h2, decodeOp5, Nat.reduceDiv, Nat.reduceMod]
  exact row_ok rfl hf

theorem dfma (f : FmtR) : Statement (.dfma f) := by
  obtain ⟨hl, hg⟩ := f.put_spec
  refine some_of (base := 1476395008) (p := f.put) rfl (by omega) fun w e => ?_
  obtain ⟨h1, h2⟩ := opc (w := w) (c := 88) (by omega)
  have hf := hg w (by omega)
  simp only [decodeFields, h1, h2, decodeOp5, Nat.reduceDiv, Nat.reduceMod]
  exact row_ok rfl hf

theorem dsetp (f : FmtCF) : Statement (.dsetp f) := by
  obtain ⟨hl, hg⟩ := f.put_spec
  refine some_of (base := 1493172224) (p := f.put) rfl (by omega) fun w e => ?_
  obtain ⟨h1, h2⟩ := opc (w := w) (c := 89) (by omega)
  have hf := hg w (by omega)
  simp only [decodeFields, h1, h2, decodeOp5, Nat.reduceDiv, Nat.reduceMod]
  exact row_ok rfl hf

theorem hadd2 (f : FmtR) : Statement (.hadd2 f) := by
  obtain ⟨hl, hg⟩ := f.put_spec
  refine some_of (base := 1509949440) (p := f.put) rfl (by omega) fun w e => ?_
  obtain ⟨h1, h2⟩ := opc (w := w) (c := 90) (by omega)
  have hf := hg w (by omega)
  simp only [decodeFields, h1, h2, decodeOp5, Nat.reduceDiv, Nat.reduceMod]
  exact row_ok rfl hf

theorem hmul2 (f : FmtR) : Statement (.hmul2 f) := by
  obtain ⟨hl, hg⟩ := f.put_spec
  refine some_of (base := 1526726656) (p := f.put) rfl (by omega) fun w e => ?_
  obtain ⟨h1, h2⟩ := opc (w := w) (c := 91) (by omega)
  have hf := hg w (by omega)
  simp only [decodeFields, h1, h2, decodeOp5, Nat.reduceDiv, Nat.reduceMod]
  exact row_ok rfl hf

theorem hfma2 (f : FmtR) : Statement (.hfma2 f) := by
  obtain ⟨hl, hg⟩ := f.put_spec
  refine some_of (base := 1543503872) (p := f.put) rfl (by omega) fun w e => ?_
  obtain ⟨h1, h2⟩ := opc (w := w) (c := 92) (by omega)
  have hf := hg w (by omega)
  simp only [decodeFields, h1, h2, decodeOp5, Nat.reduceDiv, Nat.reduceMod]
  exact row_ok rfl hf

theorem badd2 (f : FmtR) : Statement (.badd2 f) := by
  obtain ⟨hl, hg⟩ := f.put_spec
  refine some_of (base := 1560281088) (p := f.put) rfl (by omega) fun w e => ?_
  obtain ⟨h1, h2⟩ := opc (w := w) (c := 93) (by omega)
  have hf := hg w (by omega)
  simp only [decodeFields, h1, h2, decodeOp5, Nat.reduceDiv, Nat.reduceMod]
  exact row_ok rfl hf

theorem bmul2 (f : FmtR) : Statement (.bmul2 f) := by
  obtain ⟨hl, hg⟩ := f.put_spec
  refine some_of (base := 1577058304) (p := f.put) rfl (by omega) fun w e => ?_
  obtain ⟨h1, h2⟩ := opc (w := w) (c := 94) (by omega)
  have hf := hg w (by omega)
  simp only [decodeFields, h1, h2, decodeOp5, Nat.reduceDiv, Nat.reduceMod]
  exact row_ok rfl hf

theorem bfma2 (f : FmtR) : Statement (.bfma2 f) := by
  obtain ⟨hl, hg⟩ := f.put_spec
  refine some_of (base := 1593835520) (p := f.put) rfl (by omega) fun w e => ?_
  obtain ⟨h1, h2⟩ := opc (w := w) (c := 95) (by omega)
  have hf := hg w (by omega)
  simp only [decodeFields, h1, h2, decodeOp5, Nat.reduceDiv, Nat.reduceMod]
  exact row_ok rfl hf

theorem fdot2b (f : FmtR) : Statement (.fdot2b f) := by
  obtain ⟨hl, hg⟩ := f.put_spec
  refine some_of (base := 1610612736) (p := f.put) rfl (by omega) fun w e => ?_
  obtain ⟨h1, h2⟩ := opc (w := w) (c := 96) (by omega)
  have hf := hg w (by omega)
  simp only [decodeFields, h1, h2, decodeOp6, Nat.reduceDiv, Nat.reduceMod]
  exact row_ok rfl hf

theorem fdot2h (f : FmtR) : Statement (.fdot2h f) := by
  obtain ⟨hl, hg⟩ := f.put_spec
  refine some_of (base := 1627389952) (p := f.put) rfl (by omega) fun w e => ?_
  obtain ⟨h1, h2⟩ := opc (w := w) (c := 97) (by omega)
  have hf := hg w (by omega)
  simp only [decodeFields, h1, h2, decodeOp6, Nat.reduceDiv, Nat.reduceMod]
  exact row_ok rfl hf

theorem i2f (f : FmtMI) : Statement (.i2f f) := by
  obtain ⟨hl, hg⟩ := f.put_spec
  refine some_of (base := 2147483648) (p := f.put) rfl (by omega) fun w e => ?_
  obtain ⟨h1, h2⟩ := opc (w := w) (c := 128) (by omega)
  have hf := hg w (by omega)
  have := f.d.isLt; have := f.a.isLt; have := f.w64.toNat_lt; have := f.uns.toNat_lt; have := (f.rm.code_spec).1; have := f.e.toNat_lt; have := f.ha.toNat_lt
  unfold FmtMI.put at e
  simp only [decodeFields, h1, h2, decodeOp8, Nat.reduceDiv, Nat.reduceMod]
  refine row_ok ?_ hf
  simp only [List.all_cons, List.all_nil, Bool.and_true, Bool.and_eq_true, beq_iff_eq, natField]
  omega

theorem f2i (f : FmtMI) : Statement (.f2i f) := by
  obtain ⟨hl, hg⟩ := f.put_spec
  refine some_of (base := 2164260864) (p := f.put) rfl (by omega) fun w e => ?_
  obtain ⟨h1, h2⟩ := opc (w := w) (c := 129) (by omega)
  have hf := hg w (by omega)
  have := f.d.isLt; have := f.a.isLt; have := f.w64.toNat_lt; have := f.uns.toNat_lt; have := (f.rm.code_spec).1; have := f.e.toNat_lt; have := f.ha.toNat_lt
  unfold FmtMI.put at e
  simp only [decodeFields, h1, h2, decodeOp8, Nat.reduceDiv, Nat.reduceMod]
  refine row_ok ?_ hf
  simp only [List.all_cons, List.all_nil, Bool.and_true, Bool.and_eq_true, beq_iff_eq, natField]
  omega

theorem f2f (f : FmtMF) : Statement (.f2f f) := by
  obtain ⟨hl, hg⟩ := f.put_spec
  refine some_of (base := 2181038080) (p := f.put) rfl (by omega) fun w e => ?_
  obtain ⟨h1, h2⟩ := opc (w := w) (c := 130) (by omega)
  have hf := hg w (by omega)
  have := f.d.isLt; have := f.a.isLt; have := (f.dst.code_spec).1; have := (f.src.code_spec).1; have := (f.rm.code_spec).1; have := f.e.toNat_lt; have := f.ha.toNat_lt
  unfold FmtMF.put at e
  simp only [decodeFields, h1, h2, decodeOp8, Nat.reduceDiv, Nat.reduceMod]
  refine row_ok ?_ hf
  simp only [List.all_cons, List.all_nil, Bool.and_true, Bool.and_eq_true, beq_iff_eq, natField]
  omega

theorem scl (f : FmtMS) : Statement (.scl f) := by
  obtain ⟨hl, hg⟩ := f.put_spec
  refine some_of (base := 2197815296) (p := f.put) rfl (by omega) fun w e => ?_
  obtain ⟨h1, h2⟩ := opc (w := w) (c := 131) (by omega)
  have hf := hg w (by omega)
  have := f.d.isLt; have := f.a.isLt; have := f.slot.isLt; have := f.e.toNat_lt; have := f.ha.toNat_lt
  unfold FmtMS.put at e
  simp only [decodeFields, h1, h2, decodeOp8, Nat.reduceDiv, Nat.reduceMod]
  refine row_ok ?_ hf
  simp only [List.all_cons, List.all_nil, Bool.and_true, Bool.and_eq_true, beq_iff_eq, natField]
  omega

theorem cvtw4 (f : FmtCvtw) : Statement (.cvtw4 f) := by
  obtain ⟨hl, hg⟩ := f.put_spec
  refine some_of (base := 2281701376) (p := f.put) rfl (by omega) fun w e => ?_
  have hf := hg w (by omega)
  have h1 : natField w 28 4 = 8 := by unfold natField; omega
  have h2 : natField w 24 4 = 8 ∨ natField w 24 4 = 9 ∨ natField w 24 4 = 10 ∨ natField w 24 4 = 11 := by unfold natField; omega
  simp only [decodeFields, h1]
  rcases h2 with h | h | h | h <;> (simp only [decodeOp8, h]; exact row_ok rfl hf)

theorem cvtn4 (f : FmtCvtn) : Statement (.cvtn4 f) := by
  obtain ⟨hl, hg⟩ := f.put_spec
  refine some_of (base := 2415919104) (p := f.put) rfl (by omega) fun w e => ?_
  have hf := hg w (by omega)
  have h1 : natField w 28 4 = 9 := by unfold natField; omega
  have h2 : natField w 24 4 < 16 := by unfold natField; omega
  simp only [decodeFields, h1, decodeOp9, h2, if_true]
  exact row_ok rfl hf

theorem ld (f : FmtMem) : Statement (.ld f) := by
  obtain ⟨hl, hg⟩ := f.put_spec
  refine some_of (base := 2684354560) (p := f.put) rfl (by omega) fun w e => ?_
  obtain ⟨h1, h2⟩ := opc (w := w) (c := 160) (by omega)
  have hf := hg w (by omega)
  simp only [decodeFields, h1, h2, decodeOpA, Nat.reduceDiv, Nat.reduceMod]
  exact row_ok rfl hf

theorem st (f : FmtMem) : Statement (.st f) := by
  obtain ⟨hl, hg⟩ := f.put_spec
  refine some_of (base := 2701131776) (p := f.put) rfl (by omega) fun w e => ?_
  obtain ⟨h1, h2⟩ := opc (w := w) (c := 161) (by omega)
  have hf := hg w (by omega)
  simp only [decodeFields, h1, h2, decodeOpA, Nat.reduceDiv, Nat.reduceMod]
  exact row_ok rfl hf

theorem lds (f : FmtMemL) : Statement (.lds f) := by
  obtain ⟨hl, hg⟩ := f.put_spec
  refine some_of (base := 2717908992) (p := f.put) rfl (by omega) fun w e => ?_
  obtain ⟨h1, h2⟩ := opc (w := w) (c := 162) (by omega)
  have hf := hg w (by omega)
  have := f.d.isLt; have := f.a.isLt; have := (f.sz.code_spec).1; have := (f.ord.code_spec).1; have := (f.scp.code_spec).1; have := f.e.toNat_lt
  unfold FmtMemL.put at e
  simp only [decodeFields, h1, h2, decodeOpA, Nat.reduceDiv, Nat.reduceMod]
  refine row_ok ?_ hf
  simp only [List.all_cons, List.all_nil, Bool.and_true, beq_iff_eq, natField]
  omega

theorem sts (f : FmtMemL) : Statement (.sts f) := by
  obtain ⟨hl, hg⟩ := f.put_spec
  refine some_of (base := 2734686208) (p := f.put) rfl (by omega) fun w e => ?_
  obtain ⟨h1, h2⟩ := opc (w := w) (c := 163) (by omega)
  have hf := hg w (by omega)
  have := f.d.isLt; have := f.a.isLt; have := (f.sz.code_spec).1; have := (f.ord.code_spec).1; have := (f.scp.code_spec).1; have := f.e.toNat_lt
  unfold FmtMemL.put at e
  simp only [decodeFields, h1, h2, decodeOpA, Nat.reduceDiv, Nat.reduceMod]
  refine row_ok ?_ hf
  simp only [List.all_cons, List.all_nil, Bool.and_true, beq_iff_eq, natField]
  omega

theorem ldl (f : FmtMemL) : Statement (.ldl f) := by
  obtain ⟨hl, hg⟩ := f.put_spec
  refine some_of (base := 2751463424) (p := f.put) rfl (by omega) fun w e => ?_
  obtain ⟨h1, h2⟩ := opc (w := w) (c := 164) (by omega)
  have hf := hg w (by omega)
  have := f.d.isLt; have := f.a.isLt; have := (f.sz.code_spec).1; have := (f.ord.code_spec).1; have := (f.scp.code_spec).1; have := f.e.toNat_lt
  unfold FmtMemL.put at e
  simp only [decodeFields, h1, h2, decodeOpA, Nat.reduceDiv, Nat.reduceMod]
  refine row_ok ?_ hf
  simp only [List.all_cons, List.all_nil, Bool.and_true, beq_iff_eq, natField]
  omega

theorem stl (f : FmtMemL) : Statement (.stl f) := by
  obtain ⟨hl, hg⟩ := f.put_spec
  refine some_of (base := 2768240640) (p := f.put) rfl (by omega) fun w e => ?_
  obtain ⟨h1, h2⟩ := opc (w := w) (c := 165) (by omega)
  have hf := hg w (by omega)
  have := f.d.isLt; have := f.a.isLt; have := (f.sz.code_spec).1; have := (f.ord.code_spec).1; have := (f.scp.code_spec).1; have := f.e.toNat_lt
  unfold FmtMemL.put at e
  simp only [decodeFields, h1, h2, decodeOpA, Nat.reduceDiv, Nat.reduceMod]
  refine row_ok ?_ hf
  simp only [List.all_cons, List.all_nil, Bool.and_true, beq_iff_eq, natField]
  omega

theorem ldp (f : FmtLdp) : Statement (.ldp f) := by
  obtain ⟨hl, hg⟩ := f.put_spec
  refine some_of (base := 2785017856) (p := f.put) rfl (by omega) fun w e => ?_
  obtain ⟨h1, h2⟩ := opc (w := w) (c := 166) (by omega)
  have hf := hg w (by omega)
  have := f.d.isLt; have := f.a.isLt; have := (f.sz.code_spec).1; have := f.e.toNat_lt
  unfold FmtLdp.put at e
  simp only [decodeFields, h1, h2, decodeOpA, Nat.reduceDiv, Nat.reduceMod]
  refine row_ok ?_ hf
  simp only [List.all_cons, List.all_nil, Bool.and_true, Bool.and_eq_true, beq_iff_eq, natField]
  omega

theorem prf (f : FmtPrf) : Statement (.prf f) := by
  obtain ⟨hl, hg⟩ := f.put_spec
  refine some_of (base := 2801795072) (p := f.put) rfl (by omega) fun w e => ?_
  obtain ⟨h1, h2⟩ := opc (w := w) (c := 167) (by omega)
  have hf := hg w (by omega)
  have := f.a.isLt; have := (f.ch.code_spec).1
  unfold FmtPrf.put at e
  simp only [decodeFields, h1, h2, decodeOpA, Nat.reduceDiv, Nat.reduceMod]
  refine row_ok ?_ hf
  simp only [List.all_cons, List.all_nil, Bool.and_true, Bool.and_eq_true, beq_iff_eq, natField]
  omega

theorem spres (f : FmtCP) : Statement (.spres f) := by
  obtain ⟨hl, hg⟩ := f.put_spec
  refine some_of (base := 2818572288) (p := f.put) rfl (by omega) fun w e => ?_
  obtain ⟨h1, h2⟩ := opc (w := w) (c := 168) (by omega)
  have hf := hg w (by omega)
  have := f.pd.isLt; have := f.a.isLt; have := f.e.toNat_lt; have := f.ha.toNat_lt
  unfold FmtCP.put at e
  simp only [decodeFields, h1, h2, decodeOpA, Nat.reduceDiv, Nat.reduceMod]
  refine row_ok ?_ hf
  simp only [List.all_cons, List.all_nil, Bool.and_true, Bool.and_eq_true, beq_iff_eq, natField]
  omega

theorem fence (f : FmtFence) : Statement (.fence f) := by
  obtain ⟨hl, hg⟩ := f.put_spec
  refine some_of (base := 2835349504) (p := f.put) rfl (by omega) fun w e => ?_
  obtain ⟨h1, h2⟩ := opc (w := w) (c := 169) (by omega)
  have hf := hg w (by omega)
  have := (f.ord.code_spec).1; have := (f.scp.code_spec).1
  unfold FmtFence.put at e
  simp only [decodeFields, h1, h2, decodeOpA, Nat.reduceDiv, Nat.reduceMod]
  refine row_ok ?_ hf
  simp only [List.all_cons, List.all_nil, Bool.and_true, Bool.and_eq_true, beq_iff_eq, natField]
  omega

theorem cctlClean (f : FmtCctl) : Statement (.cctlClean f) := by
  obtain ⟨hl, hg⟩ := f.put_spec
  refine some_of (base := 2852126720) (p := f.put) rfl (by omega) fun w e => ?_
  obtain ⟨h1, h2⟩ := opc (w := w) (c := 170) (by omega)
  have hf := hg w (by omega)
  have := f.a.isLt; have := (f.scp.code_spec).1; have := (f.ch.code_spec).1
  unfold FmtCctl.put at e
  have h3 : natField w 17 7 = 0 := by unfold natField; omega
  simp only [decodeFields, h1, h2, decodeOpA, Nat.reduceDiv, Nat.reduceMod, h3]
  refine row_ok ?_ hf
  simp only [List.all_cons, List.all_nil, Bool.and_true, Bool.and_eq_true, beq_iff_eq, natField]
  omega

theorem cctlInval (f : FmtCctl) : Statement (.cctlInval f) := by
  obtain ⟨hl, _⟩ := f.put_spec
  obtain ⟨a, scp, ch⟩ := f
  have := a.isLt; have := (scp.code_spec).1; have := (ch.code_spec).1
  refine some_of (base := 2852257792) (p := FmtCctl.put _) rfl (by omega) fun w e => ?_
  simp only [FmtCctl.put] at e
  obtain ⟨h1, h2⟩ := opc (w := w) (c := 170) (by omega)
  have hf : FmtCctl.get w = some ⟨a, scp, ch⟩ := by
    simp only [FmtCctl.get]
    rw [show natField w 3 2 = scp.code by unfold natField; omega, (Scope.code_spec scp).2]
    rw [show natField w 0 2 = ch.code by unfold natField; omega, (Ch.code_spec ch).2]
    simp only [Option.bind_eq_bind, Option.bind_some]
    congr 2 <;> first | (apply bv_eq; omega) | (apply bit_eq; omega)
  have h3 : natField w 17 7 = 1 := by unfold natField; omega
  simp only [decodeFields, h1, h2, decodeOpA, Nat.reduceDiv, Nat.reduceMod, h3]
  refine row_ok ?_ hf
  simp only [List.all_cons, List.all_nil, Bool.and_true, Bool.and_eq_true, beq_iff_eq, natField]
  omega

theorem cctlCleanAll (f : FmtCctlAll) : Statement (.cctlCleanAll f) := by
  obtain ⟨hl, _⟩ := f.put_spec
  obtain ⟨scp, ch⟩ := f
  have := (scp.code_spec).1; have := (ch.code_spec).1
  refine some_of (base := 2852388864) (p := FmtCctlAll.put _) rfl (by omega) fun w e => ?_
  simp only [FmtCctlAll.put] at e
  obtain ⟨h1, h2⟩ := opc (w := w) (c := 170) (by omega)
  have hf : FmtCctlAll.get w = some ⟨scp, ch⟩ := by
    simp only [FmtCctlAll.get]
    rw [show natField w 3 2 = scp.code by unfold natField; omega, (Scope.code_spec scp).2]
    rw [show natField w 0 2 = ch.code by unfold natField; omega, (Ch.code_spec ch).2]
    simp only [Option.bind_eq_bind, Option.bind_some]
  have h3 : natField w 17 7 = 2 := by unfold natField; omega
  simp only [decodeFields, h1, h2, decodeOpA, Nat.reduceDiv, Nat.reduceMod, h3]
  refine row_ok ?_ hf
  simp only [List.all_cons, List.all_nil, Bool.and_true, Bool.and_eq_true, beq_iff_eq, natField]
  omega

theorem gpriv (f : FmtR1) : Statement (.gpriv f) := by
  obtain ⟨hl, hg⟩ := f.put_spec
  refine some_of (base := 2868903936) (p := f.put) rfl (by omega) fun w e => ?_
  obtain ⟨h1, h2⟩ := opc (w := w) (c := 171) (by omega)
  have hf := hg w (by omega)
  have := f.d.isLt; have := f.a.isLt; have := f.e.toNat_lt; have := f.ha.toNat_lt
  unfold FmtR1.put at e
  simp only [decodeFields, h1, h2, decodeOpA, Nat.reduceDiv, Nat.reduceMod]
  refine row_ok ?_ hf
  simp only [List.all_cons, List.all_nil, Bool.and_true, Bool.and_eq_true, beq_iff_eq, natField]
  omega

theorem ispace (f : FmtR1) : Statement (.ispace f) := by
  obtain ⟨hl, hg⟩ := f.put_spec
  refine some_of (base := 2885681152) (p := f.put) rfl (by omega) fun w e => ?_
  obtain ⟨h1, h2⟩ := opc (w := w) (c := 172) (by omega)
  have hf := hg w (by omega)
  have := f.d.isLt; have := f.a.isLt; have := f.e.toNat_lt; have := f.ha.toNat_lt
  unfold FmtR1.put at e
  simp only [decodeFields, h1, h2, decodeOpA, Nat.reduceDiv, Nat.reduceMod]
  refine row_ok ?_ hf
  simp only [List.all_cons, List.all_nil, Bool.and_true, Bool.and_eq_true, beq_iff_eq, natField]
  omega

theorem atom (f : FmtAt) : Statement (.atom f) := by
  obtain ⟨hl, hg⟩ := f.put_spec
  refine some_of (base := 2952790016) (p := f.put) rfl (by omega) fun w e => ?_
  obtain ⟨h1, h2⟩ := opc (w := w) (c := 176) (by omega)
  have hf := hg w (by omega)
  simp only [decodeFields, h1, h2, decodeOpB, Nat.reduceDiv, Nat.reduceMod]
  exact row_ok rfl hf

theorem red (f : FmtAt) : Statement (.red f) := by
  obtain ⟨hl, hg⟩ := f.put_spec
  refine some_of (base := 2969567232) (p := f.put) rfl (by omega) fun w e => ?_
  obtain ⟨h1, h2⟩ := opc (w := w) (c := 177) (by omega)
  have hf := hg w (by omega)
  simp only [decodeFields, h1, h2, decodeOpB, Nat.reduceDiv, Nat.reduceMod]
  exact row_ok rfl hf

theorem atoms (f : FmtAt) : Statement (.atoms f) := by
  obtain ⟨hl, hg⟩ := f.put_spec
  refine some_of (base := 2986344448) (p := f.put) rfl (by omega) fun w e => ?_
  obtain ⟨h1, h2⟩ := opc (w := w) (c := 178) (by omega)
  have hf := hg w (by omega)
  simp only [decodeFields, h1, h2, decodeOpB, Nat.reduceDiv, Nat.reduceMod]
  exact row_ok rfl hf

theorem hopen (f : FmtR1) : Statement (.hopen f) := by
  obtain ⟨hl, hg⟩ := f.put_spec
  refine some_of (base := 3087007744) (p := f.put) rfl (by omega) fun w e => ?_
  obtain ⟨h1, h2⟩ := opc (w := w) (c := 184) (by omega)
  have hf := hg w (by omega)
  have := f.d.isLt; have := f.a.isLt; have := f.e.toNat_lt; have := f.ha.toNat_lt
  unfold FmtR1.put at e
  simp only [decodeFields, h1, h2, decodeOpB, Nat.reduceDiv, Nat.reduceMod]
  refine row_ok ?_ hf
  simp only [List.all_cons, List.all_nil, Bool.and_true, Bool.and_eq_true, beq_iff_eq, natField]
  omega

theorem hset (f : FmtSrc) : Statement (.hset f) := by
  obtain ⟨hl, hg⟩ := f.put_spec
  refine some_of (base := 3103784960) (p := f.put) rfl (by omega) fun w e => ?_
  obtain ⟨h1, h2⟩ := opc (w := w) (c := 185) (by omega)
  have hf := hg w (by omega)
  have := f.a.isLt; have := f.e.toNat_lt; have := f.ha.toNat_lt
  unfold FmtSrc.put at e
  simp only [decodeFields, h1, h2, decodeOpB, Nat.reduceDiv, Nat.reduceMod]
  refine row_ok ?_ hf
  simp only [List.all_cons, List.all_nil, Bool.and_true, Bool.and_eq_true, beq_iff_eq, natField]
  omega

theorem hget (f : FmtDst) : Statement (.hget f) := by
  obtain ⟨hl, hg⟩ := f.put_spec
  refine some_of (base := 3120562176) (p := f.put) rfl (by omega) fun w e => ?_
  obtain ⟨h1, h2⟩ := opc (w := w) (c := 186) (by omega)
  have hf := hg w (by omega)
  have := f.d.isLt; have := f.e.toNat_lt
  unfold FmtDst.put at e
  simp only [decodeFields, h1, h2, decodeOpB, Nat.reduceDiv, Nat.reduceMod]
  refine row_ok ?_ hf
  simp only [List.all_cons, List.all_nil, Bool.and_true, Bool.and_eq_true, beq_iff_eq, natField]
  omega

theorem hconf (f : FmtR1) : Statement (.hconf f) := by
  obtain ⟨hl, hg⟩ := f.put_spec
  refine some_of (base := 3137339392) (p := f.put) rfl (by omega) fun w e => ?_
  obtain ⟨h1, h2⟩ := opc (w := w) (c := 187) (by omega)
  have hf := hg w (by omega)
  have := f.d.isLt; have := f.a.isLt; have := f.e.toNat_lt; have := f.ha.toNat_lt
  unfold FmtR1.put at e
  simp only [decodeFields, h1, h2, decodeOpB, Nat.reduceDiv, Nat.reduceMod]
  refine row_ok ?_ hf
  simp only [List.all_cons, List.all_nil, Bool.and_true, Bool.and_eq_true, beq_iff_eq, natField]
  omega

theorem href (f : FmtR1) : Statement (.href f) := by
  obtain ⟨hl, hg⟩ := f.put_spec
  refine some_of (base := 3154116608) (p := f.put) rfl (by omega) fun w e => ?_
  obtain ⟨h1, h2⟩ := opc (w := w) (c := 188) (by omega)
  have hf := hg w (by omega)
  have := f.d.isLt; have := f.a.isLt; have := f.e.toNat_lt; have := f.ha.toNat_lt
  unfold FmtR1.put at e
  simp only [decodeFields, h1, h2, decodeOpB, Nat.reduceDiv, Nat.reduceMod]
  refine row_ok ?_ hf
  simp only [List.all_cons, List.all_nil, Bool.and_true, Bool.and_eq_true, beq_iff_eq, natField]
  omega

theorem hstat (f : FmtR1) : Statement (.hstat f) := by
  obtain ⟨hl, hg⟩ := f.put_spec
  refine some_of (base := 3170893824) (p := f.put) rfl (by omega) fun w e => ?_
  obtain ⟨h1, h2⟩ := opc (w := w) (c := 189) (by omega)
  have hf := hg w (by omega)
  have := f.d.isLt; have := f.a.isLt; have := f.e.toNat_lt; have := f.ha.toNat_lt
  unfold FmtR1.put at e
  simp only [decodeFields, h1, h2, decodeOpB, Nat.reduceDiv, Nat.reduceMod]
  refine row_ok ?_ hf
  simp only [List.all_cons, List.all_nil, Bool.and_true, Bool.and_eq_true, beq_iff_eq, natField]
  omega

theorem bar (f : FmtBar) : Statement (.bar f) := by
  obtain ⟨hl, hg⟩ := f.put_spec
  refine some_of (base := 3221225472) (p := f.put) rfl (by omega) fun w e => ?_
  obtain ⟨h1, h2⟩ := opc (w := w) (c := 192) (by omega)
  have hf := hg w (by omega)
  have := f.b.isLt
  unfold FmtBar.put at e
  simp only [decodeFields, h1, h2, decodeOpC, Nat.reduceDiv, Nat.reduceMod]
  refine row_ok ?_ hf
  simp only [List.all_cons, List.all_nil, Bool.and_true, beq_iff_eq, natField]
  omega

theorem bara (f : FmtBar) : Statement (.bara f) := by
  obtain ⟨hl, hg⟩ := f.put_spec
  refine some_of (base := 3238002688) (p := f.put) rfl (by omega) fun w e => ?_
  obtain ⟨h1, h2⟩ := opc (w := w) (c := 193) (by omega)
  have hf := hg w (by omega)
  have := f.b.isLt
  unfold FmtBar.put at e
  simp only [decodeFields, h1, h2, decodeOpC, Nat.reduceDiv, Nat.reduceMod]
  refine row_ok ?_ hf
  simp only [List.all_cons, List.all_nil, Bool.and_true, beq_iff_eq, natField]
  omega

theorem barw (f : FmtBar) : Statement (.barw f) := by
  obtain ⟨hl, hg⟩ := f.put_spec
  refine some_of (base := 3254779904) (p := f.put) rfl (by omega) fun w e => ?_
  obtain ⟨h1, h2⟩ := opc (w := w) (c := 194) (by omega)
  have hf := hg w (by omega)
  have := f.b.isLt
  unfold FmtBar.put at e
  simp only [decodeFields, h1, h2, decodeOpC, Nat.reduceDiv, Nat.reduceMod]
  refine row_ok ?_ hf
  simp only [List.all_cons, List.all_nil, Bool.and_true, beq_iff_eq, natField]
  omega

theorem waitc (f : FmtR) : Statement (.waitc f) := by
  obtain ⟨hl, hg⟩ := f.put_spec
  refine some_of (base := 3271557120) (p := f.put) rfl (by omega) fun w e => ?_
  obtain ⟨h1, h2⟩ := opc (w := w) (c := 195) (by omega)
  have hf := hg w (by omega)
  simp only [decodeFields, h1, h2, decodeOpC, Nat.reduceDiv, Nat.reduceMod]
  exact row_ok rfl hf

theorem stgwImm (f : FmtStgw) : Statement (.stgwImm f) := by
  obtain ⟨hl, hg⟩ := f.put_spec
  refine some_of (base := 3288334336) (p := f.put) rfl (by omega) fun w e => ?_
  obtain ⟨h1, h2⟩ := opc (w := w) (c := 196) (by omega)
  have hf := hg w (by omega)
  have := f.phase.toNat_lt; have := f.slot.isLt; have := f.ring.isLt
  unfold FmtStgw.put at e
  have h3 : bit w 9 = false := bit_eq (by first | (rw [Bool.toNat_true]; omega) | (rw [Bool.toNat_false]; omega))
  simp only [decodeFields, h1, h2, decodeOpC, Nat.reduceDiv, Nat.reduceMod, h3, Bool.false_eq_true, if_false]
  refine row_ok ?_ hf
  simp only [List.all_cons, List.all_nil, Bool.and_true, Bool.and_eq_true, beq_iff_eq, natField]
  omega

theorem stgwReg (f : FmtStgR) : Statement (.stgwReg f) := by
  obtain ⟨hl, _⟩ := f.put_spec
  obtain ⟨a, ring⟩ := f
  have := a.isLt; have := ring.isLt
  refine some_of (base := 3288334848) (p := FmtStgR.put _) rfl (by omega) fun w e => ?_
  simp only [FmtStgR.put] at e
  obtain ⟨h1, h2⟩ := opc (w := w) (c := 196) (by omega)
  have hf : FmtStgR.get w = some ⟨a, ring⟩ := by
    simp only [FmtStgR.get]
    congr 2 <;> first | (apply bv_eq; omega) | (apply bit_eq; omega)
  have h3 : bit w 9 = true := bit_eq (by first | (rw [Bool.toNat_true]; omega) | (rw [Bool.toNat_false]; omega))
  simp only [decodeFields, h1, h2, decodeOpC, Nat.reduceDiv, Nat.reduceMod, h3, if_true]
  refine row_ok ?_ hf
  simp only [List.all_cons, List.all_nil, Bool.and_true, Bool.and_eq_true, beq_iff_eq, natField]
  omega

theorem stgaImm (f : FmtStga) : Statement (.stgaImm f) := by
  obtain ⟨hl, hg⟩ := f.put_spec
  refine some_of (base := 3305111552) (p := f.put) rfl (by omega) fun w e => ?_
  obtain ⟨h1, h2⟩ := opc (w := w) (c := 197) (by omega)
  have hf := hg w (by omega)
  have := f.slot.isLt; have := f.ring.isLt
  unfold FmtStga.put at e
  have h3 : bit w 9 = false := bit_eq (by first | (rw [Bool.toNat_true]; omega) | (rw [Bool.toNat_false]; omega))
  simp only [decodeFields, h1, h2, decodeOpC, Nat.reduceDiv, Nat.reduceMod, h3, Bool.false_eq_true, if_false]
  refine row_ok ?_ hf
  simp only [List.all_cons, List.all_nil, Bool.and_true, Bool.and_eq_true, beq_iff_eq, natField]
  omega

theorem stgaReg (f : FmtStgR) : Statement (.stgaReg f) := by
  obtain ⟨hl, _⟩ := f.put_spec
  obtain ⟨a, ring⟩ := f
  have := a.isLt; have := ring.isLt
  refine some_of (base := 3305112064) (p := FmtStgR.put _) rfl (by omega) fun w e => ?_
  simp only [FmtStgR.put] at e
  obtain ⟨h1, h2⟩ := opc (w := w) (c := 197) (by omega)
  have hf : FmtStgR.get w = some ⟨a, ring⟩ := by
    simp only [FmtStgR.get]
    congr 2 <;> first | (apply bv_eq; omega) | (apply bit_eq; omega)
  have h3 : bit w 9 = true := bit_eq (by first | (rw [Bool.toNat_true]; omega) | (rw [Bool.toNat_false]; omega))
  simp only [decodeFields, h1, h2, decodeOpC, Nat.reduceDiv, Nat.reduceMod, h3, if_true]
  refine row_ok ?_ hf
  simp only [List.all_cons, List.all_nil, Bool.and_true, Bool.and_eq_true, beq_iff_eq, natField]
  omega

theorem ftest (f : FmtCP) : Statement (.ftest f) := by
  obtain ⟨hl, hg⟩ := f.put_spec
  refine some_of (base := 3321888768) (p := f.put) rfl (by omega) fun w e => ?_
  obtain ⟨h1, h2⟩ := opc (w := w) (c := 198) (by omega)
  have hf := hg w (by omega)
  have := f.pd.isLt; have := f.a.isLt; have := f.e.toNat_lt; have := f.ha.toNat_lt
  unfold FmtCP.put at e
  simp only [decodeFields, h1, h2, decodeOpC, Nat.reduceDiv, Nat.reduceMod]
  refine row_ok ?_ hf
  simp only [List.all_cons, List.all_nil, Bool.and_true, Bool.and_eq_true, beq_iff_eq, natField]
  omega

theorem fcan (f : FmtSrc) : Statement (.fcan f) := by
  obtain ⟨hl, hg⟩ := f.put_spec
  refine some_of (base := 3338665984) (p := f.put) rfl (by omega) fun w e => ?_
  obtain ⟨h1, h2⟩ := opc (w := w) (c := 199) (by omega)
  have hf := hg w (by omega)
  have := f.a.isLt; have := f.e.toNat_lt; have := f.ha.toNat_lt
  unfold FmtSrc.put at e
  simp only [decodeFields, h1, h2, decodeOpC, Nat.reduceDiv, Nat.reduceMod]
  refine row_ok ?_ hf
  simp only [List.all_cons, List.all_nil, Bool.and_true, Bool.and_eq_true, beq_iff_eq, natField]
  omega

theorem fwait (f : FmtR1) : Statement (.fwait f) := by
  obtain ⟨hl, hg⟩ := f.put_spec
  refine some_of (base := 3355443200) (p := f.put) rfl (by omega) fun w e => ?_
  obtain ⟨h1, h2⟩ := opc (w := w) (c := 200) (by omega)
  have hf := hg w (by omega)
  have := f.d.isLt; have := f.a.isLt; have := f.e.toNat_lt; have := f.ha.toNat_lt
  unfold FmtR1.put at e
  simp only [decodeFields, h1, h2, decodeOpC, Nat.reduceDiv, Nat.reduceMod]
  refine row_ok ?_ hf
  simp only [List.all_cons, List.all_nil, Bool.and_true, Bool.and_eq_true, beq_iff_eq, natField]
  omega

theorem elect (f : FmtQd) : Statement (.elect f) := by
  obtain ⟨hl, hg⟩ := f.put_spec
  refine some_of (base := 3372220416) (p := f.put) rfl (by omega) fun w e => ?_
  obtain ⟨h1, h2⟩ := opc (w := w) (c := 201) (by omega)
  have hf := hg w (by omega)
  have := f.d.isLt; have := f.m.isLt; have := f.e.toNat_lt
  unfold FmtQd.put at e
  simp only [decodeFields, h1, h2, decodeOpC, Nat.reduceDiv, Nat.reduceMod]
  refine row_ok ?_ hf
  simp only [List.all_cons, List.all_nil, Bool.and_true, Bool.and_eq_true, beq_iff_eq, natField]
  omega

theorem time (f : FmtD) : Statement (.time f) := by
  obtain ⟨hl, hg⟩ := f.put_spec
  refine some_of (base := 3388997632) (p := f.put) rfl (by omega) fun w e => ?_
  obtain ⟨h1, h2⟩ := opc (w := w) (c := 202) (by omega)
  have hf := hg w (by omega)
  have := f.d.isLt
  unfold FmtD.put at e
  simp only [decodeFields, h1, h2, decodeOpC, Nat.reduceDiv, Nat.reduceMod]
  refine row_ok ?_ hf
  simp only [List.all_cons, List.all_nil, Bool.and_true, beq_iff_eq, natField]
  omega

theorem clk (f : FmtD) : Statement (.clk f) := by
  obtain ⟨hl, hg⟩ := f.put_spec
  refine some_of (base := 3405774848) (p := f.put) rfl (by omega) fun w e => ?_
  obtain ⟨h1, h2⟩ := opc (w := w) (c := 203) (by omega)
  have hf := hg w (by omega)
  have := f.d.isLt
  unfold FmtD.put at e
  simp only [decodeFields, h1, h2, decodeOpC, Nat.reduceDiv, Nat.reduceMod]
  refine row_ok ?_ hf
  simp only [List.all_cons, List.all_nil, Bool.and_true, beq_iff_eq, natField]
  omega

theorem fid (f : FmtR1) : Statement (.fid f) := by
  obtain ⟨hl, hg⟩ := f.put_spec
  refine some_of (base := 3422552064) (p := f.put) rfl (by omega) fun w e => ?_
  obtain ⟨h1, h2⟩ := opc (w := w) (c := 204) (by omega)
  have hf := hg w (by omega)
  have := f.d.isLt; have := f.a.isLt; have := f.e.toNat_lt; have := f.ha.toNat_lt
  unfold FmtR1.put at e
  simp only [decodeFields, h1, h2, decodeOpC, Nat.reduceDiv, Nat.reduceMod]
  refine row_ok ?_ hf
  simp only [List.all_cons, List.all_nil, Bool.and_true, Bool.and_eq_true, beq_iff_eq, natField]
  omega

theorem mjoin (f : FmtQm) : Statement (.mjoin f) := by
  obtain ⟨hl, hg⟩ := f.put_spec
  refine some_of (base := 3489660928) (p := f.put) rfl (by omega) fun w e => ?_
  obtain ⟨h1, h2⟩ := opc (w := w) (c := 208) (by omega)
  have hf := hg w (by omega)
  have := f.m.isLt; have := f.e.toNat_lt
  unfold FmtQm.put at e
  simp only [decodeFields, h1, h2, decodeOpD, Nat.reduceDiv, Nat.reduceMod]
  refine row_ok ?_ hf
  simp only [List.all_cons, List.all_nil, Bool.and_true, Bool.and_eq_true, beq_iff_eq, natField]
  omega

theorem mleave (f : FmtQm) : Statement (.mleave f) := by
  obtain ⟨hl, hg⟩ := f.put_spec
  refine some_of (base := 3506438144) (p := f.put) rfl (by omega) fun w e => ?_
  obtain ⟨h1, h2⟩ := opc (w := w) (c := 209) (by omega)
  have hf := hg w (by omega)
  have := f.m.isLt; have := f.e.toNat_lt
  unfold FmtQm.put at e
  simp only [decodeFields, h1, h2, decodeOpD, Nat.reduceDiv, Nat.reduceMod]
  refine row_ok ?_ hf
  simp only [List.all_cons, List.all_nil, Bool.and_true, Bool.and_eq_true, beq_iff_eq, natField]
  omega

theorem mwait (f : FmtQm) : Statement (.mwait f) := by
  obtain ⟨hl, hg⟩ := f.put_spec
  refine some_of (base := 3523215360) (p := f.put) rfl (by omega) fun w e => ?_
  obtain ⟨h1, h2⟩ := opc (w := w) (c := 210) (by omega)
  have hf := hg w (by omega)
  have := f.m.isLt; have := f.e.toNat_lt
  unfold FmtQm.put at e
  simp only [decodeFields, h1, h2, decodeOpD, Nat.reduceDiv, Nat.reduceMod]
  refine row_ok ?_ hf
  simp only [List.all_cons, List.all_nil, Bool.and_true, Bool.and_eq_true, beq_iff_eq, natField]
  omega

theorem mld (f : FmtQd) : Statement (.mld f) := by
  obtain ⟨hl, hg⟩ := f.put_spec
  refine some_of (base := 3539992576) (p := f.put) rfl (by omega) fun w e => ?_
  obtain ⟨h1, h2⟩ := opc (w := w) (c := 211) (by omega)
  have hf := hg w (by omega)
  have := f.d.isLt; have := f.m.isLt; have := f.e.toNat_lt
  unfold FmtQd.put at e
  simp only [decodeFields, h1, h2, decodeOpD, Nat.reduceDiv, Nat.reduceMod]
  refine row_ok ?_ hf
  simp only [List.all_cons, List.all_nil, Bool.and_true, Bool.and_eq_true, beq_iff_eq, natField]
  omega

theorem mst (f : FmtQa) : Statement (.mst f) := by
  obtain ⟨hl, hg⟩ := f.put_spec
  refine some_of (base := 3556769792) (p := f.put) rfl (by omega) fun w e => ?_
  obtain ⟨h1, h2⟩ := opc (w := w) (c := 212) (by omega)
  have hf := hg w (by omega)
  have := f.a.isLt; have := f.m.isLt; have := f.e.toNat_lt
  unfold FmtQa.put at e
  simp only [decodeFields, h1, h2, decodeOpD, Nat.reduceDiv, Nat.reduceMod]
  refine row_ok ?_ hf
  simp only [List.all_cons, List.all_nil, Bool.and_true, Bool.and_eq_true, beq_iff_eq, natField]
  omega

theorem mact (f : FmtQm) : Statement (.mact f) := by
  obtain ⟨hl, hg⟩ := f.put_spec
  refine some_of (base := 3573547008) (p := f.put) rfl (by omega) fun w e => ?_
  obtain ⟨h1, h2⟩ := opc (w := w) (c := 213) (by omega)
  have hf := hg w (by omega)
  have := f.m.isLt; have := f.e.toNat_lt
  unfold FmtQm.put at e
  simp only [decodeFields, h1, h2, decodeOpD, Nat.reduceDiv, Nat.reduceMod]
  refine row_ok ?_ hf
  simp only [List.all_cons, List.all_nil, Bool.and_true, Bool.and_eq_true, beq_iff_eq, natField]
  omega

theorem qswp (f : FmtQswp) : Statement (.qswp f) := by
  obtain ⟨hl, hg⟩ := f.put_spec
  refine some_of (base := 3590324224) (p := f.put) rfl (by omega) fun w e => ?_
  obtain ⟨h1, h2⟩ := opc (w := w) (c := 214) (by omega)
  have hf := hg w (by omega)
  have := (f.dir.code_spec).1; have := f.d.isLt; have := f.a.isLt; have := f.m.isLt; have := f.e.toNat_lt
  unfold FmtQswp.put at e
  simp only [decodeFields, h1, h2, decodeOpD, Nat.reduceDiv, Nat.reduceMod]
  refine row_ok ?_ hf
  simp only [List.all_cons, List.all_nil, Bool.and_true, beq_iff_eq, natField]
  omega

theorem qbc (f : FmtQbc) : Statement (.qbc f) := by
  obtain ⟨hl, hg⟩ := f.put_spec
  refine some_of (base := 3607101440) (p := f.put) rfl (by omega) fun w e => ?_
  obtain ⟨h1, h2⟩ := opc (w := w) (c := 215) (by omega)
  have hf := hg w (by omega)
  have := f.n.isLt; have := f.d.isLt; have := f.a.isLt; have := f.m.isLt; have := f.e.toNat_lt
  unfold FmtQbc.put at e
  simp only [decodeFields, h1, h2, decodeOpD, Nat.reduceDiv, Nat.reduceMod]
  refine row_ok ?_ hf
  simp only [List.all_cons, List.all_nil, Bool.and_true, Bool.and_eq_true, beq_iff_eq, natField]
  omega

theorem qhlp (f : FmtDst) : Statement (.qhlp f) := by
  obtain ⟨hl, hg⟩ := f.put_spec
  refine some_of (base := 3623878656) (p := f.put) rfl (by omega) fun w e => ?_
  obtain ⟨h1, h2⟩ := opc (w := w) (c := 216) (by omega)
  have hf := hg w (by omega)
  have := f.d.isLt; have := f.e.toNat_lt
  unfold FmtDst.put at e
  simp only [decodeFields, h1, h2, decodeOpD, Nat.reduceDiv, Nat.reduceMod]
  refine row_ok ?_ hf
  simp only [List.all_cons, List.all_nil, Bool.and_true, Bool.and_eq_true, beq_iff_eq, natField]
  omega

theorem wshfl (f : FmtQ) : Statement (.wshfl f) := by
  obtain ⟨hl, hg⟩ := f.put_spec
  refine some_of (base := 3640655872) (p := f.put) rfl (by omega) fun w e => ?_
  obtain ⟨h1, h2⟩ := opc (w := w) (c := 217) (by omega)
  have hf := hg w (by omega)
  have := f.d.isLt; have := f.a.isLt; have := f.m.isLt; have := f.e.toNat_lt
  unfold FmtQ.put at e
  simp only [decodeFields, h1, h2, decodeOpD, Nat.reduceDiv, Nat.reduceMod]
  refine row_ok ?_ hf
  simp only [List.all_cons, List.all_nil, Bool.and_true, Bool.and_eq_true, beq_iff_eq, natField]
  omega

theorem wvote (f : FmtVote) : Statement (.wvote f) := by
  obtain ⟨hl, hg⟩ := f.put_spec
  refine some_of (base := 3657433088) (p := f.put) rfl (by omega) fun w e => ?_
  obtain ⟨h1, h2⟩ := opc (w := w) (c := 218) (by omega)
  have hf := hg w (by omega)
  have := (f.op.code_spec).1; have := f.d.isLt; have := f.a.isLt; have := f.m.isLt; have := f.e.toNat_lt
  unfold FmtVote.put at e
  simp only [decodeFields, h1, h2, decodeOpD, Nat.reduceDiv, Nat.reduceMod]
  refine row_ok ?_ hf
  simp only [List.all_cons, List.all_nil, Bool.and_true, beq_iff_eq, natField]
  omega

theorem wred (f : FmtRed) : Statement (.wred f) := by
  obtain ⟨hl, hg⟩ := f.put_spec
  refine some_of (base := 3674210304) (p := f.put) rfl (by omega) fun w e => ?_
  obtain ⟨h1, h2⟩ := opc (w := w) (c := 219) (by omega)
  have hf := hg w (by omega)
  have := (f.op.code_spec).1; have := f.d.isLt; have := f.a.isLt; have := f.m.isLt; have := f.e.toNat_lt
  unfold FmtRed.put at e
  simp only [decodeFields, h1, h2, decodeOpD, Nat.reduceDiv, Nat.reduceMod]
  refine row_ok ?_ hf
  simp only [List.all_cons, List.all_nil, Bool.and_true, beq_iff_eq, natField]
  omega

theorem wscan (f : FmtRed) : Statement (.wscan f) := by
  obtain ⟨hl, hg⟩ := f.put_spec
  refine some_of (base := 3690987520) (p := f.put) rfl (by omega) fun w e => ?_
  obtain ⟨h1, h2⟩ := opc (w := w) (c := 220) (by omega)
  have hf := hg w (by omega)
  have := (f.op.code_spec).1; have := f.d.isLt; have := f.a.isLt; have := f.m.isLt; have := f.e.toNat_lt
  unfold FmtRed.put at e
  simp only [decodeFields, h1, h2, decodeOpD, Nat.reduceDiv, Nat.reduceMod]
  refine row_ok ?_ hf
  simp only [List.all_cons, List.all_nil, Bool.and_true, beq_iff_eq, natField]
  omega

theorem pset (f : FmtP) : Statement (.pset f) := by
  obtain ⟨hl, hg⟩ := f.put_spec
  refine some_of (base := 3707764736) (p := f.put) rfl (by omega) fun w e => ?_
  obtain ⟨h1, h2⟩ := opc (w := w) (c := 221) (by omega)
  have hf := hg w (by omega)
  have := f.pd.isLt; have := f.pa.isLt; have := f.pb.isLt; have := f.lut.isLt
  unfold FmtP.put at e
  simp only [decodeFields, h1, h2, decodeOpD, Nat.reduceDiv, Nat.reduceMod]
  refine row_ok ?_ hf
  simp only [List.all_cons, List.all_nil, Bool.and_true, beq_iff_eq, natField]
  omega

theorem pld (f : FmtSrc) : Statement (.pld f) := by
  obtain ⟨hl, hg⟩ := f.put_spec
  refine some_of (base := 3724541952) (p := f.put) rfl (by omega) fun w e => ?_
  obtain ⟨h1, h2⟩ := opc (w := w) (c := 222) (by omega)
  have hf := hg w (by omega)
  have := f.a.isLt; have := f.e.toNat_lt; have := f.ha.toNat_lt
  unfold FmtSrc.put at e
  simp only [decodeFields, h1, h2, decodeOpD, Nat.reduceDiv, Nat.reduceMod]
  refine row_ok ?_ hf
  simp only [List.all_cons, List.all_nil, Bool.and_true, Bool.and_eq_true, beq_iff_eq, natField]
  omega

theorem pst (f : FmtDst) : Statement (.pst f) := by
  obtain ⟨hl, hg⟩ := f.put_spec
  refine some_of (base := 3741319168) (p := f.put) rfl (by omega) fun w e => ?_
  obtain ⟨h1, h2⟩ := opc (w := w) (c := 223) (by omega)
  have hf := hg w (by omega)
  have := f.d.isLt; have := f.e.toNat_lt
  unfold FmtDst.put at e
  simp only [decodeFields, h1, h2, decodeOpD, Nat.reduceDiv, Nat.reduceMod]
  refine row_ok ?_ hf
  simp only [List.all_cons, List.all_nil, Bool.and_true, Bool.and_eq_true, beq_iff_eq, natField]
  omega

theorem mma (f : FmtR1) : Statement (.mma f) := by
  obtain ⟨hl, hg⟩ := f.put_spec
  refine some_of (base := 3758096384) (p := f.put) rfl (by omega) fun w e => ?_
  obtain ⟨h1, h2⟩ := opc (w := w) (c := 224) (by omega)
  have hf := hg w (by omega)
  have := f.d.isLt; have := f.a.isLt; have := f.e.toNat_lt; have := f.ha.toNat_lt
  unfold FmtR1.put at e
  simp only [decodeFields, h1, h2, decodeOpE, Nat.reduceDiv, Nat.reduceMod]
  refine row_ok ?_ hf
  simp only [List.all_cons, List.all_nil, Bool.and_true, Bool.and_eq_true, beq_iff_eq, natField]
  omega

theorem mmap (f : FmtR1) : Statement (.mmap f) := by
  obtain ⟨hl, hg⟩ := f.put_spec
  refine some_of (base := 3774873600) (p := f.put) rfl (by omega) fun w e => ?_
  obtain ⟨h1, h2⟩ := opc (w := w) (c := 225) (by omega)
  have hf := hg w (by omega)
  have := f.d.isLt; have := f.a.isLt; have := f.e.toNat_lt; have := f.ha.toNat_lt
  unfold FmtR1.put at e
  simp only [decodeFields, h1, h2, decodeOpE, Nat.reduceDiv, Nat.reduceMod]
  refine row_ok ?_ hf
  simp only [List.all_cons, List.all_nil, Bool.and_true, Bool.and_eq_true, beq_iff_eq, natField]
  omega

theorem tld (f : FmtR1) : Statement (.tld f) := by
  obtain ⟨hl, hg⟩ := f.put_spec
  refine some_of (base := 3791650816) (p := f.put) rfl (by omega) fun w e => ?_
  obtain ⟨h1, h2⟩ := opc (w := w) (c := 226) (by omega)
  have hf := hg w (by omega)
  have := f.d.isLt; have := f.a.isLt; have := f.e.toNat_lt; have := f.ha.toNat_lt
  unfold FmtR1.put at e
  simp only [decodeFields, h1, h2, decodeOpE, Nat.reduceDiv, Nat.reduceMod]
  refine row_ok ?_ hf
  simp only [List.all_cons, List.all_nil, Bool.and_true, Bool.and_eq_true, beq_iff_eq, natField]
  omega

theorem tst (f : FmtR1) : Statement (.tst f) := by
  obtain ⟨hl, hg⟩ := f.put_spec
  refine some_of (base := 3808428032) (p := f.put) rfl (by omega) fun w e => ?_
  obtain ⟨h1, h2⟩ := opc (w := w) (c := 227) (by omega)
  have hf := hg w (by omega)
  have := f.d.isLt; have := f.a.isLt; have := f.e.toNat_lt; have := f.ha.toNat_lt
  unfold FmtR1.put at e
  simp only [decodeFields, h1, h2, decodeOpE, Nat.reduceDiv, Nat.reduceMod]
  refine row_ok ?_ hf
  simp only [List.all_cons, List.all_nil, Bool.and_true, Bool.and_eq_true, beq_iff_eq, natField]
  omega

theorem tzero (f : FmtTile) : Statement (.tzero f) := by
  obtain ⟨hl, hg⟩ := f.put_spec
  refine some_of (base := 3825205248) (p := f.put) rfl (by omega) fun w e => ?_
  obtain ⟨h1, h2⟩ := opc (w := w) (c := 228) (by omega)
  have hf := hg w (by omega)
  have := f.t.isLt
  unfold FmtTile.put at e
  simp only [decodeFields, h1, h2, decodeOpE, Nat.reduceDiv, Nat.reduceMod]
  refine row_ok ?_ hf
  simp only [List.all_cons, List.all_nil, Bool.and_true, beq_iff_eq, natField]
  omega

theorem tfree (f : FmtTile) : Statement (.tfree f) := by
  obtain ⟨hl, hg⟩ := f.put_spec
  refine some_of (base := 3841982464) (p := f.put) rfl (by omega) fun w e => ?_
  obtain ⟨h1, h2⟩ := opc (w := w) (c := 229) (by omega)
  have hf := hg w (by omega)
  have := f.t.isLt
  unfold FmtTile.put at e
  simp only [decodeFields, h1, h2, decodeOpE, Nat.reduceDiv, Nat.reduceMod]
  refine row_ok ?_ hf
  simp only [List.all_cons, List.all_nil, Bool.and_true, beq_iff_eq, natField]
  omega

theorem cpy (f : FmtE) : Statement (.cpy f) := by
  obtain ⟨hl, hg⟩ := f.put_spec
  refine some_of (base := 3892314112) (p := f.put) rfl (by omega) fun w e => ?_
  obtain ⟨h1, h2⟩ := opc (w := w) (c := 232) (by omega)
  have hf := hg w (by omega)
  have := f.tok.isLt; have := f.wm.isLt; have := f.a.isLt
  unfold FmtE.put at e
  simp only [decodeFields, h1, h2, decodeOpE, Nat.reduceDiv, Nat.reduceMod]
  refine row_ok ?_ hf
  simp only [List.all_cons, List.all_nil, Bool.and_true, beq_iff_eq, natField]
  omega

theorem cpyt (f : FmtE) : Statement (.cpyt f) := by
  obtain ⟨hl, hg⟩ := f.put_spec
  refine some_of (base := 3909091328) (p := f.put) rfl (by omega) fun w e => ?_
  obtain ⟨h1, h2⟩ := opc (w := w) (c := 233) (by omega)
  have hf := hg w (by omega)
  have := f.tok.isLt; have := f.wm.isLt; have := f.a.isLt
  unfold FmtE.put at e
  simp only [decodeFields, h1, h2, decodeOpE, Nat.reduceDiv, Nat.reduceMod]
  refine row_ok ?_ hf
  simp only [List.all_cons, List.all_nil, Bool.and_true, beq_iff_eq, natField]
  omega

theorem cpym (f : FmtEm) : Statement (.cpym f) := by
  obtain ⟨hl, hg⟩ := f.put_spec
  refine some_of (base := 3925868544) (p := f.put) rfl (by omega) fun w e => ?_
  obtain ⟨h1, h2⟩ := opc (w := w) (c := 234) (by omega)
  have hf := hg w (by omega)
  have := f.tok.isLt; have := f.wm.isLt; have := f.a.isLt; have := f.mask.isLt
  unfold FmtEm.put at e
  simp only [decodeFields, h1, h2, decodeOpE, Nat.reduceDiv, Nat.reduceMod]
  refine row_ok ?_ hf
  simp only [List.all_cons, List.all_nil, Bool.and_true, beq_iff_eq, natField]
  omega

theorem lxf (f : FmtE) : Statement (.lxf f) := by
  obtain ⟨hl, hg⟩ := f.put_spec
  refine some_of (base := 3942645760) (p := f.put) rfl (by omega) fun w e => ?_
  obtain ⟨h1, h2⟩ := opc (w := w) (c := 235) (by omega)
  have hf := hg w (by omega)
  have := f.tok.isLt; have := f.wm.isLt; have := f.a.isLt
  unfold FmtE.put at e
  simp only [decodeFields, h1, h2, decodeOpE, Nat.reduceDiv, Nat.reduceMod]
  refine row_ok ?_ hf
  simp only [List.all_cons, List.all_nil, Bool.and_true, beq_iff_eq, natField]
  omega

theorem tkw (f : FmtEw) : Statement (.tkw f) := by
  obtain ⟨hl, hg⟩ := f.put_spec
  refine some_of (base := 3959422976) (p := f.put) rfl (by omega) fun w e => ?_
  obtain ⟨h1, h2⟩ := opc (w := w) (c := 236) (by omega)
  have hf := hg w (by omega)
  have := f.wm.isLt; have := f.a.isLt
  unfold FmtEw.put at e
  have h3 : bit w 5 = false := bit_eq (by first | (rw [Bool.toNat_true]; omega) | (rw [Bool.toNat_false]; omega))
  simp only [decodeFields, h1, h2, decodeOpE, Nat.reduceDiv, Nat.reduceMod, h3, Bool.false_eq_true, if_false]
  refine row_ok ?_ hf
  simp only [List.all_cons, List.all_nil, Bool.and_true, Bool.and_eq_true, beq_iff_eq, natField]
  omega

theorem tkwBar (f : FmtEb) : Statement (.tkwBar f) := by
  obtain ⟨hl, _⟩ := f.put_spec
  obtain ⟨wm, b⟩ := f
  have := wm.isLt; have := b.isLt
  refine some_of (base := 3959423008) (p := FmtEb.put _) rfl (by omega) fun w e => ?_
  simp only [FmtEb.put] at e
  obtain ⟨h1, h2⟩ := opc (w := w) (c := 236) (by omega)
  have hf : FmtEb.get w = some ⟨wm, b⟩ := by
    simp only [FmtEb.get]
    congr 2 <;> first | (apply bv_eq; omega) | (apply bit_eq; omega)
  have h3 : bit w 5 = true := bit_eq (by first | (rw [Bool.toNat_true]; omega) | (rw [Bool.toNat_false]; omega))
  have h4 : bit w 4 = false := bit_eq (by first | (rw [Bool.toNat_true]; omega) | (rw [Bool.toNat_false]; omega))
  simp only [decodeFields, h1, h2, decodeOpE, Nat.reduceDiv, Nat.reduceMod, h3, h4, if_true, Bool.false_eq_true, if_false]
  refine row_ok ?_ hf
  simp only [List.all_cons, List.all_nil, Bool.and_true, Bool.and_eq_true, beq_iff_eq, natField]
  omega

theorem tkwBarw (f : FmtEb) : Statement (.tkwBarw f) := by
  obtain ⟨hl, _⟩ := f.put_spec
  obtain ⟨wm, b⟩ := f
  have := wm.isLt; have := b.isLt
  refine some_of (base := 3959423024) (p := FmtEb.put _) rfl (by omega) fun w e => ?_
  simp only [FmtEb.put] at e
  obtain ⟨h1, h2⟩ := opc (w := w) (c := 236) (by omega)
  have hf : FmtEb.get w = some ⟨wm, b⟩ := by
    simp only [FmtEb.get]
    congr 2 <;> first | (apply bv_eq; omega) | (apply bit_eq; omega)
  have h3 : bit w 5 = true := bit_eq (by first | (rw [Bool.toNat_true]; omega) | (rw [Bool.toNat_false]; omega))
  have h4 : bit w 4 = true := bit_eq (by first | (rw [Bool.toNat_true]; omega) | (rw [Bool.toNat_false]; omega))
  simp only [decodeFields, h1, h2, decodeOpE, Nat.reduceDiv, Nat.reduceMod, h3, h4, if_true]
  refine row_ok ?_ hf
  simp only [List.all_cons, List.all_nil, Bool.and_true, Bool.and_eq_true, beq_iff_eq, natField]
  omega

theorem tkt (f : FmtEw) : Statement (.tkt f) := by
  obtain ⟨hl, hg⟩ := f.put_spec
  refine some_of (base := 3976200192) (p := f.put) rfl (by omega) fun w e => ?_
  obtain ⟨h1, h2⟩ := opc (w := w) (c := 237) (by omega)
  have hf := hg w (by omega)
  have := f.wm.isLt; have := f.a.isLt
  unfold FmtEw.put at e
  have h3 : bit w 5 = false := bit_eq (by first | (rw [Bool.toNat_true]; omega) | (rw [Bool.toNat_false]; omega))
  simp only [decodeFields, h1, h2, decodeOpE, Nat.reduceDiv, Nat.reduceMod, h3, Bool.false_eq_true, if_false]
  refine row_ok ?_ hf
  simp only [List.all_cons, List.all_nil, Bool.and_true, Bool.and_eq_true, beq_iff_eq, natField]
  omega

theorem tktBar (f : FmtEb) : Statement (.tktBar f) := by
  obtain ⟨hl, _⟩ := f.put_spec
  obtain ⟨wm, b⟩ := f
  have := wm.isLt; have := b.isLt
  refine some_of (base := 3976200224) (p := FmtEb.put _) rfl (by omega) fun w e => ?_
  simp only [FmtEb.put] at e
  obtain ⟨h1, h2⟩ := opc (w := w) (c := 237) (by omega)
  have hf : FmtEb.get w = some ⟨wm, b⟩ := by
    simp only [FmtEb.get]
    congr 2 <;> first | (apply bv_eq; omega) | (apply bit_eq; omega)
  have h3 : bit w 5 = true := bit_eq (by first | (rw [Bool.toNat_true]; omega) | (rw [Bool.toNat_false]; omega))
  simp only [decodeFields, h1, h2, decodeOpE, Nat.reduceDiv, Nat.reduceMod, h3, if_true]
  refine row_ok ?_ hf
  simp only [List.all_cons, List.all_nil, Bool.and_true, Bool.and_eq_true, beq_iff_eq, natField]
  omega

theorem spclr (f : FmtEw) : Statement (.spclr f) := by
  obtain ⟨hl, hg⟩ := f.put_spec
  refine some_of (base := 3992977408) (p := f.put) rfl (by omega) fun w e => ?_
  obtain ⟨h1, h2⟩ := opc (w := w) (c := 238) (by omega)
  have hf := hg w (by omega)
  have := f.wm.isLt; have := f.a.isLt
  unfold FmtEw.put at e
  simp only [decodeFields, h1, h2, decodeOpE, Nat.reduceDiv, Nat.reduceMod]
  refine row_ok ?_ hf
  simp only [List.all_cons, List.all_nil, Bool.and_true, Bool.and_eq_true, beq_iff_eq, natField]
  omega

theorem spset (f : FmtEw) : Statement (.spset f) := by
  obtain ⟨hl, hg⟩ := f.put_spec
  refine some_of (base := 4009754624) (p := f.put) rfl (by omega) fun w e => ?_
  obtain ⟨h1, h2⟩ := opc (w := w) (c := 239) (by omega)
  have hf := hg w (by omega)
  have := f.wm.isLt; have := f.a.isLt
  unfold FmtEw.put at e
  simp only [decodeFields, h1, h2, decodeOpE, Nat.reduceDiv, Nat.reduceMod]
  refine row_ok ?_ hf
  simp only [List.all_cons, List.all_nil, Bool.and_true, Bool.and_eq_true, beq_iff_eq, natField]
  omega

theorem srd (f : FmtSrd) : Statement (.srd f) := by
  obtain ⟨hl, hg⟩ := f.put_spec
  refine some_of (base := 4026531840) (p := f.put) rfl (by omega) fun w e => ?_
  obtain ⟨h1, h2⟩ := opc (w := w) (c := 240) (by omega)
  have hf := hg w (by omega)
  have := f.d.isLt; have := f.sel.isLt
  unfold FmtSrd.put at e
  simp only [decodeFields, h1, h2, decodeOpF, Nat.reduceDiv, Nat.reduceMod]
  refine row_ok ?_ hf
  simp only [List.all_cons, List.all_nil, Bool.and_true, beq_iff_eq, natField]
  omega

theorem swr (f : FmtSwr) : Statement (.swr f) := by
  obtain ⟨hl, hg⟩ := f.put_spec
  refine some_of (base := 4043309056) (p := f.put) rfl (by omega) fun w e => ?_
  obtain ⟨h1, h2⟩ := opc (w := w) (c := 241) (by omega)
  have hf := hg w (by omega)
  have := f.a.isLt; have := f.sel.isLt
  unfold FmtSwr.put at e
  simp only [decodeFields, h1, h2, decodeOpF, Nat.reduceDiv, Nat.reduceMod]
  refine row_ok ?_ hf
  simp only [List.all_cons, List.all_nil, Bool.and_true, beq_iff_eq, natField]
  omega

theorem coldReset : ∀ x0, Statement (.coldReset x0) := fun _ => none_of rfl

theorem bootStepFailure : ∀ x0, Statement (.bootStepFailure x0) := fun _ => none_of rfl

theorem hartStart : ∀ x0 x1 x2, Statement (.hartStart x0 x1 x2) := fun _ _ _ => none_of rfl

theorem inputVoltageFault : Statement (.inputVoltageFault) := none_of rfl

theorem controllerLockstepMismatch : Statement (.controllerLockstepMismatch) := none_of rfl

theorem sensorPoll : ∀ x0, Statement (.sensorPoll x0) := fun _ => none_of rfl

theorem pldmMonitoringRequest : ∀ x0, Statement (.pldmMonitoringRequest x0) := fun _ => none_of rfl

theorem pldmFirmwareUpdate : ∀ x0, Statement (.pldmFirmwareUpdate x0) := fun _ => none_of rfl

theorem pldmFreeze : Statement (.pldmFreeze) := none_of rfl

theorem pldmUnfreeze : ∀ x0, Statement (.pldmUnfreeze x0) := fun _ => none_of rfl

theorem pldmColdResetRequest : Statement (.pldmColdResetRequest) := none_of rfl

theorem getVersion : Statement (.getVersion) := none_of rfl

theorem getCapabilities : Statement (.getCapabilities) := none_of rfl

theorem negotiateAlgorithms : ∀ x0 x1, Statement (.negotiateAlgorithms x0 x1) := fun _ _ => none_of rfl

theorem getDigests : Statement (.getDigests) := none_of rfl

theorem getCertificate : ∀ x0 x1, Statement (.getCertificate x0 x1) := fun _ _ => none_of rfl

theorem challenge : ∀ x0, Statement (.challenge x0) := fun _ => none_of rfl

theorem getMeasurements : ∀ x0, Statement (.getMeasurements x0) := fun _ => none_of rfl

theorem ptpMessage : ∀ x0 x1 x2, Statement (.ptpMessage x0 x1 x2) := fun _ _ _ => none_of rfl

theorem flitReceive : ∀ x0 x1 x2, Statement (.flitReceive x0 x1 x2) := fun _ _ _ => none_of rfl

theorem retryRequest : ∀ x0 x1, Statement (.retryRequest x0 x1) := fun _ _ => none_of rfl

theorem linkRetrainComplete : ∀ x0, Statement (.linkRetrainComplete x0) := fun _ => none_of rfl

theorem linkDown : ∀ x0, Statement (.linkDown x0) := fun _ => none_of rfl

theorem peerUnreach : ∀ x0, Statement (.peerUnreach x0) := fun _ => none_of rfl

theorem tlbinv : ∀ x0 x1 x2, Statement (.tlbinv x0 x1 x2) := fun _ _ _ => none_of rfl

theorem qreg : ∀ x0 x1, Statement (.qreg x0 x1) := fun _ _ => none_of rfl

theorem qunreg : ∀ x0 x1, Statement (.qunreg x0 x1) := fun _ _ => none_of rfl

theorem faultack : ∀ x0 x1 x2, Statement (.faultack x0 x1 x2) := fun _ _ _ => none_of rfl

theorem partinfo : ∀ x0, Statement (.partinfo x0) := fun _ => none_of rfl

theorem plugload : ∀ x0 x1 x2 x3, Statement (.plugload x0 x1 x2 x3) := fun _ _ _ _ => none_of rfl

theorem ckpt : ∀ x0 x1, Statement (.ckpt x0 x1) := fun _ _ => none_of rfl

theorem checkpointComplete : ∀ x0 x1 x2, Statement (.checkpointComplete x0 x1 x2) := fun _ _ _ => none_of rfl

theorem restore : ∀ x0 x1 x2 x3 x4, Statement (.restore x0 x1 x2 x3 x4) := fun _ _ _ _ _ => none_of rfl

theorem pluginBudgetExpiry : ∀ x0, Statement (.pluginBudgetExpiry x0) := fun _ => none_of rfl

theorem repartition : ∀ x0 x1 x2, Statement (.repartition x0 x1 x2) := fun _ _ _ => none_of rfl

theorem partAllotWrite : ∀ x0 x1, Statement (.partAllotWrite x0 x1) := fun _ _ => none_of rfl

theorem coreInjWrite : ∀ x0 x1, Statement (.coreInjWrite x0 x1) := fun _ _ => none_of rfl

theorem registerWrite : ∀ x0 x1, Statement (.registerWrite x0 x1) := fun _ _ => none_of rfl

theorem meterUpdate : ∀ x0 x1, Statement (.meterUpdate x0 x1) := fun _ _ => none_of rfl

theorem boostBoundary : ∀ x0, Statement (.boostBoundary x0) := fun _ => none_of rfl

theorem permitRefill : ∀ x0, Statement (.permitRefill x0) := fun _ => none_of rfl

theorem ratioSwitchComplete : ∀ x0, Statement (.ratioSwitchComplete x0) := fun _ => none_of rfl

theorem droopAlarm : ∀ x0, Statement (.droopAlarm x0) := fun _ => none_of rfl

theorem droopSpanEnd : ∀ x0, Statement (.droopSpanEnd x0) := fun _ => none_of rfl

theorem releaseWave : ∀ x0, Statement (.releaseWave x0) := fun _ => none_of rfl

theorem idleEntry : ∀ x0, Statement (.idleEntry x0) := fun _ => none_of rfl

theorem idleExit : ∀ x0, Statement (.idleExit x0) := fun _ => none_of rfl

theorem hbmThermalStage : ∀ x0 x1, Statement (.hbmThermalStage x0 x1) := fun _ _ => none_of rfl

theorem notify : ∀ x0 x1 x2, Statement (.notify x0 x1 x2) := fun _ _ _ => none_of rfl

theorem launch : ∀ x0 x1 x2, Statement (.launch x0 x1 x2) := fun _ _ _ => none_of rfl

theorem launchComplete : ∀ x0, Statement (.launchComplete x0) := fun _ => none_of rfl

theorem signalCmd : ∀ x0 x1, Statement (.signalCmd x0 x1) := fun _ _ => none_of rfl

theorem waitCmd : ∀ x0 x1, Statement (.waitCmd x0 x1) := fun _ _ => none_of rfl

theorem waitReevaluate : ∀ x0 x1, Statement (.waitReevaluate x0 x1) := fun _ _ => none_of rfl

theorem waitTimeout : ∀ x0 x1, Statement (.waitTimeout x0 x1) := fun _ _ => none_of rfl

theorem setGate : ∀ x0 x1, Statement (.setGate x0 x1) := fun _ _ => none_of rfl

theorem clearGate : ∀ x0 x1, Statement (.clearGate x0 x1) := fun _ _ => none_of rfl

theorem setCycle : ∀ x0 x1, Statement (.setCycle x0 x1) := fun _ _ => none_of rfl

theorem tableBoundary : ∀ x0, Statement (.tableBoundary x0) := fun _ => none_of rfl

theorem unknownOpCommand : ∀ x0 x1, Statement (.unknownOpCommand x0 x1) := fun _ _ => none_of rfl

theorem queueFence : ∀ x0 x1, Statement (.queueFence x0 x1) := fun _ _ => none_of rfl

theorem exportCmd : ∀ x0 x1, Statement (.exportCmd x0 x1) := fun _ _ => none_of rfl

theorem importCmd : ∀ x0 x1 x2, Statement (.importCmd x0 x1 x2) := fun _ _ _ => none_of rfl

theorem irqTimeExpiry : ∀ x0 x1, Statement (.irqTimeExpiry x0 x1) := fun _ _ => none_of rfl

theorem gateInstanceStart : ∀ x0 x1, Statement (.gateInstanceStart x0 x1) := fun _ _ => none_of rfl

theorem gateInstanceComplete : ∀ x0 x1, Statement (.gateInstanceComplete x0 x1) := fun _ _ => none_of rfl

theorem deadlineMiss : ∀ x0 x1 x2, Statement (.deadlineMiss x0 x1 x2) := fun _ _ _ => none_of rfl

theorem teamPlace : ∀ x0, Statement (.teamPlace x0) := fun _ => none_of rfl

theorem placementReservation : ∀ x0, Statement (.placementReservation x0) := fun _ => none_of rfl

theorem teamPark : ∀ x0, Statement (.teamPark x0) := fun _ => none_of rfl

theorem teamWake : ∀ x0, Statement (.teamWake x0) := fun _ => none_of rfl

theorem preemptRequest : ∀ x0 x1, Statement (.preemptRequest x0 x1) := fun _ _ => none_of rfl

theorem drainTimeout : ∀ x0, Statement (.drainTimeout x0) := fun _ => none_of rfl

theorem saveComplete : ∀ x0, Statement (.saveComplete x0) := fun _ => none_of rfl

theorem teamLeave : ∀ x0, Statement (.teamLeave x0) := fun _ => none_of rfl

theorem check : ∀ x0 x1 x2 x3 x4 x5, Statement (.check x0 x1 x2 x3 x4 x5) := fun _ _ _ _ _ _ => none_of rfl

theorem coreSelfTest : ∀ x0 x1, Statement (.coreSelfTest x0 x1) := fun _ _ => none_of rfl

theorem strikeReport : ∀ x0 x1, Statement (.strikeReport x0 x1) := fun _ _ => none_of rfl

theorem holdRelease : ∀ x0, Statement (.holdRelease x0) := fun _ => none_of rfl

theorem undoLogRetire : ∀ x0, Statement (.undoLogRetire x0) := fun _ => none_of rfl

theorem dualcoreMismatch : ∀ x0 x1 x2 x3, Statement (.dualcoreMismatch x0 x1 x2 x3) := fun _ _ _ _ => none_of rfl

theorem eccCorrected : ∀ x0 x1 x2, Statement (.eccCorrected x0 x1 x2) := fun _ _ _ => none_of rfl

theorem cbfClear : Statement (.cbfClear) := none_of rfl

theorem eccUncorrectable : ∀ x0 x1 x2 x3, Statement (.eccUncorrectable x0 x1 x2 x3) := fun _ _ _ _ => none_of rfl

theorem tagError : ∀ x0, Statement (.tagError x0) := fun _ => none_of rfl

theorem partitionTeardown : ∀ x0 x1, Statement (.partitionTeardown x0 x1) := fun _ _ => none_of rfl

theorem kBlockComplete : ∀ x0 x1, Statement (.kBlockComplete x0 x1) := fun _ _ => none_of rfl

theorem matrixOpStart : ∀ x0, Statement (.matrixOpStart x0) := fun _ => none_of rfl

theorem pairWatchdog : ∀ x0, Statement (.pairWatchdog x0) := fun _ => none_of rfl

theorem layoutCommandStart : ∀ x0, Statement (.layoutCommandStart x0) := fun _ => none_of rfl

theorem copyComplete : ∀ x0, Statement (.copyComplete x0) := fun _ => none_of rfl

theorem lineLand : ∀ x0 x1, Statement (.lineLand x0 x1) := fun _ _ => none_of rfl

theorem loadFill : ∀ x0, Statement (.loadFill x0) := fun _ => none_of rfl

theorem atomicReturn : ∀ x0, Statement (.atomicReturn x0) := fun _ => none_of rfl

theorem publishTimeout : ∀ x0, Statement (.publishTimeout x0) := fun _ => none_of rfl

theorem faultEntry : ∀ x0 x1 x2, Statement (.faultEntry x0 x1 x2) := fun _ _ _ => none_of rfl

theorem pageFaultRepost : ∀ x0 x1, Statement (.pageFaultRepost x0 x1) := fun _ _ => none_of rfl

theorem resolvePoint : ∀ x0, Statement (.resolvePoint x0) := fun _ => none_of rfl

theorem resolveComplete : ∀ x0, Statement (.resolveComplete x0) := fun _ => none_of rfl

theorem orphanTrap : ∀ x0 x1 x2, Statement (.orphanTrap x0 x1 x2) := fun _ _ _ => none_of rfl

theorem barrierWatchdog : ∀ x0 x1, Statement (.barrierWatchdog x0 x1) := fun _ _ => none_of rfl

theorem waitcEvaluate : ∀ x0, Statement (.waitcEvaluate x0) := fun _ => none_of rfl

theorem waitcTimeout : ∀ x0, Statement (.waitcTimeout x0) := fun _ => none_of rfl

theorem functionLevelReset : ∀ x0, Statement (.functionLevelReset x0) := fun _ => none_of rfl

theorem destinationLineWrite : ∀ x0 x1, Statement (.destinationLineWrite x0 x1) := fun _ _ => none_of rfl

theorem applicationCoreAccess : ∀ x0 x1, Statement (.applicationCoreAccess x0 x1) := fun _ _ => none_of rfl

end Sys2Proof.Laws.RoundTrip
end

