-- ==== Sys2Proof/Safety.lean ====
section
/-! DEFINITION. What a safe step is (it answers a next state whose memory is in canonical form), and what it is for
a step to change one warp and nothing else: the frames that claims about instructions speak of. -/
namespace Sys2Proof.Machine

/-- An outcome is a next state. -/
def goesOn (o : Host.Outcome State Fault Refusal) : Prop := ∃ t, o = .next t

/-- The memory of a state is in canonical form. -/
def State.memOk (s : State) : Prop := Memory.wf s.mem = true

/-! ## Frames -/

/-- Two lanes agree in everything but the fairness age, which every issue of the warp moves (R188), and the mark of an
instruction still to be completed, which an issue ends (R277). -/
def Lane.alike (a b : Lane) : Prop := { a with age := 0, mid := false } = { b with age := 0, mid := false }

/-- A warp with the lanes of another and its bookkeeping of issues: promotion queue (R188), mismatch streaks and walk mode
(R108, R126), the mark of a second try (R127). -/
def Warp.withBooks (x w : Warp) : Warp :=
  { x with lanes := w.lanes, promo := w.promo, away := w.away, streak := w.streak, walk := w.walk, walk2 := w.walk2, dual := w.dual }

/-- Two warps agree in everything but the bookkeeping of an issue. -/
def Warp.alike (a b : Warp) : Prop :=
  a.withBooks b = b ∧ a.lanes.length = b.lanes.length ∧ ∀ l, l < a.lanes.length → (a.lane l).alike (b.lane l)

/-- Two cores agree in everything but the undo log, which every commit enters (R213). -/
def Core.alike (a b : Core) : Prop := { a with undo := [] } = { b with undo := [] }

/-- The warp of an issue as it stands in a state. -/
def State.warpOf (s : State) (i : Iss) : Option Warp := (s.team? i.team.key).bind fun t => t.warpAt i.warp.id

/-- Nothing but the issuing warp, the tick of its team's last commit and the undo logs differs from `s`, where the issuing
team stands as `tm` apart from its warps: memory and every register of the device, the other teams, the other warps of the
team, its scratchpad, tiles, rings, barriers and operations. -/
def onlyWarpAs (s t : State) (i : Iss) (tm : Team) : Prop :=
  { t with teams := s.teams, cores := s.cores } = s ∧
  (∀ n, (t.core n).alike (s.core n)) ∧
  (∀ k, k ≠ i.team.key → t.team? k = s.team? k) ∧
  ∃ v, t.team? i.team.key = some v ∧
    { v with warps := tm.warps, lastCommit := tm.lastCommit } = tm ∧
    ∀ w, w ≠ i.warp.id → v.warpAt w = i.team.warpAt w

/-- Nothing but the issuing warp, the tick of its team's last commit and the undo logs differs. -/
def onlyWarp (s t : State) (i : Iss) : Prop := onlyWarpAs s t i i.team

/-- The issuing warp becomes `w`, and nothing else differs. -/
def committed (s t : State) (i : Iss) (w : Warp) : Prop :=
  onlyWarp s t i ∧ ∃ x, t.warpOf i = some x ∧ x.alike w

/-- Lane `l` after a plain instruction of `n` words: an active or helping lane is changed by `f`; a lane of the entry
then goes on to the next instruction; every other lane stays as it was. -/
def laneAfter (i : Iss) (n : Nat) (f : Nat → Lane → Lane) (l : Nat) (k : Lane) : Lane :=
  let k1 := if i.active.contains l then f l k else k
  if i.entry.contains l then k1.step n else k1

/-- Each lane of the issuing warp becomes what `g` makes of it; masks, window base, arrivals and tokens of the warp stay. -/
def warpBecomes (t : State) (i : Iss) (g : Nat → Lane → Lane) : Prop :=
  ∃ x, t.warpOf i = some x ∧ x.withBooks i.warp = i.warp ∧ x.lanes.length = i.warp.lanes.length ∧
    ∀ l, l < i.warp.lanes.length → (x.lane l).alike (g l (i.warp.lane l))

/-- The lanes of the issuing warp become what `g` makes of them, and nothing else differs from `s`, where the issuing team
stands as `tm`. -/
def lanesBecomeAs (s t : State) (i : Iss) (tm : Team) (g : Nat → Lane → Lane) : Prop :=
  onlyWarpAs s t i tm ∧ warpBecomes t i g

/-- The lanes of the issuing warp become what `g` makes of them, and nothing else differs. -/
def lanesBecome (s t : State) (i : Iss) (g : Nat → Lane → Lane) : Prop := lanesBecomeAs s t i i.team g

/-- The lanes of the issuing warp move on, active lanes changed by `f`, and nothing else differs. -/
def moved (s t : State) (i : Iss) (f : Nat → Lane → Lane) : Prop := lanesBecome s t i (laneAfter i s.len f)

/-- A transfer: each active lane of the entry goes where `go` says, the others of the entry go on to the next word, and
every other lane stays as it was. -/
def laneTransfer (i : Iss) (n : Nat) (go : Nat → Lane → Lane) (l : Nat) (k : Lane) : Lane :=
  if i.entry.contains l then (if i.act.contains l then go l k else k.step n) else k

/-- The transfer with a link register written in every active lane, helpers included, before the lanes go (R340, R341). -/
def laneLink (i : Iss) (n : Nat) (row : Nat) (go : Nat → Lane → Lane) (l : Nat) (k : Lane) : Lane :=
  laneTransfer i n go l (if i.active.contains l then k.setReg row (i.pc + 1) else k)

/-- A control transfer completes whenever an issue passes its tests. -/
def completesTransfer (ins : Instr) (us : List Use) (go : Iss → Nat → Lane → Lane) : Prop :=
  ∀ s i, readyFor s ins false us i → ∃ t, exec ins s = .next t ∧ lanesBecome s t i (laneTransfer i s.len (go i))

/-- An instruction completes, changing its active lanes by `f` and nothing else, whenever an issue passes its tests. -/
def completes (ins : Instr) (e : Bool) (us : List Use) (f : State → Iss → Nat → Lane → Lane) : Prop :=
  ∀ s i, readyFor s ins e us i → ∃ t, exec ins s = .next t ∧ moved s t i (f s i)

/-- A two-source form completes with `D := op(a, b)` in each active lane. -/
def completesBin (ins : Instr) (f : FmtR) (op : Word → Word → Word) : Prop :=
  completes ins f.e [srcU f.a, srcU f.b, dstU f.d] fun _ i l k => k.setReg (i.row f.d.toNat) (op (i.rd l f.a) (i.rd l f.b))

/-- A form that also reads D completes with `D := op(a, b, d)`. -/
def completesTri (ins : Instr) (f : FmtR) (op : Word → Word → Word → Word) : Prop :=
  completes ins f.e [srcU f.a, srcU f.b, rwU f.d] fun _ i l k =>
    k.setReg (i.row f.d.toNat) (op (i.rd l f.a) (i.rd l f.b) (i.rd l f.d))

/-- A one-source form completes with `D := op(a)`. -/
def completesUn (ins : Instr) (f : FmtR1) (op : Word → Word) : Prop :=
  completes ins f.e [srcU f.a, dstU f.d] fun _ i l k => k.setReg (i.row f.d.toNat) (op (i.rd l f.a))

/-- A pair form completes with the pair D, low word in the even register. -/
def completes64 (ins : Instr) (f : FmtR) (us : List Use) (op : Iss → Nat → DWord) : Prop :=
  completes ins f.e us fun _ i l k =>
    (k.setReg (i.row f.d.toNat) ((op i l).extractLsb' 0 32)).setReg (i.row f.d.toNat + 1) ((op i l).extractLsb' 32 32)

/-- An immediate form completes with `D := op(a, imm)`; the immediate is sign-extended, or extended by the IMX before it. -/
def completesImm (ins : Instr) (f : FmtI) (op : Word → Word → Word) : Prop :=
  completes ins false [srcU f.a, dstU f.d] fun s i l k =>
    k.setReg (i.row f.d.toNat) (op (i.rd l f.a) (match s.ext with
      | some x => x ++ f.imm
      | none => f.imm.signExtend 32))

/-- A float form completes: D of each active lane holds the code, and the flags of the result are added to the lane's FSTAT. -/
def completesF (ins : Instr) (e : Bool) (us : List Use) (d : RegNo) (op : Iss → Nat → Nat × Flags) : Prop :=
  completes ins e us fun _ i l k =>
    let r := op i l
    let k1 := k.setReg (i.row d.toNat) (BitVec.ofNat 32 r.1)
    { k1 with fstat := k1.fstat ||| r.2 }

/-- A double form completes: the pair D holds the code, and the flags are added to FSTAT. -/
def completesD (ins : Instr) (e : Bool) (us : List Use) (d : RegNo) (op : Iss → Nat → Nat × Flags) : Prop :=
  completes ins e us fun _ i l k =>
    let r := op i l
    let k1 := (k.setReg (i.row d.toNat) (BitVec.ofNat 32 r.1)).setReg (i.row d.toNat + 1) (BitVec.ofNat 32 (r.1 / 2 ^ 32))
    { k1 with fstat := k1.fstat ||| r.2 }

/-- An instruction whose tests pass traps with `t`, as the machine takes it. -/
def traps (ins : Instr) (s : State) (i : Iss) (t : Trap) : Prop :=
  exec ins s = .next (takeTrap s i t (s.words ins).1 (s.words ins).2 i.entry)

/-! ## Rounding -/

/-- How `m · 2 ^ e` compares with `n · 2 ^ d`. -/
def cmpDyadic (m : Nat) (e : Int) (n : Nat) (d : Int) : Ordering :=
  compare (m * 2 ^ (e - min e d).toNat) (n * 2 ^ (d - min e d).toNat)

/-- Whether a magnitude strictly between `n · 2 ^ d` and `(n + 1) · 2 ^ d` rounds up in a mode (R291): to nearest by the middle, a
tie to the even one; toward the infinity on its side. `x` tells how the magnitude compares with dyadic numbers, `s` is its sign. -/
def roundsUp (rm : Rm) (s : Bool) (x : Nat → Int → Ordering) (n : Nat) (d : Int) : Bool :=
  match rm with
  | .rne => x (2 * n + 1) (d - 1) == .gt || (x (2 * n + 1) (d - 1) == .eq && n % 2 == 1)
  | .rtz => false
  | .rdn => s
  | .rup => !s

/-- `r` is a positive magnitude `x` with a sign, rounded once to a format (R292, R294): the code of the value when the format holds
it; else one of the two codes around it, with NX, with UF below the smallest normal, and with OF when it rounds past the largest
finite value; at or above the number after the largest finite one it overflows as its mode says. -/
def rounded (f : Fmt) (rm : Rm) (s : Bool) (x : Nat → Int → Ordering) (r : Nat × Flags) : Prop :=
  (∀ c n d, c ≤ f.maxCode → f.unpack c = .fin false n d → x n d ≠ .lt → x (n + 1) d = .lt →
    (x n d = .eq → r = (f.withSign s c, flagNone)) ∧
    (x n d = .gt →
      let up := roundsUp rm s x n d
      r = (f.withSign s (if up then c + 1 else c),
        flagNX ||| flagIf (up && c == f.maxCode) flagOF ||| flagIf (decide (c < 2 ^ f.fb)) flagUF))) ∧
  ∀ n d, f.unpack f.maxCode = .fin false n d → x (n + 1) d ≠ .lt → r = (f.withSign s (overflowCode f rm s), flagOF ||| flagNX)

/-- The integer that a magnitude rounds to (R298): `k` is the integer below it. -/
def roundsToInt (rm : Rm) (s : Bool) (x : Nat → Int → Ordering) (k : Nat) : Nat :=
  if x k 0 = .eq then k else if roundsUp rm s x k 0 then k + 1 else k

/-! ## Memory accesses -/

/-- What a load of `n` bytes of the answers `r` does before it commits: the publications an acquire or a hall read asks for,
then the page-table bits and cached translations of its accesses. -/
def loadBase (s : State) (i : Iss) (ord : MemOrd) (r : Reach) : State :=
  (s.loadForce i (acquires ord) (i.act.map r.ans)).useAll (usesOf r (i.act ++ i.helpers.filter fun l => (r.ans l).placed))

/-- What a load leaves outside its warp: the access that completes later is pending, with its requests to peers; with a release at
cluster scope or wider a fence enters the hold; a clamped scope is counted. -/
def loadAfter (s : State) (i : Iss) (ord : MemOrd) (scp : Scope) (n : Nat) (signed : Bool) (later : List PendLane) : State :=
  let b := s.takeNonce.pendLoad i n signed later
  (if releases ord && scopeWide (i.scope scp) then b.takeKey.pushHold i [.fence b.nextKey true (i.scope scp)] else b).countClamp i ord scp

/-- A load of `n` bytes into `d`: it traps with the lowest lane's failed test, and completes when the tests pass and nothing has
to be waited for. Its lanes hold their values, but for those that complete later, whose registers are empty and whose access is
pending. -/
def loads (ins : Instr) (e : Bool) (us : List Use) (n : Nat) (signed : Bool) (d : RegNo) (ord : MemOrd) (scp : Scope)
    (reach : State → Iss → Reach) : Prop :=
  ∀ s i, readyFor s ins e us i →
    let r := reach s i
    let s1 := loadBase s i ord r
    let row := i.row d.toNat
    let value (l : Nat) : Nat := if (r.ans l).placed then extend n signed (s1.loadValue i l n (r.ans l)) else 0
    let later := s1.laterLanes i n row signed r (i.act ++ i.helpers.filter fun l => (r.ans l).placed)
    let mark (l : Nat) (k : Lane) : Lane := if releases ord && i.act.contains l then { k with relF := true } else k
    let wait (l : Nat) (k : Lane) : Lane :=
      if acquires ord && later.any (fun p => p.lane == l && p.val.isNone) then { k with fence := s1.nextKey :: k.fence } else k
    (∀ t, lowerTrap (i.reachTrap r) (s.poisonTrap i n r) = some t → traps ins s i t) ∧
    (i.reachTrap r = none → s.poisonTrap i n r = none → (∀ l ∈ i.act, (r.ans l).placed = true) →
      (∀ l ∈ i.active, (r.ans l).placed = true → s.mustWait i l true (r.ans l) = false) →
      (releases ord && scopeWide (i.scope scp) = true → s.holdRoom i.core 1 = true) →
      (∃ t, exec ins s = .next t ∧
        lanesBecome (loadAfter s1 i ord scp n signed later) t i (laneAfter i s.len fun l k =>
          if later.any (fun p => p.lane == l) then (wait l (mark l k)).emptyRows row (.access s1.nextKey) ((n + 3) / 4)
          else (mark l k).setWords row (value l) ((n + 3) / 4))) ∧
      (later ≠ [] → (loadAfter s1 i ord scp n signed later).pend = s1.pend ++
        [{ key := s1.nextKey, team := i.team.key, warp := i.warp.id, bytes := n, signed := signed, atomic := false, tick := s.tick
           lanes := later }]))

/-- The effects a store of `n` bytes of `d` puts into the hold: for each hypothesis tag its bytes at the lanes' physical
locations, one empty store for discarded ones, and for each other team its bytes at that team's scratchpad offsets. -/
def storeEffects (s : State) (i : Iss) (n : Nat) (d : RegNo) (rel : Option Scope) (r : Reach) : List Eff :=
  let physOf (l : Nat) : Option Nat := match r.ans l with
    | .phys u => some u.loc
    | _ => none
  let tags := distinctOf (i.act.filter fun l => (physOf l).isSome) fun l => s.tagOf i l
  (tags.map fun t => .store i.team.ctx t (i.cellsFor (i.act.filter fun l => s.tagOf i l == some t) d n physOf) rel) ++
    (if i.act.any (fun l => (physOf l).isSome && (s.tagOf i l).isNone) then [.store i.team.ctx 0 [] rel] else []) ++
    (distinctOf i.act fun l => match r.ans l with
      | .hall t _ => some t
      | _ => none).map fun t => .hall t (i.cellsFor i.act d n fun l => match r.ans l with
        | .hall u off => if u = t then some off else none
        | _ => none) rel

/-- The bytes a store writes to the own scratchpad, at their offsets. -/
def storeOwn (i : Iss) (n : Nat) (d : RegNo) (r : Reach) : List (Nat × Byte) :=
  i.cellsFor i.act d n fun l => match r.ans l with
    | .own off => some off
    | _ => none

/-- HFULL of the first lane whose write finds no version slot (R274). -/
def storeFull (s : State) (i : Iss) (r : Reach) : Option Trap :=
  (s.slotFull i (i.act.filterMap fun l => match r.ans l, s.tagOf i l with
    | .phys u, some t => some (l, t, lineOf u.loc)
    | _, _ => none)).map fun l => { cause := 0x0A, info := BitVec.ofNat 32 l, addr := r.addr l, lane := l }

/-- A store of `n` bytes of `d`: it traps with the lowest lane's failed test, and completes when the tests pass, version slots
and the hold have room and nothing has to be waited for. Own-scratchpad bytes are written at once; what goes to memory or to
another core's scratchpad enters the outbound hold with its addresses, and so does the fence of an acquire order at cluster scope
or wider. -/
def stores (ins : Instr) (e : Bool) (us : List Use) (n : Nat) (d : RegNo) (ord : MemOrd) (scp : Scope)
    (reach : State → Iss → Reach) : Prop :=
  ∀ s i, readyFor s ins e us i →
    let r := reach s i
    let rel := i.relOf i.act ord scp
    let tail := if acquires ord && scopeWide (i.scope scp) then [Eff.fence s.nextKey false (i.scope scp)] else []
    let effs := storeEffects s i n d rel r ++ tail
    let own := storeOwn i n d r
    (∀ t, lowerTrap (i.reachTrap r) (storeFull s i r) = some t → traps ins s i t) ∧
    (i.reachTrap r = none → (∀ l ∈ i.act, (r.ans l).placed = true) → storeFull s i r = none →
      (∀ l ∈ i.act, s.mustWait i l false (r.ans l) = false) → s.holdRoom i.core effs.length = true →
      let s1 := if tail = [] then s.useAll (usesOf r i.act) else (s.useAll (usesOf r i.act)).takeKey
      let s2 := if own ≠ [] then rel.elim s1 fun sc => s1.markOwnRelease i.core sc else s1
      ∃ t, exec ins s = .next t ∧
        lanesBecomeAs ((s2.pushHold i effs).countClamp i ord scp) t i (i.team.writeScratch own) (laneAfter i s.len fun l k =>
          if acquires ord && i.act.contains l then { k with fence := s.loadsOut i l ++ k.fence } else k) ∧
        (own = [] ∨ rel ≠ some .system ∨ (s.core i.core).hold ≠ [] →
          ∀ a, (∀ u ∈ usesOf r i.act, ∀ p ∈ u.upd, p.1 ≠ a) → memByte t.mem a = memByte s.mem a) ∧
        ∀ a, (∀ c ∈ own, c.1 ≠ a) → sget (0 : Byte) (i.team.writeScratch own).scratch a = sget (0 : Byte) i.team.scratch a)

/-- The old values an atomic returns: those of the lanes' actions in lane order. -/
def oldOf (olds : List (Nat × Nat)) (l : Nat) : Nat := ((olds.find? fun o => o.1 == l).map (·.2)).getD 0

/-- An atomic: it traps with the lowest lane's failed test. In the own scratchpad the lanes act one after another at once. In
memory (`home` none) or in the scratchpad of another team one request of all lanes enters the hold. In each case D, where it is
written, is empty until the old values return. -/
def atomics (ins : Instr) (f : FmtAt) (ret : Bool) (us : List Use) (reach : State → Iss → Reach) : Prop :=
  ∀ s i, readyFor s ins f.e us i →
    let r := reach s i
    let n := if f.w64 then 8 else 4
    let regs := if f.w64 then 2 else 1
    let row := i.row f.d.toNat
    let rel := i.relOf i.act f.ord f.scp
    let base := s.useAll (usesOf r i.act)
    let at_ (home : Option Nat) (l : Nat) : Option Nat := match r.ans l, home with
      | .phys u, none => some u.loc
      | .hall t o, some k => if t = k then some o else none
      | _, _ => none
    let pend (ls : List PendLane) : Pend :=
      { key := s.nextKey, team := i.team.key, warp := i.warp.id, bytes := n, signed := false, atomic := true, tick := s.tick, lanes := ls }
    let lanes (l : Nat) (k : Lane) : Lane :=
      if i.act.contains l then
        let k1 := if acquires f.ord then { k with fence := s.nextKey :: k.fence } else k
        if ret then k1.emptyRows row (.access s.nextKey) regs else k1
      else k
    (∀ t, lowerTrap (i.reachTrap r) (storeFull s i r) = some t → traps ins s i t) ∧
    ((∀ l ∈ i.act, ∃ o, r.ans l = .own o) → (∀ l ∈ i.act, s.mustWait i l false (r.ans l) = false) → s.holdRoom i.core 0 = true →
      let parts := i.act.filterMap fun l => match r.ans l with
        | .own o => some (s.atomLane i f l o)
        | _ => none
      let res := scratchGroups f.aop n parts i.team.scratch
      let p := pend (parts.map fun q => { lane := q.lane, row := row, val := (res.1.find? fun o => o.1 == q.lane).map (·.2) })
      let s1 := rel.elim base fun sc => base.markOwnRelease i.core sc
      let s2 := { s1.takeKey with pend := s1.pend ++ if ret then [p] else [] }
      ∃ t, exec ins s = .next t ∧
        lanesBecomeAs (s2.countClamp i f.ord f.scp) t i { i.team with scratch := res.2 } (laneAfter i s.len lanes)) ∧
    (∀ home, (∀ l ∈ i.act, (at_ home l).isSome) → storeFull s i r = none → (∀ l ∈ i.act, s.mustWait i l false (r.ans l) = false) →
      s.holdRoom i.core 1 = true →
      let q : AtomReq := { key := s.nextKey, aop := f.aop, bytes := n, ret := ret, row := row
                           parts := i.act.filterMap fun l => (at_ home l).map (s.atomLane i f l) }
      let p := pend (q.parts.map fun a => { lane := a.lane, row := row, val := none })
      let s2 := { base.takeKey with pend := base.pend ++ if ret then [p] else [] }
      ∃ t, exec ins s = .next t ∧
        lanesBecome ((s2.pushHold i [.atom i.team.ctx home rel q]).countClamp i f.ord f.scp) t i (laneAfter i s.len lanes))

/-! ## Rendezvous -/

/-- The lanes of a team become what `g` makes of them, and nothing else differs from `s`, where the issuing team stands as `tm`: of
the issuing warp its bookkeeping too, of the other warps their lanes alone. -/
def teamBecomes (s t : State) (i : Iss) (tm : Team) (g : Warp → Nat → Lane → Lane) : Prop :=
  { t with teams := s.teams, cores := s.cores } = s ∧
  (∀ n, (t.core n).alike (s.core n)) ∧
  (∀ k, k ≠ i.team.key → t.team? k = s.team? k) ∧
  ∃ v, t.team? i.team.key = some v ∧ { v with warps := tm.warps, lastCommit := tm.lastCommit } = tm ∧
    ∀ n w, i.team.warpAt n = some w → ∃ x, v.warpAt n = some x ∧ x.lanes.length = w.lanes.length ∧
      if n = i.warp.id then x.withBooks w = w ∧ ∀ l, l < w.lanes.length → (x.lane l).alike (g w l (w.lane l))
      else { x with lanes := w.lanes } = w ∧ ∀ l, l < w.lanes.length → x.lane l = g w l (w.lane l)

/-- A barrier with no arrival that counts, on which no lane waits. -/
def Team.quietAt (t : Team) (c : Nat) : Prop :=
  (t.bar c).counted = [] ∧ (t.bar c).partials = [] ∧ (t.bar c).firstWait = none ∧ (t.bar c).paused = 0 ∧
  ∀ w ∈ t.warps, ∀ k ∈ w.lanes, k.waitsOn c = false

/-- Every barrier of a team is quiet. -/
def Team.barsQuiet (t : Team) : Prop := ∀ c, t.quietAt c

/-- No round of MWAIT is complete: of each mask register, taken as `mask`, no lane has arrived or some lane has not. -/
abbrev Warp.roundsOpen (w : Warp) (mask : Nat → Word) (pick : Nat → Prop) : Prop :=
  ∀ n, n < 12 → pick n → w.arrived n = 0 ∨ mask n &&& ~~~w.arrived n ≠ 0

/-- The issuing warp has the masks and arrived sets given, its lanes are what `g` makes of them, and nothing else differs. -/
def masksBecome (s t : State) (i : Iss) (masks mwait : List Word) (g : Nat → Lane → Lane) : Prop :=
  onlyWarp s t i ∧ ∃ x, t.warpOf i = some x ∧ x.masks = masks ∧ x.mwait = mwait ∧
    { x.withBooks i.warp with masks := i.warp.masks, mwait := i.warp.mwait } = i.warp ∧
    x.lanes.length = i.warp.lanes.length ∧ ∀ l, l < i.warp.lanes.length → (x.lane l).alike (g l (i.warp.lane l))

/-- The collective of a warp at a word, for a group. -/
def Warp.collAt (w : Warp) (pc : Word) (ins : Instr) (q : Option Nat) : Option Coll :=
  w.colls.find? fun c => c.pc == pc && c.ins == ins && c.quad == q

/-- Collectives in progress as the machine keeps them: one of a group at a word, of lanes that wait there, each once, and none of
them complete. -/
abbrev Warp.collsOk (w : Warp) : Prop :=
  (w.colls.Pairwise fun c d => ¬ (c.pc = d.pc ∧ c.ins = d.ins ∧ c.quad = d.quad)) ∧
  ∀ c ∈ w.colls, w.collDone c = false ∧ c.arr ≠ [] ∧ (c.arr.map Arrival.lane).Nodup ∧ ∀ a ∈ c.arr,
    a.lane < 32 ∧ a.lane < w.lanes.length ∧ (w.lane a.lane).life = .live ∧ (w.lane a.lane).wait = .coll ∧
    c.quad = if quadColl c.ins then some (a.lane / 4) else none

/-- The word that each lane of a group brings: of those that were active at their arrival and are in the mask. -/
def brought (mask : Word) (arr : List Arrival) (j : Nat) : Option Word :=
  (arr.find? fun a => a.lane == j).bind fun a => if a.active && mask.getLsbD j then some a.a else none

/-- A lane at a group that completes: it writes, if it was active at its arrival, what `result` gives of the words brought, or what
a non-member writes where the mask has it no more, and goes on. -/
def meetsAt (result : (Nat → Option Word) → Arrival → Word) (other : Word → Word) (mask : Word) (val : Nat → Option Word)
    (a : Arrival) (k : Lane) : Lane :=
  (if a.active then k.setReg a.row (if mask.getLsbD a.lane then result val a else other a.a) else k).past

/-- A collective (R405): members arrive and wait; a group of which every member has arrived completes, with the active helpers of a
quad; other active lanes write what a non-member writes, and go on. It is issued by a warp with no active lane too (R317). -/
def meets (ins : Instr) (f : FmtQ) (us : List Use) (quad : Bool) (result : (Nat → Option Word) → Arrival → Word)
    (other : Word → Word) : Prop :=
  ∀ s i, readyFor s ins f.e us i ∨ (s.issue = some i ∧ undoFull s i = false ∧ i.act = [] ∧ i.movement = false) →
    i.team.barsQuiet → i.warp.roundsOpen i.warp.mask (fun _ => True) → i.warp.collsOk →
    (∀ c ∈ i.warp.colls, c.pc = i.pc → c.ins = ins → c.mask = f.m.toNat) →
    let mask := i.warp.mask f.m.toNat
    let member (l : Nat) : Bool := mask.getLsbD l
    (∀ l ∈ i.helpers, member l = false) →
    let arrival (l : Nat) : Arrival :=
      let on := i.active.contains l
      { lane := l, active := on, a := if on then i.rd l f.a else 0, d := if on then i.rd l f.d else 0, row := i.row f.d.toNat }
    let inside (q : Option Nat) (l : Nat) : Bool := q.all fun n => l / 4 == n
    let touched (q : Option Nat) : Bool := if quad then q.any fun n => i.entry.any fun l => l / 4 == n else q.isNone
    let arr (q : Option Nat) : List Arrival :=
      (((i.warp.collAt i.pc ins q).map Coll.arr).getD []) ++ (i.entry.filter fun l => member l && inside q l).map arrival
    let done (q : Option Nat) : Bool := touched q && arr q != [] &&
      (List.range 32).all fun l => !(member l && inside q l) || (arr q).any fun a => a.lane == l
    let val (q : Option Nat) (j : Nat) : Option Word :=
      if quad && i.helpers.contains j && inside q j then some (i.rd j f.a) else brought mask (arr q) j
    ∃ t x, exec ins s = .next t ∧ onlyWarp s t i ∧ t.warpOf i = some x ∧ { x.withBooks i.warp with colls := i.warp.colls } = i.warp ∧
      (∀ pc j q, x.collAt pc j q =
        if pc = i.pc ∧ j = ins ∧ touched q = true then
          (if done q || arr q == [] then none else some { pc := pc, ins := ins, mask := f.m.toNat, quad := q, arr := arr q })
        else i.warp.collAt pc j q) ∧
      x.lanes.length = i.warp.lanes.length ∧ ∀ l, l < i.warp.lanes.length →
        let q := if quad then some (l / 4) else none
        (x.lane l).alike (match (arr q).find? fun a => a.lane == l with
          | some a =>
            if done q then meetsAt result other mask (val q) a (i.warp.lane l)
            else if i.entry.contains l then { i.warp.lane l with wait := .coll }
            else i.warp.lane l
          | none =>
            if quad && i.helpers.contains l then
              (if done q then (i.warp.lane l).setReg (i.row f.d.toNat) (result (val q) (arrival l)) else i.warp.lane l)
            else laneAfter i s.len (fun l k => k.setReg (i.row f.d.toNat) (other (i.rd l f.a))) l (i.warp.lane l))

/-- A collective in progress when its mask changes to `v` (R405, R406): it is tested with the new mask, and completes or goes on
waiting; the lanes that changed the mask go on. -/
def retests (ins : Instr) (result : (Nat → Option Word) → Arrival → Word) (other : Word → Word) (change : Instr) (e : Bool)
    (us : List Use) (m : Nat) (v : Iss → Word) : Prop :=
  ∀ s i c, readyFor s change e us i → i.warp.colls = [c] → i.warp.collsOk → c.ins = ins → c.mask = m → m < i.warp.masks.length →
    i.team.barsQuiet → i.warp.roundsOpen (fun n => if n = m then v i else i.warp.mask n) (fun _ => True) →
    let done : Bool := c.arr != [] && (List.range 32).all fun l =>
      !((v i).getLsbD l && c.quad.all fun n => l / 4 == n) || c.arr.any fun a => a.lane == l
    ∃ t x, exec change s = .next t ∧ onlyWarp s t i ∧ t.warpOf i = some x ∧
      x.colls = (if done then [] else [c]) ∧ x.masks = (updAt i.warp.masks m fun _ => v i) ∧
      { x.withBooks i.warp with colls := i.warp.colls, masks := i.warp.masks } = i.warp ∧
      x.lanes.length = i.warp.lanes.length ∧ ∀ l, l < i.warp.lanes.length →
        (x.lane l).alike (match c.arr.find? fun a => a.lane == l with
          | some a => if done then meetsAt result other (v i) (brought (v i) c.arr) a (i.warp.lane l) else i.warp.lane l
          | none => laneAfter i s.len (fun _ k => k) l (i.warp.lane l))

/-- A member that is active at its arrival. -/
def takesPart (i : Iss) (m : BitVec 4) (l : Nat) : Bool := i.active.contains l && (i.warp.mask m.toNat).getLsbD l

/-! ## Barriers -/

/-- The count of the watchdog of a barrier (R418): it goes on, or starts, while a lane waits, and ends when none does. -/
def Barrier.timed (x : Barrier) (waits : Bool) (tick : Nat) : Barrier :=
  if waits then (if x.firstWait.isSome then x else { x with firstWait := some tick, paused := 0 })
  else { x with firstWait := none, paused := 0 }

/-- A lane that waited for its warp's arrival on barrier `b` to be whole, once it counts in phase `p`. -/
def Lane.countedAt (k : Lane) (b p : Nat) : Lane := if k.wait = .barPart b then { k with wait := .bar b p } else k

/-- A lane when phase `p` of barrier `b` opens (R97, R417): one that waits for it goes on, by the release stepper where `wave` says
so; one held back for a third arrival tries again. -/
def Lane.openedAt (k : Lane) (b p : Nat) (wave : Bool) : Lane :=
  match k.wait with
  | .bar c q => if c = b ∧ q ≤ p then (if wave then { k with wait := .wave } else k.past) else k
  | .barHeld c => if c = b then { k with wait := .none } else k
  | _ => k

/-- Where a barrier instruction stands that all its tests let through: every other barrier quiet, no arrival of another warp whole
and not counted, and the phase of this one open. -/
def Iss.barOk (i : Iss) (b : Nat) : Prop :=
  b < i.team.barriers.length ∧ (∀ c, c ≠ b → i.team.quietAt c) ∧
  (∀ w ∈ i.team.warps, w.id ≠ i.warp.id → (i.team.bar b).part w.id = 0 ∨ arrivesWith w ((i.team.bar b).part w.id) = false) ∧
  (i.grid.record.barCount b = 0 ∨ (i.team.bar b).counted.length < i.grid.record.barCount b)

/-- ILL of a barrier instruction on a barrier that does not name its role (R416). -/
def barIll (ins : Instr) (b : Nat) (more : Iss → Prop) : Prop :=
  ∀ s i, s.issue = some i → undoFull s i = false → i.act ≠ [] → i.roleLegal ins = true → i.blockIll ins = false → more i →
    i.grid.record.barRole b i.warp.role = false → traps ins s i (ill i (wordOf ins))

/-- An arrival on barrier `b` (R417): the third of a warp waits until the phase opens; one of some lanes is kept until the warp's
other live lanes arrive; a whole one counts in the current phase, or is held for the next; the last one expected opens the
barrier. With `stay` the arriving lanes wait, else they go on. -/
def arrives (ins : Instr) (b : Nat) (stay : Bool) (more : Iss → Prop) : Prop :=
  barIll ins b more ∧
  ∀ s i, readyFor s ins false [] i → more i → b < i.team.barriers.length →
    let x := i.team.bar b
    let id := i.warp.id
    let set := x.part id ||| maskOf i.act
    let others := x.partials.filter fun p => p.1 != id
    let whole := i.warp.live.all fun l => set.getLsbD l
    let latest (p : Nat) : List (Nat × Nat) := (id, p) :: x.latest.filter fun q => q.1 != id
    let arrived (l : Nat) (k : Lane) : Lane :=
      if stay && i.act.contains l then { k with wait := .barPart b } else if i.entry.contains l then k.step s.len else k
    let own (w : Warp) (p l : Nat) (k : Lane) : Lane := if w.id = id then (arrived l k).countedAt b p else k
    let n := i.grid.record.barCount b
    let into (s1 : State) (y : Barrier) (g : Warp → Nat → Lane → Lane) : Prop :=
      ∃ t v, exec ins s = .next t ∧ t.team? i.team.key = some v ∧
        teamBecomes s1 t i (i.team.setBar b (y.timed (v.barWaits b) s.tick)) g
    (whole = true → id ∈ x.counted → id ∈ x.next →
      into s x fun w l k => if w.id = id then
        (if i.act.contains l then { k with wait := .barHeld b } else if i.entry.contains l then k.step s.len else k) else k) ∧
    (i.barOk b → whole = false →
      into s { x with partials := (id, set) :: others } fun w l k => if w.id = id then arrived l k else k) ∧
    (i.barOk b → whole = true → id ∉ x.counted → n = 0 ∨ x.counted.length + 1 < n →
      into s { x with counted := x.counted ++ [id], partials := others, latest := latest x.phase } fun w l k => own w x.phase l k) ∧
    (i.barOk b → whole = true → id ∈ x.counted → id ∉ x.next →
      into s { x with next := x.next ++ [id], partials := others, latest := latest (x.phase + 1) } fun w l k =>
        own w (x.phase + 1) l k) ∧
    (i.barOk b → whole = true → id ∉ x.counted → x.counted.length + 1 = n → x.next.length < n →
      (∀ w ∈ i.team.warps, w.id = id → w = i.warp) →
      let waves := (s.cluster (i.core / 4)).waveWarps != 0
      let rel := (List.range 32).filter fun m => i.team.warps.any fun w => w.id == m && (List.range w.lanes.length).any fun l =>
        match (own w x.phase l (w.lane l)).wait with
        | .bar c q => c == b && decide (q ≤ x.phase)
        | _ => false
      into (if waves = true ∧ rel ≠ [] then s.updCluster (i.core / 4) fun c => { c with
            releases := queueRelease c.releases { team := i.team.key, warps := rel, core := i.core, at_ := c.kcyc } } else s)
        { x with phase := x.phase + 1, counted := x.next, next := [], partials := others, latest := latest x.phase
                 firstWait := none, paused := 0 } fun w l k =>
          (own w x.phase l k).openedAt b x.phase (waves && w.role != .movement))

/-- Waiting on barrier `b` (R417): for the rest of an arrival of the warp in pieces, else for the phase of its latest arrival; on
when that has opened. -/
def awaits (ins : Instr) (b : Nat) (more : Iss → Prop) : Prop :=
  barIll ins b more ∧
  ∀ s i, readyFor s ins false [] i → more i → i.barOk b →
    let x := i.team.bar b
    let into (stay : Option Wait) : Prop :=
      ∃ t v, exec ins s = .next t ∧ t.team? i.team.key = some v ∧
        teamBecomes s t i (i.team.setBar b (x.timed (v.barWaits b) s.tick)) fun w l k =>
          if w.id = i.warp.id && i.entry.contains l then
            (match stay with
              | some v => if i.act.contains l then { k with wait := v } else k.step s.len
              | none => k.step s.len)
          else k
    (x.part i.warp.id = 0 → (∀ p, x.latestOf i.warp.id = some p → p < x.phase) → into none) ∧
    (∀ p, x.part i.warp.id = 0 → x.latestOf i.warp.id = some p → x.phase ≤ p → into (some (.bar b p))) ∧
    (x.part i.warp.id ≠ 0 → arrivesWith i.warp (x.part i.warp.id) = false → into (some (.barPart b)))

/-! ## Copy and layout operations -/

/-- Room for one more operation: fewer than 32 pending, a layout queue of fewer than 16, a hold entry. -/
def roomFor (s : State) (i : Iss) (p : MovePlan) : Prop :=
  (i.warp.tokens.map fun t => t.ops.length).sum < 32 ∧ (p.kind = .lxf → s.layCount (i.core / 4) < 16) ∧
  (p.internal = false → s.holdRoom i.core 1 = true)

/-- The operation of a plan has entered on a token: it is listed with its destination lines to come, its token counts it, the
context goes on; an operation inside the own scratchpad clears its lines' presence at once, another goes to the hold. -/
def enters (s t : State) (i : Iss) (tok : BitVec 3) (p : MovePlan) : Prop :=
  let key := s.nextKey
  let lines := dstLines p.kind p.mask p.dst p.dims
  let op : CopyOp :=
    { key := key, kind := p.kind, team := i.team.key, core := i.core, tok := tok.toNat, hcur := (i.warp.lane 0).hcur.toNat
      tick := s.tick, es := p.es, src := p.src, dst := p.dst, dims := p.dims, mask := p.mask, internal := p.internal
      clamped := i.grid.clamped, jobs := lines.map fun l => { line := l }, left_ := p.internal }
  let base := { s with copies := s.copies ++ [op], nextKey := key + 1 }
  onlyWarpAs (if p.internal then base else base.pushHold i [.copy key]) t i
    (if p.internal then { i.team with absent := clearLines i.team.absent key (lines.map ownLine) } else i.team) ∧
  ∃ x, t.warpOf i = some x ∧ x.tokens = updAt i.warp.tokens tok.toNat (fun k => k.push key) ∧
    { x.withBooks i.warp with tokens := i.warp.tokens } = i.warp ∧
    x.lanes.length = i.warp.lanes.length ∧
    ∀ l, l < i.warp.lanes.length → (x.lane l).alike (laneAfter i s.len (fun _ k => k) l (i.warp.lane l))

/-! ## Commands of queues -/

/-- The command at HEAD of a queue may start (R141, R144): the queue fetches it as `b` with OP `op` and CFLAGS and zero bytes of its
header in order; nothing earlier is unfinished where the OP or BARRIER asks for that, and of an ended launch no effect is in a hold at a
SIGNAL or FENCE. `s1` is the state after the read. -/
structure State.begins (s : State) (vf q op : Nat) (x : Queue) (s1 : State) (b : List Byte) : Prop where
  queue : s.queue? vf q = some x
  fetches : s.mayFetch x = true
  reads : s.readCmd x = some (s1, b)
  isOp : fieldAt b 0 1 = op
  header : fieldAt b 1 1 < 8 ∧ fieldAt b 2 2 = 0
  alone : op = 1 ∨ op = 3 → (fieldAt b 1 1).testBit 1 = true → x.started = []
  first : op ≠ 1 → op ≠ 3 → x.started = []
  done : op = 2 ∨ op = 7 → s.ctxHeld x.ctx = false

/-- The command at HEAD has started, and completes with a status at once: STATUS, HEAD and COMPLETED follow. -/
def completesAt (ins : Instr) (s u : State) (x : Queue) (code detail : Nat) : Prop :=
  exec ins s = .next (u.completeCmd x.vf x.num x.head code detail)

end Sys2Proof.Machine
end

