-- ==== Sys2Proof/Certificates/Slice0/Obligations.lean ====
section
/-! DEFINITION. The statements about the model: decoding, the step, every instruction's effect and frame, traps, reset,
memory, and the events of the device. -/
open Sys2Proof Sys2Proof.Machine

/-- The encoding examples of the spec, one for each family of the opcode map (sanity). -/
def Obligations.DecodedWords : Prop :=
  decode 0x00000000 = .ok .nop ∧
  decode 0x01540A00 = .ok (.pblk ⟨2, true, 2, 5⟩) ∧
  decode 0x0D000001 = .ok (.trap ⟨1⟩) ∧
  decode 0x100A1010 = .ok (.iadd ⟨5, 4, 2, false, false, false⟩) ∧
  decode 0x37240C10 = .ok (.isetp ⟨1, .lt, 3, 2, false, false, false⟩) ∧
  decode 0x43080012 = .ok (.ffma ⟨4, 0, 2, false, true, false⟩) ∧
  decode 0x911230A3 = .ok (.cvtn4 ⟨.sat, 1, 9, 12, 20, 3⟩) ∧
  decode 0xA01012B0 = .ok (.ld ⟨8, 4, .b64, .acq, .device, false, .def_⟩) ∧
  decode 0xB0101282 = .ok (.atom ⟨8, 4, .cas, .rlx, .core, true, false⟩) ∧
  decode 0xC3280818 = .ok (.waitc ⟨20, 2, 3, false, false, false⟩) ∧
  decode 0xC400004D = .ok (.stgwImm ⟨true, 3, 1⟩) ∧
  decode 0xDB0C14B0 = .ok (.wred ⟨.fadd, 6, 5, 2, false⟩) ∧
  decode 0xE0180800 = .ok (.mma ⟨12, 2, false, false⟩) ∧
  decode 0xEA400206 = .ok (.cpym ⟨2, 0, 8, 6⟩) ∧
  decode 0xEC004022 = .ok (.tkwBar ⟨2, 2⟩) ∧
  decode 0xF1001420 = .ok (.swr ⟨5, 0x020⟩) ∧
  (∀ w : Nat, w / 2 ^ 24 = 0xFF → ∃ r, decode w = .error r) ∧
  ∀ w : Nat, w / 2 ^ 24 = 0 → w % 2 ^ 24 ≠ 0 → ∃ r, decode w = .error r

/-- R314, R318, R321: every well-formed instruction that has a word is what the decoder reads from that word. -/
def Obligations.DecodeOfEncode : Prop :=
  ∀ i : Instr, i.wellFormed = true → ∀ w, encode i = some w → w < 2 ^ 32 ∧ decode w = .ok i

/-- R318: a word with a nonzero must-be-zero bit, an unassigned code or a forbidden combination is no instruction; the
words that are left mean one instruction each. -/
def Obligations.EncodeOfDecode : Prop :=
  ∀ w : Nat, w < 2 ^ 32 → ∀ i, decode w = .ok i → i.wellFormed = true ∧ encode i = some w

/-- R315, R318, R436; the order of instructions, events and time is the model's (log 2), and so is the time an instruction
takes (log 6). -/
def Obligations.StepRunsDecodedInstruction : Prop :=
  let after (t : State) : State := t.settleWaits.serveHeld
  (∀ (s : State) (i : Iss) (u : Use1), s.go = true → s.issue = some i → undoFull s i = false →
    s.orphanNow i.team.key i.warp.id = none → s.sel = some (i.team.key, i.warp.id) →
    i.grid.record.codeBase + 4 * i.pc.toNat < 0x01F0000000000000 →
    s.translate i.team.ctx i.grid.clamped .fetch (i.grid.record.codeBase + 4 * i.pc.toNat) = .phys u →
    (isPeer u.loc = true → (lineByte i.grid.lines u.loc).isSome) →
    let w := leNum ((List.range 4).map fun j => codeByte i.grid (u.loc + j))
    (∀ ins, decode w = .ok ins → step s = mapNext (fun t => after t.afterRun) (exec ins (s.useAll [u]))) ∧
    (∀ r, decode w = .error r → i.heldBy w = false →
      step s = .next (after (badWord (s.useAll [u]) i 1 (BitVec.ofNat 32 w) (BitVec.ofNat 32 w) 0).afterRun)) ∧
    (∀ r, decode w = .error r → i.heldBy w = true → step s = .next (after (markWait s i).afterRun))) ∧
  (∀ (s : State) (ins : Instr) (rest : List Input), s.go = false → s.inputs = .event ins :: rest →
    step s = mapNext after (exec ins { s with inputs := rest })) ∧
  (∀ (s : State) (n : Nat) (rest : List Input), s.go = false → s.inputs = .ticks (n + 1) :: rest →
    ∃ t, step s = .next t ∧ t.tick = s.tick + 1 ∧ t.inputs = .ticks n :: rest) ∧
  (∀ (s : State) (t w : Nat), s.go = false → s.inputs = [] → s.diags = [] → s.sel = some (t, w) → s.checkable t w = true →
    step s = mapNext after (exec (.check t w false true none false) s)) ∧
  ∀ s : State, s.go = false → s.inputs = [] → s.diags = [] → s.sel = none → ∃ t, step s = .next t ∧ t.tick = s.tick + 1

/-- R318, R454 to R456: what goes wrong in an instruction is a trap, never a stop of the machine. -/
def Obligations.EveryStepGoesOn : Prop :=
  (∀ (ins : Instr) (s : State), goesOn (exec ins s)) ∧ ∀ s : State, goesOn (step s)

/-- R10, R104, R105, R190, R308, R450. The model's choices: the tick starts at 0 and the lists of a reset machine are empty
(logs 1, 9), and unlisted memory reads 0 before boot step 4 (log 3). -/
def Obligations.ResetState : Prop :=
  let s := State.reset
  s.tick = 0 ∧ s.teams = [] ∧ s.grids = [] ∧ s.ctxs = [] ∧ s.queues = [] ∧ s.copies = [] ∧ s.pend = [] ∧ s.waitcs = [] ∧
  s.frozen = false ∧ s.mem = [] ∧ (∀ a, memByte s.mem a = 0) ∧ s.issue = none ∧
  (∀ n, let c := s.cluster n
    c.ben = false ∧ c.boostF = 2 ∧ c.boostW = 76 ∧ c.boostMin = 8 ∧ c.droopTh = 45 ∧ c.waveWarps = 0 ∧ c.stepCycles = 0 ∧
    c.boostperm = 64 ∧ c.clkratio = 1 ∧ c.mhz = 1700 ∧ c.droopCnt = 0 ∧ c.cslope = 0) ∧
  (∀ n, let p := s.part n
    p.allot = 0 ∧ p.base = 0 ∧ p.meter = 0 ∧ p.throt = 0 ∧ p.floor = false ∧ p.lattol = 0 ∧ p.idle = 0 ∧ p.fairn = 256) ∧
  ∀ r p, let k : Lane := {}
    k.reg r = 0 ∧ (k.cell r).fill = .full ∧ (k.pred p = true ↔ p = 7) ∧ k.prio = 8 ∧ k.hcur = 0 ∧ k.rm = 0 ∧ k.fstat = 0 ∧
    k.trap.cause = 0 ∧ k.trap.pc = 0 ∧ k.trap.addr = 0 ∧ k.trap.addrh = 0 ∧ k.trap.info = 0

/-- R75; that a byte nothing has written reads 0 before boot step 4 is the model's choice (log 3). -/
def Obligations.MemoryCanonicalAtReset : Prop :=
  State.reset.memOk ∧ (∀ a, memByte State.reset.mem a = 0) ∧
  ∀ (s : State) (n w : Nat), s.memOk → (s.withFetchWord n w).memOk ∧ (s.withFetchWord n w).mem = s.mem

/-- The invariant of memory, over every step. -/
def Obligations.MemoryStaysCanonical : Prop :=
  (∀ (ins : Instr) (s t : State), s.memOk → exec ins s = .next t → t.memOk) ∧
  ∀ s t : State, s.memOk → step s = .next t → t.memOk

/-- R22, R32, R45, R254; that every write to its line ends a reservation is the model's reading (log 60). -/
def Obligations.MemoryReadAfterWrite : Prop :=
  ∀ (s : State) (a : Nat) (b : Byte), s.memOk →
    (s.writeLoc a b).memOk ∧
    (isPeer a = false →
      memByte (s.writeLoc a b).mem a = b ∧ (∀ c, c ≠ a → memByte (s.writeLoc a b).mem c = memByte s.mem c) ∧
      (b = 0 → ∀ c ∈ (s.writeLoc a b).mem, c.1 ≠ a) ∧ (∀ r, r ∈ (s.writeLoc a b).resv ↔ r ∈ s.resv ∧ r.2 ≠ a / 128) ∧
      { s.writeLoc a b with mem := s.mem, resv := s.resv } = s) ∧
    (isPeer a = true → s.writeLoc a b = s)

/-- R308, R311, R330. -/
def Obligations.RegisterFile : Prop :=
  (∀ (k : Lane) (r q : Nat) (v : Word),
    (k.setReg r v).reg r = v ∧ ((k.setReg r v).cell r).fill = .full ∧
    (q ≠ r → (k.setReg r v).cell q = k.cell q) ∧ { k.setReg r v with regs := k.regs } = k) ∧
  (∀ (k : Lane) (r q : Nat) (p : Producer),
    (k.setEmpty r p).reg r = k.reg r ∧ ((k.setEmpty r p).cell r).fill = .empty p ∧
    (q ≠ r → (k.setEmpty r p).cell q = k.cell q) ∧ { k.setEmpty r p with regs := k.regs } = k) ∧
  (∀ (k : Lane) (p q : BitVec 3) (v : Bool), p ≠ 7 →
    (k.setPred p v).pred p = v ∧ (q ≠ p → (k.setPred p v).pred q = k.pred q) ∧ { k.setPred p v with preds := k.preds } = k) ∧
  ∀ (k : Lane) (v : Bool), k.pred 7 = true ∧ k.setPred 7 v = k

/-- R186: a lane whose pair is the first of the whole warp stands in its quad's top entry, so the gang is every ready lane of
that pair. R188: ages, promotions and the promoted head. -/
def Obligations.FrontierSelection : Prop :=
  let before (p q : BitVec 4 × Word) : Prop := q.1 < p.1 ∨ (p.1 = q.1 ∧ p.2 < q.2)
  let readyIn (w : Warp) (l : Nat) : Prop := l < w.lanes.length ∧ (w.lane l).life = .live ∧ (w.lane l).wait = .none
  (∀ w : Warp, w.lanes.length ≤ 32 → w.promo = [] →
    let ready (l : Nat) : Prop := readyIn w l
    (w.entry = [] ↔ ∀ l, ¬ ready l) ∧
    (∀ l ∈ w.entry, ready l ∧ ∀ j, ready j → ¬ before (w.lane j).pair (w.lane l).pair) ∧
    ∀ l ∈ w.entry, ∀ j, ready j → ((w.lane j).pair = (w.lane l).pair ↔ j ∈ w.entry)) ∧
  (∀ (w : Warp) (p : Promo) (ps : List Promo) (l : Nat), w.lanes.length ≤ 32 → w.promo = p :: ps →
    (p.lanes.find? fun j => (w.lane j).ready) = some l → ∀ j, j ∈ w.entry ↔
      readyIn w j ∧ (w.lane j).pair = (w.lane l).pair ∧
        (j / 4 = l / 4 ∨ ∀ k, k / 4 = j / 4 → readyIn w k → ¬ before (w.lane k).pair (w.lane j).pair)) ∧
  ∀ (w : Warp) (entry : List Nat) (transfer : Bool) (fairn : Nat), w.lanes.length = 32 → w.role ≠ .movement →
    let v := w.afterIssue entry transfer fairn
    let age (l : Nat) : Nat := if l ∈ entry then 0 else (w.lane l).age + 1
    let mate (l j : Nat) : Prop := j < w.lanes.length ∧ j / 4 = l / 4 ∧ (w.lane j).life = .live ∧ (w.lane j).pair = (w.lane l).pair
    (∀ l, l < w.lanes.length → (w.lane l).life = .live →
      (∃ j, mate l j ∧ (v.lane l).age = age j) ∧ ∀ j, mate l j → age j ≤ (v.lane l).age) ∧
    (∀ l, readyIn w l → fairn ≤ (v.lane l).age → ∃ p ∈ v.promo ++ v.away, l ∈ p.lanes ∨ ∃ j ∈ p.lanes, mate l j) ∧
    (w.away = [] → (∀ p ∈ w.promo, ∃ l ∈ p.lanes, (w.lane l).ready = true) → ∃ new : List Promo,
      v.promo = headRun entry transfer w.promo ++ new ∧ (new.map fun p => (p.lanes.head?).getD 0 / 4).Pairwise (· ≤ ·) ∧
      ∀ p ∈ new, p.run = 0 ∧ ∃ l, readyIn w l ∧ fairn ≤ (v.lane l).age ∧ ∀ j, j ∈ p.lanes ↔ readyIn w j ∧ mate l j) ∧
    ∀ (p : Promo) (ps : List Promo), (∃ l ∈ p.lanes, l ∈ entry) →
      headRun entry transfer (p :: ps) = if transfer = true ∨ 31 ≤ p.run then ps else { p with run := p.run + 1 } :: ps

/-- R319, R317: inactive lanes read, write and trap in nothing; a collective's inactive lanes arrive (R405), and an IMX pair is
passed over as one (R316). -/
def Obligations.InactiveInstructionPasses : Prop :=
  (∀ (ins : Instr) (s : State) (i : Iss) (w : Nat), encode ins = some w → quadColl ins = false →
    (match ins with
      | .imx _ | .wshfl _ | .wvote _ | .wred _ | .wscan _ => False
      | _ => True) →
    s.issue = some i → i.act = [] → undoFull s i = false →
    ∃ t, exec ins s = .next t ∧ lanesBecome s t i fun l k => if i.entry.contains l then k.step s.len else k) ∧
  ∀ (s : State) (i : Iss) (n : Nat) (info w0 w1 : Word), s.issue = some i → i.act = [] →
    lanesBecome s (badWord s i n info w0 w1) i fun l k => if i.entry.contains l then k.step n else k

/-- R318, R323, R317, R403; R416, R422, R449 and the order of R454. -/
def Obligations.IllegalForRole : Prop :=
  (∀ (ins : Instr) (s : State) (i : Iss) (w : Nat), encode ins = some w → (∀ f, ins ≠ .imx f) →
    s.issue = some i → s.ext = none → undoFull s i = false → i.act ≠ [] →
    (i.roleLegal ins = false ∨ i.blockIll ins = true) →
    exec ins s = .next (takeTrap s i { cause := 0x01, info := BitVec.ofNat 32 w, lane := i.lead } (BitVec.ofNat 32 w) 0 i.entry)) ∧
  (∀ (ins : Instr) (s : State) (i : Iss), movementOnly ins = false → s.issue = some i → s.ext = none → undoFull s i = false →
    i.act ≠ [] →
    (match ins with
      | .srd f => specialRead i.movement f.sel.toNat = false
      | .swr f => specialWritten f.sel.toNat = false
      | .bar f | .bara f | .barw f => i.grid.record.barRole f.b.toNat i.warp.role = false
      | .stgwImm f => i.grid.record.ringCount ≤ f.ring.toNat
      | .stgwReg f => i.grid.record.ringCount ≤ f.ring.toNat
      | .stgaImm f => i.grid.record.ringCount ≤ f.ring.toNat
      | .stgaReg f => i.grid.record.ringCount ≤ f.ring.toNat
      | _ => False) →
    traps ins s i { cause := 0x01, info := wordOf ins, lane := i.lead }) ∧
  (∀ (f : FmtX) (s : State) (i : Iss), s.issue = some i → undoFull s i = false → i.act ≠ [] → i.blockIll (.imx f) = true →
    exec (.imx f) s = .next (takeTrap s i (ill i (wordOf (.imx f))) (wordOf (.imx f)) 0 i.entry)) ∧
  ∀ (i : Iss) (ins : Instr), i.roleLegal ins = true ↔
    (i.warp.role = .vector → movementOnly ins = false ∧ matrixOnly ins = false) ∧
    (i.warp.role = .matrix → movementOnly ins = false) ∧ (i.warp.role = .movement → msqLegal ins = true) ∧
    (hypoOnly ins = true → i.grid.record.hypo = true)

/-- R309, R310, R312, R314, shown on IADD, whose uses are two sources and a destination (the tests are the same for every
form); groups on IADD64 and LD. -/
def Obligations.RegisterTests : Prop :=
  (∀ (s : State) (i : Iss) (f : FmtR), s.issue = some i → undoFull s i = false → i.act ≠ [] → s.ext = none →
    i.roleLegal (.iadd64 f) = true →
    (f.a.toNat % 2 = 1 ∨ f.b.toNat % 2 = 1 ∨ f.d.toNat % 2 = 1) → traps (.iadd64 f) s i (ill i (wordOf (.iadd64 f)))) ∧
  (∀ (s : State) (i : Iss) (f : FmtMem), s.issue = some i → undoFull s i = false → i.act ≠ [] → i.roleLegal (.ld f) = true →
    f.a.toNat % 2 = 1 ∨ (f.sz = .b128 ∧ f.d.toNat % 4 ≠ 0) ∨ (f.sz = .b64 ∧ f.d.toNat % 2 = 1) →
    traps (.ld f) s i (ill i (wordOf (.ld f)))) ∧
  (∀ (s : State) (i : Iss) (f : FmtR), s.issue = some i → undoFull s i = false → i.act ≠ [] → i.warp.role = .movement →
    (64 ≤ f.a.toNat ∨ 64 ≤ f.b.toNat ∨ 64 ≤ f.d.toNat) → traps (.iadd f) s i (ill i (wordOf (.iadd f)))) ∧
  ∀ (s : State) (i : Iss) (f : FmtR), s.issue = some i → undoFull s i = false → i.act ≠ [] → i.movement = false →
    let us : List Use := [srcU f.a, srcU f.b, dstU f.d]
    let beyond (r : RegNo) : Prop := i.allot ≤ 16 * i.warp.winBase.toNat + r.toNat
    let empty (l : Nat) (r : RegNo) : Prop := ∃ p, ((i.warp.lane l).cell (16 * i.warp.winBase.toNat + r.toNat)).fill = .empty p
    (beyond f.a → traps (.iadd f) s i { cause := 0x06, info := BitVec.ofNat 32 f.a.toNat, lane := i.lead }) ∧
    (¬ beyond f.a → beyond f.b → traps (.iadd f) s i { cause := 0x06, info := BitVec.ofNat 32 f.b.toNat, lane := i.lead }) ∧
    (¬ beyond f.a → ¬ beyond f.b → beyond f.d →
      traps (.iadd f) s i { cause := 0x06, info := BitVec.ofNat 32 f.d.toNat, lane := i.lead }) ∧
    (¬ beyond f.a → ¬ beyond f.b → ¬ beyond f.d → f.e = true → (∀ l ∈ i.act, ¬ empty l f.a ∧ ¬ empty l f.b) →
      (∃ l ∈ i.active, empty l f.d ∨ empty l f.a ∨ empty l f.b) →
      exec (.iadd f) s = .next (markEmpty s i (i.emptyRows us))) ∧
    (¬ beyond f.a → ¬ beyond f.b → ¬ beyond f.d → f.e = true → ∀ l ∈ i.act, empty l f.a → (∀ j ∈ i.act, j < l → ¬ empty j f.a ∧ ¬ empty j f.b) →
      i.act.Pairwise (· < ·) → i.failedRead us = none →
      traps (.iadd f) s i { cause := 0x07, info := BitVec.ofNat 32 f.a.toNat, lane := l }) ∧
    (¬ beyond f.a → ¬ beyond f.b → ¬ beyond f.d → f.e = true → ∀ l ∈ i.act, ¬ empty l f.a → empty l f.b →
      (∀ j ∈ i.act, j < l → ¬ empty j f.a ∧ ¬ empty j f.b) → i.act.Pairwise (· < ·) → i.failedRead us = none →
      traps (.iadd f) s i { cause := 0x07, info := BitVec.ofNat 32 f.b.toNat, lane := l }) ∧
    (¬ beyond f.a → ¬ beyond f.b → ¬ beyond f.d → f.e = false → (∃ l ∈ i.active, empty l f.a ∨ empty l f.b ∨ empty l f.d) →
      exec (.iadd f) s = .next (markEmpty s i (i.emptyRows us)) ∧ (markEmpty s i (i.emptyRows us)).mem = s.mem) ∧
    (¬ beyond f.a → ¬ beyond f.b → ¬ beyond f.d → (∀ l ∈ i.active, ¬ empty l f.a ∧ ¬ empty l f.b ∧ ¬ empty l f.d) →
      (∀ l ∈ i.act, l ∈ i.active) → i.failedRead us = none → readyFor s (.iadd f) f.e us i)

/-- R452, R455, R456; which predicate-block state is saved (BRK before its own place in the block, TRAP after it) is the model's
reading (log 43). -/
def Obligations.TrapEntry : Prop :=
  ∀ (s : State) (i : Iss) (f : FmtCode),
    let enter (cause : Nat) (pc : Word) (used : Bool) (l : Nat) (k : Lane) : Lane :=
      if i.entry.contains l then
        { k with
          trap := { cause := BitVec.ofNat 8 cause, pc := pc, addr := 0, addrh := 0, info := f.code.zeroExtend 32 }
          handler := some { prio := k.prio, blk := if used then (k.step 1).blk else k.blk }
          pc := BitVec.ofNat 32 i.grid.record.trapEntry, blk := {}, wait := .none }
      else k
    (readyFor s (.brk f) false [] i → i.grid.record.trapEntry ≠ 0 → (i.warp.lane i.lead).handler = none →
      ∃ t, exec (.brk f) s = .next t ∧ lanesBecome s t i (enter 0x0B i.pc false)) ∧
    (readyFor s (.trap f) false [] i → i.grid.record.trapEntry ≠ 0 → (i.warp.lane i.lead).handler = none →
      ∃ t, exec (.trap f) s = .next t ∧ lanesBecome s t i (enter 0x0C (i.pc + 1) true)) ∧
    (readyFor s (.brk f) false [] i → i.grid.record.trapEntry = 0 ∨ (i.warp.lane i.lead).handler ≠ none →
      exec (.brk f) s = .next (terminateCtx s i.team.ctx
        (trapDiag i { cause := 0x0B, info := f.code.zeroExtend 32, lane := i.lead } i.pc (i.warp.lane i.lead).handler.isSome
          (s.words (.brk f)).1 (s.words (.brk f)).2))) ∧
    (readyFor s (.trap f) false [] i → i.grid.record.trapEntry = 0 ∨ (i.warp.lane i.lead).handler ≠ none →
      exec (.trap f) s = .next (terminateCtx s i.team.ctx
        (trapDiag i { cause := 0x0C, info := f.code.zeroExtend 32, lane := i.lead } (i.pc + 1) (i.warp.lane i.lead).handler.isSome
          (s.words (.trap f)).1 (s.words (.trap f)).2)))

/-- R453. -/
def Obligations.ReturnFromTrap : Prop :=
  (∀ (s : State) (i : Iss), readyFor s .rft false [] i → (∀ l ∈ i.act, (i.warp.lane l).handler ≠ none) →
    ∃ t, exec .rft s = .next t ∧ lanesBecome s t i (laneTransfer i s.len fun _ k =>
      match k.handler with
      | some h => { k with pc := k.trap.pc, prio := h.prio, blk := h.blk, handler := none }
      | none => k)) ∧
  ∀ (s : State) (i : Iss) (l : Nat), readyFor s .rft false [] i → (i.act.find? fun l => (i.warp.lane l).handler.isNone) = some l →
    traps .rft s i { cause := 0x01, info := 0x0E000000, lane := l }

/-- R337, R339 to R342, R317. -/
def Obligations.ControlTransfers : Prop :=
  let prio (i : Iss) (p : BitVec 4) (k : Lane) : BitVec 4 := if i.warp.role = .movement then k.prio else p
  let link (i : Iss) : RegNo := if i.warp.role = .movement then 63 else 127
  (∀ f : FmtB, completesTransfer (.bra f) [] fun i _ k =>
    if (k.pred f.p ^^ f.n) = true then { k with pc := k.pc + 1 + f.off.signExtend 32, prio := prio i f.prio k }
    else { k with pc := k.pc + 1 }) ∧
  (∀ f : FmtB, f.p = 7 → f.n = true → completesTransfer (.bra f) [] fun _ _ k => { k with pc := k.pc + 1 }) ∧
  (∀ f : FmtJ, completesTransfer (.jmp f) [] fun _ _ k => { k with pc := k.pc + 1 + f.off.signExtend 32 }) ∧
  (∀ (f : FmtJ) (s : State) (i : Iss), readyFor s (.call f) false [dstU (link i)] i →
    ∃ t, exec (.call f) s = .next t ∧ lanesBecome s t i (laneLink i s.len (i.row (link i).toNat) fun _ k =>
      { k with pc := k.pc + 1 + f.off.signExtend 32 })) ∧
  (∀ f : FmtJmpi, completesTransfer (.jmpi f) [srcU f.a] fun i l k => { k with pc := i.rd l f.a, prio := prio i f.prio k }) ∧
  (∀ (f : FmtCalli) (s : State) (i : Iss), readyFor s (.calli f) false [srcU f.a, dstU f.d] i →
    ∃ t, exec (.calli f) s = .next t ∧ lanesBecome s t i (laneLink i s.len (i.row f.d.toNat) fun l k =>
      { k with pc := i.rd l f.a, prio := prio i f.prio k })) ∧
  (∀ (f : FmtPrio) (s : State) (i : Iss), readyFor s (.setprio f) false [] i →
    ∃ t, exec (.setprio f) s = .next t ∧ lanesBecome s t i (laneTransfer i s.len fun _ k =>
      { k.step s.len with prio := prio i f.prio k })) ∧
  ∀ f : FmtPB, completesTransfer (.pblk f) [] fun _ _ k =>
    { k with pc := k.pc + 1, blk := { left := f.len.toNat + 1, pat := f.pat, c := k.pred f.p ^^ f.n } }

/-- R336, R344, R345, R387. -/
def Obligations.NopYieldWindow : Prop :=
  completes .nop false [] (fun _ _ _ k => k) ∧ completes .yield false [] (fun _ _ _ k => k) ∧
  (∀ f : FmtPrf, completes (.prf f) false [{ r := f.a.toNat, n := 2, src := false }] fun _ _ _ k => k) ∧
  (∀ (f : FmtWinb) (s : State) (i : Iss), readyFor s (.winb f) false [] i → 16 * f.base.toNat < i.allot →
    ∃ t, exec (.winb f) s = .next t ∧
      committed s t i { i.warp with
        winBase := f.base
        lanes := (i.warp.updLanes i.entry fun _ k => k.step s.len).lanes.map fun k => match k.wait with
          | .empty _ => { k with wait := .none }
          | _ => k }) ∧
  ∀ (f : FmtWinb) (s : State) (i : Iss), readyFor s (.winb f) false [] i → i.allot ≤ 16 * f.base.toNat →
    traps (.winb f) s i { cause := 0x06, info := f.base.zeroExtend 32, lane := i.lead }

/-- R333, R343. What an exit may complete in the team (rounds, collectives, barriers) is stated with those. -/
def Obligations.ExitOfLanes : Prop :=
  ∀ (s : State) (i : Iss), readyFor s .exit false [] i →
    ∃ t x, exec .exit s = .next t ∧ t.warpOf i = some x ∧ x.lanes.length = i.warp.lanes.length ∧
      t.mem = s.mem ∧ t.poison = s.poison ∧ t.queues = s.queues ∧ t.copies = s.copies ∧
      (∀ l ∈ i.act, l < i.warp.lanes.length →
        (x.lane l).life = (if (List.range i.warp.lanes.length).any fun j =>
            j / 4 == l / 4 && !i.act.contains j && (i.warp.lane j).life == .live then .helper else .finished) ∧
        ∀ m ∈ x.masks, m.getLsbD l = false) ∧
      ∀ l, l ∉ i.act → l < i.warp.lanes.length → (x.lane l).life =
        if (i.warp.lane l).life = .helper ∧ (∃ e ∈ i.act, e / 4 = l / 4) ∧
          ∀ j, j < i.warp.lanes.length → j / 4 = l / 4 → (i.warp.lane j).life = .live → j ∈ i.act
        then .finished else (i.warp.lane l).life

/-- R348, row by row, with the frame: only D of the active lanes and the PCs of the entry change. -/
def Obligations.IntegerTwoSource : Prop :=
  (∀ f, completesBin (.iadd f) f fun a b => BitVec.ofNat 32 (a.toNat + b.toNat)) ∧
  (∀ f, completesBin (.isub f) f fun a b => BitVec.ofInt 32 ((a.toNat : Int) - b.toNat)) ∧
  (∀ f, completesBin (.imul f) f fun a b => (a.zeroExtend 64 * b.zeroExtend 64).extractLsb' 0 32) ∧
  (∀ f, completesBin (.imulh f) f fun a b => (a.signExtend 64 * b.signExtend 64).extractLsb' 32 32) ∧
  (∀ f, completesBin (.imulhu f) f fun a b => (a.zeroExtend 64 * b.zeroExtend 64).extractLsb' 32 32) ∧
  (∀ f, completesTri (.imad f) f fun a b d => BitVec.ofNat 32 (a.toNat * b.toNat + d.toNat)) ∧
  (∀ f, completesBin (.min f) f fun a b => BitVec.ofInt 32 (min a.toInt b.toInt)) ∧
  (∀ f, completesBin (.max f) f fun a b => BitVec.ofInt 32 (max a.toInt b.toInt)) ∧
  (∀ f, completesBin (.minu f) f fun a b => BitVec.ofNat 32 (min a.toNat b.toNat)) ∧
  (∀ f, completesBin (.maxu f) f fun a b => BitVec.ofNat 32 (max a.toNat b.toNat)) ∧
  (∀ f, completesBin (.and f) f fun a b => a &&& b) ∧
  (∀ f, completesBin (.or f) f fun a b => a ||| b) ∧
  (∀ f, completesBin (.xor f) f fun a b => a ^^^ b) ∧
  (∀ f, completesBin (.andn f) f fun a b => a &&& ~~~b) ∧
  (∀ f, completesBin (.shl f) f fun a b => BitVec.ofNat 32 (a.toNat * 2 ^ (b.toNat % 32))) ∧
  (∀ f, completesBin (.shr f) f fun a b => BitVec.ofNat 32 (a.toNat / 2 ^ (b.toNat % 32))) ∧
  (∀ f, completesBin (.sar f) f fun a b => BitVec.ofInt 32 (a.toInt / 2 ^ (b.toNat % 32))) ∧
  (∀ f, completesBin (.rotl f) f fun a b =>
    BitVec.ofNat 32 (a.toNat * 2 ^ (b.toNat % 32) + a.toNat / 2 ^ (32 - b.toNat % 32))) ∧
  (∀ f, completesBin (.idot4 f) f fun a b =>
    BitVec.ofInt 32 ((a.extractLsb' 0 8).toInt * (b.extractLsb' 0 8).toInt + (a.extractLsb' 8 8).toInt * (b.extractLsb' 8 8).toInt +
      (a.extractLsb' 16 8).toInt * (b.extractLsb' 16 8).toInt + (a.extractLsb' 24 8).toInt * (b.extractLsb' 24 8).toInt)) ∧
  (∀ f, completesBin (.idot4u f) f fun a b =>
    BitVec.ofNat 32 ((a.extractLsb' 0 8).toNat * (b.extractLsb' 0 8).toNat + (a.extractLsb' 8 8).toNat * (b.extractLsb' 8 8).toNat +
      (a.extractLsb' 16 8).toNat * (b.extractLsb' 16 8).toNat + (a.extractLsb' 24 8).toNat * (b.extractLsb' 24 8).toNat))

/-- R349: the quotients and remainders, with the frame of a two-source form. -/
def Obligations.IntegerDivision : Prop :=
  let quot (signed : Bool) (a b : Word) : Word :=
    if b = 0 then 0xFFFFFFFF
    else if signed && a == 0x80000000 && b == 0xFFFFFFFF then 0x80000000
    else if signed then BitVec.ofInt 32 (a.toInt.tdiv b.toInt)
    else BitVec.ofNat 32 (a.toNat / b.toNat)
  let rem (signed : Bool) (a b : Word) : Word :=
    if b = 0 then a
    else if signed && a == 0x80000000 && b == 0xFFFFFFFF then 0
    else a - quot signed a b * b
  (∀ f, completesBin (.idiv f) f (quot true)) ∧ (∀ f, completesBin (.idivu f) f (quot false)) ∧
  (∀ f, completesBin (.irem f) f (rem true)) ∧ (∀ f, completesBin (.iremu f) f (rem false)) ∧
  ∀ a b : Word, b ≠ 0 → rem true a b = 0 ∨ (rem true a b).msb = a.msb

/-- R350. The results are said by what they are: the count of set bits, the leading zeros as a bound on the number, and
the reversed word bit by bit. -/
def Obligations.IntegerOneSource : Prop :=
  ∃ (count lead rev : Word → Word),
    (∀ a, count a = BitVec.ofNat 32 ((List.range 32).filter fun i => a.getLsbD i).length) ∧
    (lead 0 = 32 ∧ ∀ a : Word, a ≠ 0 → (lead a).toNat < 32 ∧ 2 ^ (31 - (lead a).toNat) ≤ a.toNat ∧ a.toNat < 2 ^ (32 - (lead a).toNat)) ∧
    (∀ a i, i < 32 → (rev a).getLsbD i = a.getLsbD (31 - i)) ∧
    (∀ f, completesUn (.abs f) f fun a => if a.getLsbD 31 then BitVec.ofInt 32 (0 - a.toInt) else a) ∧
    (∀ f, completesUn (.popc f) f count) ∧ (∀ f, completesUn (.clz f) f lead) ∧ (∀ f, completesUn (.brev f) f rev) ∧
    (∀ f, completesUn (.mov f) f fun a => a) ∧
    ∀ w : Nat, w < 2 ^ 32 → (w / 2 ^ 24 = 0x22 ∨ w / 2 ^ 24 = 0x2B ∨ w / 2 ^ 24 = 0x2C ∨ w / 2 ^ 24 = 0x2D ∨ w / 2 ^ 24 = 0x39) →
      (w / 2 ^ 3 % 2 ^ 7 ≠ 0 ∨ w % 2 = 1) → ∃ r, decode w = .error r

/-- R351, R310: pair results modulo 2^64, and ILL for an odd register where a pair is named. -/
def Obligations.IntegerPairs : Prop :=
  let pair (i : Iss) (l : Nat) (r : RegNo) : Nat := (i.rdN l r 0).toNat + 2 ^ 32 * (i.rdN l r 1).toNat
  let pairs (f : FmtR) : List Use := [srcN f.a 2, srcN f.b 2, dstN f.d 2]
  let lea (f : FmtR) : List Use := [srcN f.a 2, srcU f.b, dstN f.d 2]
  (∀ f, completes64 (.iadd64 f) f (pairs f) fun i l => BitVec.ofNat 64 (pair i l f.a + pair i l f.b)) ∧
  (∀ f, completes64 (.isub64 f) f (pairs f) fun i l => BitVec.ofInt 64 ((pair i l f.a : Int) - pair i l f.b)) ∧
  (∀ f, completes64 (.imad64 f) f (pairs f) fun i l =>
    BitVec.ofInt 64 ((pair i l f.a : Int) + (i.rdN l f.b 0).toInt * (i.rdN l f.b 1).toInt)) ∧
  (∀ f, completes64 (.imad64u f) f (pairs f) fun i l =>
    BitVec.ofNat 64 (pair i l f.a + (i.rdN l f.b 0).toNat * (i.rdN l f.b 1).toNat)) ∧
  (∀ f, completes64 (.leaX1 f) f (lea f) fun i l => BitVec.ofInt 64 ((pair i l f.a : Int) + (i.rd l f.b).toInt)) ∧
  (∀ f, completes64 (.leaX2 f) f (lea f) fun i l => BitVec.ofInt 64 ((pair i l f.a : Int) + (i.rd l f.b).toInt * 2)) ∧
  (∀ f, completes64 (.leaX4 f) f (lea f) fun i l => BitVec.ofInt 64 ((pair i l f.a : Int) + (i.rd l f.b).toInt * 4)) ∧
  (∀ f, completes64 (.leaX8 f) f (lea f) fun i l => BitVec.ofInt 64 ((pair i l f.a : Int) + (i.rd l f.b).toInt * 8)) ∧
  ∀ (s : State) (i : Iss) (f : FmtR), s.issue = some i → undoFull s i = false → i.act ≠ [] →
    (∀ ins ∈ [Instr.iadd64 f, .isub64 f, .imad64 f, .imad64u f],
      f.a.toNat % 2 = 1 ∨ f.b.toNat % 2 = 1 ∨ f.d.toNat % 2 = 1 → traps ins s i (ill i (wordOf ins))) ∧
    ∀ ins ∈ [Instr.leaX1 f, .leaX2 f, .leaX4 f, .leaX8 f],
      f.a.toNat % 2 = 1 ∨ f.d.toNat % 2 = 1 → traps ins s i (ill i (wordOf ins))

/-- R352 to R355. -/
def Obligations.IntegerFields : Prop :=
  let pos (b : Word) : Nat := b.toNat % 32
  let len (b : Word) : Nat := min (b.toNat / 2 ^ 8 % 64) 32
  let mask (n : Nat) : Nat := 2 ^ n - 1
  let sx (f n : Nat) : Word := if 2 ^ (n - 1) ≤ f then BitVec.ofInt 32 ((f : Int) - 2 ^ n) else BitVec.ofNat 32 f
  let byte (a b : Word) (n : Nat) : Nat := if n < 4 then a.toNat / 2 ^ (8 * n) % 256 else b.toNat / 2 ^ (8 * (n - 4)) % 256
  let pick (a b : Word) (c : Nat) : Nat :=
    let x := byte a b (c % 8)
    if c / 8 % 4 = 0 then x else if c / 8 % 4 = 1 then 0 else if c / 8 % 4 = 2 then (if x / 128 = 1 then 255 else 0) else 255
  (∀ f, completesBin (.bfe f) f fun a b =>
    let g := a.toNat / 2 ^ pos b % 2 ^ len b
    if b.getLsbD 15 = true ∧ 0 < len b ∧ pos b + len b ≤ 32 then sx g (len b)
    else if b.getLsbD 15 = true ∧ 0 < len b then sx g (32 - pos b)
    else BitVec.ofNat 32 g) ∧
  (∀ f, completesTri (.bfi f) f fun a b d =>
    let m : Word := BitVec.ofNat 32 (mask (len b) * 2 ^ pos b)
    (d &&& ~~~m) ||| (BitVec.ofNat 32 (a.toNat * 2 ^ pos b) &&& m)) ∧
  (∀ f, completesTri (.bpick f) f fun a b d =>
    BitVec.ofNat 32 (pick a b (d.toNat % 256) + 2 ^ 8 * pick a b (d.toNat / 2 ^ 8 % 256) + 2 ^ 16 * pick a b (d.toNat / 2 ^ 16 % 256) +
      2 ^ 24 * pick a b (d.toNat / 2 ^ 24))) ∧
  (∀ f : FmtCI, completes (.isetp f) f.e [srcU f.a, srcU f.b] fun _ i l k =>
    let a := i.rd l f.a
    let b := i.rd l f.b
    k.setPred f.pd (match f.cond with
      | .eq => decide (a = b)
      | .ne => decide (a ≠ b)
      | .lt => decide (a.toInt < b.toInt)
      | .le => decide (a.toInt ≤ b.toInt)
      | .gt => decide (b.toInt < a.toInt)
      | .ge => decide (b.toInt ≤ a.toInt)
      | .ltu => decide (a.toNat < b.toNat)
      | .leu => decide (a.toNat ≤ b.toNat)
      | .gtu => decide (b.toNat < a.toNat)
      | .geu => decide (b.toNat ≤ a.toNat))) ∧
  (∀ w : Nat, w < 2 ^ 32 → w / 2 ^ 24 = 0x37 → 10 ≤ w / 2 ^ 17 % 16 → ∃ r, decode w = .error r) ∧
  ∀ f : FmtRK, completes (.sel f) false [srcU f.a, srcU f.b, dstU f.d] fun _ i l k =>
    k.setReg (i.row f.d.toNat) (if f.k = 7 ∨ (i.warp.lane l).preds.getLsbD f.k.toNat = true then i.rd l f.a else i.rd l f.b)

/-- R356, R357. -/
def Obligations.IntegerImmediates : Prop :=
  let imm (s : State) (m : BitVec 10) : Word := match s.ext with
    | some x => BitVec.ofNat 32 (x.toNat * 2 ^ 10 + m.toNat)
    | none => BitVec.ofInt 32 m.toInt
  (∀ f : FmtMovi, completes (.movi f) false [dstU f.d] fun s i _ k => k.setReg (i.row f.d.toNat) (imm s f.imm)) ∧
  (∀ f : FmtI, completes (.iaddi f) false [srcU f.a, dstU f.d] fun s i l k =>
    k.setReg (i.row f.d.toNat) (BitVec.ofNat 32 ((i.rd l f.a).toNat + (imm s f.imm).toNat))) ∧
  (∀ f : FmtI, completes (.andi f) false [srcU f.a, dstU f.d] fun s i l k =>
    k.setReg (i.row f.d.toNat) (i.rd l f.a &&& imm s f.imm)) ∧
  (∀ f : FmtI, completes (.ori f) false [srcU f.a, dstU f.d] fun s i l k =>
    k.setReg (i.row f.d.toNat) (i.rd l f.a ||| imm s f.imm)) ∧
  (∀ f : FmtI, completes (.xori f) false [srcU f.a, dstU f.d] fun s i l k =>
    k.setReg (i.row f.d.toNat) (i.rd l f.a ^^^ imm s f.imm)) ∧
  (∀ f : FmtSh, completes (.shi f) false [srcU f.a, dstU f.d] fun _ i l k =>
    let a := i.rd l f.a
    let n := f.amount.toNat
    k.setReg (i.row f.d.toNat) (match f.kind with
      | .shl => BitVec.ofNat 32 (a.toNat * 2 ^ n)
      | .shr => BitVec.ofNat 32 (a.toNat / 2 ^ n)
      | .sar => BitVec.ofInt 32 (a.toInt / 2 ^ n)
      | .rotl => BitVec.ofNat 32 (a.toNat * 2 ^ n + a.toNat / 2 ^ (32 - n)))) ∧
  (∀ w : Nat, w < 2 ^ 32 → w / 2 ^ 24 = 0x3A → w / 2 ^ 10 % 2 ^ 7 ≠ 0 → ∃ r, decode w = .error r) ∧
  (∀ w : Nat, w < 2 ^ 32 → w / 2 ^ 24 = 0x3F → w / 2 ^ 7 % 2 ^ 3 ≠ 0 → ∃ r, decode w = .error r) ∧
  ∀ (f : FmtSh) (s : State), execExtended (.shi f) s = none

/-- R31, R316, R338. -/
def Obligations.ExtensionByImx : Prop :=
  (∀ (f : FmtX) (s : State) (i : Iss) (w : Nat) (u : Use1), s.issue = some i → undoFull s i = false → i.act ≠ [] →
    i.blockIll (.imx f) = false → s.fetchAway i (i.pc + 1) = [] → s.fetchAt i (i.pc + 1) = some (w, u) →
    let s1 := s.useAll [u]
    (∀ ins, decode w = .ok ins → imxExtends ins = true →
      ∃ t, exec ins { s1 with ext := some f.imm } = .next t ∧ exec (.imx f) s = .next { t with ext := none }) ∧
    (∀ ins, decode w = .ok ins → imxExtends ins = false →
      exec (.imx f) s = .next (takeTrap s1 i (ill i (wordOf (.imx f))) (wordOf (.imx f)) (BitVec.ofNat 32 w) i.entry)) ∧
    (∀ r, decode w = .error r →
      exec (.imx f) s = .next (takeTrap s1 i (ill i (if extendsOpc w then BitVec.ofNat 32 w else wordOf (.imx f)))
        (wordOf (.imx f)) (BitVec.ofNat 32 w) i.entry))) ∧
  (∀ (f : FmtX) (s : State) (i : Iss), s.issue = some i → undoFull s i = false → i.act ≠ [] → i.blockIll (.imx f) = false →
    s.fetchAway i (i.pc + 1) ≠ [] → ∃ t, exec (.imx f) s = .next t ∧ t.mem = s.mem ∧
      ∃ x, t.warpOf i = some x ∧ ∀ l ∈ i.entry, l < i.warp.lanes.length → x.lane l = { i.warp.lane l with wait := .retry }) ∧
  (∀ (f : FmtX) (s : State) (i : Iss), s.issue = some i → undoFull s i = false → i.act = [] →
    ∃ t, exec (.imx f) s = .next t ∧ lanesBecome s t i fun l k => if i.entry.contains l then k.step 2 else k) ∧
  ∀ (s : State), s.len = (if s.ext = none then 1 else 2)

/-- R358 to R366: the operations are those of the model's number formats (their special values and rounding are stated apart). -/
def Obligations.FloatArithmetic : Prop :=
  let bin (f : FmtR) : List Use := [srcU f.a, srcU f.b, dstU f.d]
  let tri (f : FmtR) : List Use := [rwU f.d, srcU f.a, srcU f.b]
  let un (f : FmtR1) : List Use := [srcU f.a, dstU f.d]
  let v (i : Iss) (l : Nat) (r : RegNo) : Nat := (i.rd l r).toNat
  (∀ f, completesF (.fadd f) f.e (bin f) f.d fun i l => addF fp32 (i.rm l) (v i l f.a) (v i l f.b)) ∧
  (∀ f, completesF (.fsub f) f.e (bin f) f.d fun i l => subF fp32 (i.rm l) (v i l f.a) (v i l f.b)) ∧
  (∀ f, completesF (.fmul f) f.e (bin f) f.d fun i l => mulF fp32 (i.rm l) (v i l f.a) (v i l f.b)) ∧
  (∀ f, completesF (.fdiv f) f.e (bin f) f.d fun i l =>
    divFV fp32 (i.rm l) (fp32.unpack (v i l f.a)) (fp32.unpack (v i l f.b))) ∧
  (∀ f, completesF (.ffma f) f.e (tri f) f.d fun i l => fmaF fp32 (i.rm l) false false (v i l f.a) (v i l f.b) (v i l f.d)) ∧
  (∀ f, completesF (.ffms f) f.e (tri f) f.d fun i l => fmaF fp32 (i.rm l) false true (v i l f.a) (v i l f.b) (v i l f.d)) ∧
  (∀ f, completesF (.fnma f) f.e (tri f) f.d fun i l => fmaF fp32 (i.rm l) true false (v i l f.a) (v i l f.b) (v i l f.d)) ∧
  (∀ f, completesF (.fmin f) f.e (bin f) f.d fun i l => minMaxF fp32 false (v i l f.a) (v i l f.b)) ∧
  (∀ f, completesF (.fmax f) f.e (bin f) f.d fun i l => minMaxF fp32 true (v i l f.a) (v i l f.b)) ∧
  (∀ f, completesF (.fabs f) f.e (un f) f.d fun i l => absF fp32 (v i l f.a)) ∧
  (∀ f, completesF (.fneg f) f.e (un f) f.d fun i l => negF fp32 (v i l f.a)) ∧
  (∀ f, completesF (.fclass f) f.e (un f) f.d fun i l => (2 ^ classF fp32 (v i l f.a), 0)) ∧
  (∀ f : FmtMR, completesF (.frnd f) f.e [srcU f.a, dstU f.d] f.d fun i l => rndF fp32 f.rm (v i l f.a)) ∧
  (∀ (a b : Flags) (n : Nat), a.getLsbD n = true → (a ||| b).getLsbD n = true) ∧
  (∀ a, a < 2 ^ 32 →
    let g := a % 2 ^ 31
    classF fp32 a = if 0x7F800000 < g then (if g < 0x7FC00000 then 8 else 9)
      else if g = 0x7F800000 then (if a = g then 7 else 0)
      else if 0x800000 ≤ g then (if a = g then 6 else 1)
      else if g = 0 then (if a = g then 4 else 3) else if a = g then 5 else 2) ∧
  ∀ (rm : Rm) (a : Nat) (s : Bool) (m : Nat) (e : Int) (k : Nat), fp32.unpack a = .fin s m e → m ≠ 0 →
    cmpDyadic m e k 0 ≠ .lt → cmpDyadic m e (k + 1) 0 = .lt →
    rndF fp32 rm a = ((roundExact fp32 .rne s (roundsToInt rm s (cmpDyadic m e) k) 0).1, flagIf (cmpDyadic m e k 0 == .gt) flagNX)

/-- R292, R297, R358, R365. That 2^x, log2 x, sin, cos and tanh are computed between two bounds, and that those bounds hold the
real value, is the model's (log 11): of these five the statement gives the exact points, sample values, and what follows from the
bounds. -/
def Obligations.FloatSpecialFunctions : Prop :=
  let un (f : FmtR1) : List Use := [srcU f.a, dstU f.d]
  let v (i : Iss) (l : Nat) (r : RegNo) : Nat := (i.rd l r).toNat
  (∀ f, completesF (.fsqrt f) f.e (un f) f.d fun i l => sqrtF fp32 (i.rm l) (v i l f.a)) ∧
  (∀ f, completesF (.frcp f) f.e (un f) f.d fun i l => rcpF fp32 (i.rm l) (v i l f.a)) ∧
  (∀ f, completesF (.frsq f) f.e (un f) f.d fun i l => rsqrtF fp32 (i.rm l) (v i l f.a)) ∧
  (∀ f, completesF (.fex2 f) f.e (un f) f.d fun i l => ex2F (i.rm l) (v i l f.a)) ∧
  (∀ f, completesF (.flg2 f) f.e (un f) f.d fun i l => lg2F (i.rm l) (v i l f.a)) ∧
  (∀ f, completesF (.fsin f) f.e (un f) f.d fun i l => trigF true (i.rm l) (v i l f.a)) ∧
  (∀ f, completesF (.fcos f) f.e (un f) f.d fun i l => trigF false (i.rm l) (v i l f.a)) ∧
  (∀ f, completesF (.ftanh f) f.e (un f) f.d fun i l => tanhF (i.rm l) (v i l f.a)) ∧
  (∀ rm, sqrtF fp32 rm 0x80000000 = (0x80000000, flagNone) ∧ rcpF fp32 rm 0 = (0x7F800000, flagDZ) ∧
    rcpF fp32 rm 0x80000000 = (0xFF800000, flagDZ)) ∧
  (∀ (rm : Rm) (a : Nat), 0x80000000 < a → a ≤ 0xFF800000 → sqrtF fp32 rm a = (0x7FC00000, flagIV) ∧
    rsqrtF fp32 rm a = (0x7FC00000, flagIV) ∧ lg2F rm a = (0x7FC00000, flagIV)) ∧
  (∀ (rm : Rm) (a m : Nat) (e : Int), fp32.unpack a = .fin false m e → m ≠ 0 →
    rounded fp32 rm false (fun n d => cmpDyadic m e (n * n) (2 * d)) (sqrtF fp32 rm a) ∧
    rounded fp32 rm false (fun n d => cmpDyadic 1 0 (n * m) (d + e)) (rcpF fp32 rm a) ∧
    rounded fp32 rm false (fun n d => cmpDyadic 1 0 (n * n * m) (2 * d + e)) (rsqrtF fp32 rm a)) ∧
  (∀ rm, sqrtF fp32 rm 0 = (0, flagNone) ∧ sqrtF fp32 rm 0x7F800000 = (0x7F800000, flagNone) ∧
    rsqrtF fp32 rm 0 = (0x7F800000, flagDZ) ∧ rsqrtF fp32 rm 0x80000000 = (0xFF800000, flagDZ) ∧
    rsqrtF fp32 rm 0x7F800000 = (0, flagNone) ∧ rcpF fp32 rm 0x7F800000 = (0, flagNone) ∧ rcpF fp32 rm 0xFF800000 = (0x80000000, flagNone) ∧
    ex2F rm 0x7F800000 = (0x7F800000, flagNone) ∧ ex2F rm 0xFF800000 = (0, flagNone) ∧
    lg2F rm 0 = (0xFF800000, flagDZ) ∧ lg2F rm 0x80000000 = (0xFF800000, flagDZ) ∧ lg2F rm 0x7F800000 = (0x7F800000, flagNone) ∧
    (∀ b, trigF b rm 0x7F800000 = (0x7FC00000, flagIV) ∧ trigF b rm 0xFF800000 = (0x7FC00000, flagIV)) ∧
    tanhF rm 0 = (0, flagNone) ∧ tanhF rm 0x80000000 = (0x80000000, flagNone) ∧
    tanhF rm 0x7F800000 = (0x3F800000, flagNone) ∧ tanhF rm 0xFF800000 = (0xBF800000, flagNone)) ∧
  (∀ (rm : Rm) (a : Nat), a < 2 ^ 32 → 0x7F800000 < a % 2 ^ 31 → ∀ g ∈ [sqrtF fp32 rm, rcpF fp32 rm, rsqrtF fp32 rm, ex2F rm, lg2F rm, trigF true rm, trigF false rm, tanhF rm],
    g a = (0x7FC00000, flagIf (decide (a % 2 ^ 31 < 0x7FC00000)) flagIV)) ∧
  (∀ (rm : Rm) (a : Nat), 0x43000000 ≤ a → a < 0x7F800000 → ex2F rm a = roundExact fp32 rm false 1 400) ∧
  (∀ (rm : Rm) (a : Nat), 0xC3800000 ≤ a → a < 0xFF800000 → (ex2F rm a).2 = flagUF ||| flagNX ∧
    (ex2F rm a).1 = if rm = .rup then 1 else 0) ∧
  (∀ (rm : Rm) (a : Nat) (s : Bool) (m n : Nat) (e : Int), fp32.unpack a = .fin s m e → cmpDyadic m e n 0 = .eq → n < 256 →
    ex2F rm a = roundExact fp32 rm false 1 (if s then -(n : Int) else n)) ∧
  (∀ (rm : Rm) (a j : Nat) (e : Int), fp32.unpack a = .fin false (2 ^ j) e → (j : Int) + e ≠ 0 →
    lg2F rm a = roundExact fp32 rm (decide ((j : Int) + e < 0)) ((j : Int) + e).natAbs 0) ∧
  (∀ rm, lg2F rm 0x3F800000 = (0, flagNone)) ∧
  (∀ (rm : Rm) (a : Nat) (s : Bool) (m : Nat) (e : Int), fp32.unpack a = .fin s m e →
    (∀ n, cmpDyadic m e n 0 = .eq → trigF true rm a = (fp32.withSign s 0, flagNone) ∧
      trigF false rm a = (fp32.withSign (n % 2 == 1) 0x3F800000, flagNone)) ∧
    ∀ n, cmpDyadic m e (2 * n + 1) (-1) = .eq → trigF true rm a = (fp32.withSign (s != (n % 2 == 1)) 0x3F800000, flagNone) ∧
      trigF false rm a = (0, flagNone)) ∧
  (∀ (rm : Rm) (s : Bool) (v : Enc) (k : Int) (fn a : Nat) (r : Nat × Flags), 0 < v.lo → v.lo < v.hi →
    roundExact fp32 rm s (2 * v.lo + 1) (k - 385) = r → roundExact fp32 rm s (2 * v.hi - 1) (k - 385) = r → roundEnc rm s v k fn a = r) ∧
  ex2F .rne 0x3F000000 = (0x3FB504F3, flagNX) ∧ ex2F .rdn 0xBF000000 = (0x3F3504F3, flagNX) ∧ ex2F .rup 0xBF000000 = (0x3F3504F4, flagNX) ∧
  lg2F .rne 0x40400000 = (0x3FCAE00D, flagNX) ∧ lg2F .rtz 0x40400000 = (0x3FCAE00D, flagNX) ∧ lg2F .rne 0x3F400000 = (0xBED47FCC, flagNX) ∧
  trigF true .rne 0x3E800000 = (0x3F3504F3, flagNX) ∧ trigF true .rup 0x3E800000 = (0x3F3504F4, flagNX) ∧
  trigF true .rne 0xBFA00000 = (0x3F3504F3, flagNX) ∧ trigF false .rne 0x3E000000 = (0x3F6C835E, flagNX) ∧
  trigF false .rne 0x3F400000 = (0xBF3504F3, flagNX) ∧
  tanhF .rne 0x3F800000 = (0x3F42F7D6, flagNX) ∧ tanhF .rne 0xBF000000 = (0xBEEC9A9F, flagNX)

/-- R295, R296, R359 on the FP32 codes. -/
def Obligations.FloatSpecialValues : Prop :=
  let nan (a : Nat) : Prop := a < 2 ^ 32 ∧ 0x7F800000 < a % 2 ^ 31
  let snan (a : Nat) : Prop := nan a ∧ a / 2 ^ 22 % 2 = 0
  let fin (a : Nat) : Prop := a < 2 ^ 32 ∧ a % 2 ^ 31 < 0x7F800000
  (∀ (rm : Rm) (a b : Nat), a < 2 ^ 32 → b < 2 ^ 32 → nan a ∨ nan b →
    (addF fp32 rm a b).1 = 0x7FC00000 ∧ (subF fp32 rm a b).1 = 0x7FC00000 ∧ (mulF fp32 rm a b).1 = 0x7FC00000 ∧
    (divFV fp32 rm (fp32.unpack a) (fp32.unpack b)).1 = 0x7FC00000 ∧
    ∀ d, (fmaF fp32 rm false false a b d).1 = 0x7FC00000) ∧
  (∀ (rm : Rm) (a b : Nat), a < 2 ^ 32 → b < 2 ^ 32 → snan a ∨ snan b →
    (addF fp32 rm a b).2 = flagIV ∧ (mulF fp32 rm a b).2 = flagIV ∧ (minMaxF fp32 false a b).2 = flagIV) ∧
  (∀ rm, addF fp32 rm 0x7F800000 0xFF800000 = (0x7FC00000, flagIV) ∧ mulF fp32 rm 0 0x7F800000 = (0x7FC00000, flagIV) ∧
    ∀ d, (fmaF fp32 rm false false 0x7F800000 0 d) = (0x7FC00000, flagIV)) ∧
  (∀ (rm : Rm) (a : Nat), fin a → a % 2 ^ 31 ≠ 0 → subF fp32 rm a a = (if rm = .rdn then 0x80000000 else 0, flagNone)) ∧
  (∀ a b : Nat, nan a → ¬ nan b → b < 2 ^ 32 →
    (minMaxF fp32 false a b).1 = b ∧ (minMaxF fp32 true a b).1 = b ∧ (minMaxF fp32 false b a).1 = b ∧ (minMaxF fp32 true b a).1 = b) ∧
  (minMaxF fp32 false 0 0x80000000).1 = 0x80000000 ∧ (minMaxF fp32 false 0x80000000 0).1 = 0x80000000 ∧
  (minMaxF fp32 true 0 0x80000000).1 = 0 ∧ (minMaxF fp32 true 0x80000000 0).1 = 0 ∧
  (∀ a, nan a → (absF fp32 a).1 = 0x7FC00000 ∧ (negF fp32 a).1 = 0x7FC00000) ∧
  (∀ a, a < 2 ^ 32 → ¬ nan a → absF fp32 a = (a % 2 ^ 31, flagNone) ∧ negF fp32 a = ((a + 2 ^ 31) % 2 ^ 32, flagNone)) ∧
  ∀ a b, a < 2 ^ 32 → b < 2 ^ 32 → ¬ nan a → ¬ nan b →
    let key (c : Nat) : Int := if c < 2 ^ 31 then c else -((c : Int) - 2 ^ 31) - 1
    minMaxF fp32 false a b = (if key a ≤ key b then a else b, flagNone) ∧
    minMaxF fp32 true a b = (if key a ≤ key b then b else a, flagNone)

/-- R282, R291, R292, R294, R296, R297, R359, R361, R368, R369. -/
def Obligations.RoundingExact : Prop :=
  let formats : List Fmt := [fp64, fp32, fp16, fmtBF16, fmtE5M2, fmtE4M3]
  (∀ (rm : Rm) (a : Nat), a < 2 ^ 32 → a % 2 ^ 31 < 0x7F800000 → roundFV fp32 rm (fp32.unpack a) = (a, flagNone)) ∧
  (∀ (m : Nat) (e : Nat), 2 ^ 128 ≤ m * 2 ^ e →
    roundExact fp32 .rne false m e = (0x7F800000, flagOF ||| flagNX) ∧ roundExact fp32 .rne true m e = (0xFF800000, flagOF ||| flagNX) ∧
    roundExact fp32 .rtz false m e = (0x7F7FFFFF, flagOF ||| flagNX) ∧ roundExact fp32 .rtz true m e = (0xFF7FFFFF, flagOF ||| flagNX) ∧
    roundExact fp32 .rdn false m e = (0x7F7FFFFF, flagOF ||| flagNX) ∧ roundExact fp32 .rdn true m e = (0xFF800000, flagOF ||| flagNX) ∧
    roundExact fp32 .rup false m e = (0x7F800000, flagOF ||| flagNX) ∧ roundExact fp32 .rup true m e = (0xFF7FFFFF, flagOF ||| flagNX)) ∧
  (∀ f ∈ formats, ∀ (rm : Rm) (s : Bool) (m : Nat) (e : Int), m ≠ 0 → rounded f rm s (cmpDyadic m e) (roundExact f rm s m e)) ∧
  ∀ f ∈ formats, ∀ (rm : Rm) (a b : Nat) (s t : Bool) (m n : Nat) (e d : Int),
    f.unpack a = .fin s m e → f.unpack b = .fin t n d →
    let q := min e d
    let x : Int := (if s then -1 else 1) * (m * 2 ^ (e - q).toNat : Nat)
    let y : Int := (if t then -1 else 1) * (n * 2 ^ (d - q).toNat : Nat)
    let zero (same : Bool) : Nat × Flags := (f.withSign (if m = 0 ∧ same = true then s else rm == .rdn) 0, flagNone)
    (addF f rm a b = if x + y = 0 then zero (s == t) else roundExact f rm (decide (x + y < 0)) (x + y).natAbs q) ∧
    (subF f rm a b = if x - y = 0 then zero (s != t) else roundExact f rm (decide (x - y < 0)) (x - y).natAbs q) ∧
    (mulF f rm a b = if m * n = 0 then (f.withSign (s != t) 0, flagNone) else roundExact f rm (s != t) (m * n) (e + d)) ∧
    (m ≠ 0 → n ≠ 0 → rounded f rm (s != t) (fun p g => cmpDyadic m e (p * n) (g + d)) (divFV f rm (f.unpack a) (f.unpack b))) ∧
    (n ≠ 0 → m = 0 → divFV f rm (f.unpack a) (f.unpack b) = (f.withSign (s != t) 0, flagNone)) ∧
    (n = 0 → divFV f rm (f.unpack a) (f.unpack b) =
      if m = 0 then (f.nan, flagIV) else (f.withSign (s != t) f.top, flagDZ)) ∧
    ∀ (c : Nat) (np nd u : Bool) (o : Nat) (h : Int), f.unpack c = .fin u o h →
      let r := min (e + d) h
      let v : Int := (if (s != t) != np then -1 else 1) * (m * n * 2 ^ (e + d - r).toNat : Nat) +
        (if u != nd then -1 else 1) * (o * 2 ^ (h - r).toNat : Nat)
      fmaF f rm np nd a b c = if v = 0 then
          (f.withSign (if m * n = 0 ∧ ((s != t) != np) = (u != nd) then u != nd else rm == .rdn) 0, flagNone)
        else roundExact f rm (decide (v < 0)) v.natAbs r

/-- R359, R367 to R370. -/
def Obligations.FloatComparesDoublesPacked : Prop :=
  let bin (f : FmtR) : List Use := [srcU f.a, srcU f.b, dstU f.d]
  let tri (f : FmtR) : List Use := [rwU f.d, srcU f.a, srcU f.b]
  let pairs (f : FmtR) : List Use := [srcN f.a 2, srcN f.b 2, dstN f.d 2]
  let v (i : Iss) (l : Nat) (r : RegNo) : Nat := (i.rd l r).toNat
  let p (i : Iss) (l : Nat) (r : RegNo) : Nat := (i.rdN l r 0).toNat + 2 ^ 32 * (i.rdN l r 1).toNat
  let lo (i : Iss) (l : Nat) (r : RegNo) : Nat := (i.rd l r).toNat % 2 ^ 16
  let hi (i : Iss) (l : Nat) (r : RegNo) : Nat := (i.rd l r).toNat / 2 ^ 16
  let two (x y : Nat × Flags) : Nat × Flags := (x.1 + 2 ^ 16 * y.1, x.2 ||| y.2)
  (∀ f : FmtCF, completes (.fsetp f) f.e [srcU f.a, srcU f.b] fun _ i l k =>
    let r := compareF f.cond (fp32.unpack (v i l f.a)) (fp32.unpack (v i l f.b))
    let k1 := k.setPred f.pd r.1
    { k1 with fstat := k1.fstat ||| r.2 }) ∧
  (∀ f : FmtCF, completes (.dsetp f) f.e [srcN f.a 2, srcN f.b 2] fun _ i l k =>
    let r := compareF f.cond (fp64.unpack (p i l f.a)) (fp64.unpack (p i l f.b))
    let k1 := k.setPred f.pd r.1
    { k1 with fstat := k1.fstat ||| r.2 }) ∧
  (∀ f, completesD (.dadd f) f.e (pairs f) f.d fun i l => addF fp64 (i.rm l) (p i l f.a) (p i l f.b)) ∧
  (∀ f, completesD (.dmul f) f.e (pairs f) f.d fun i l => mulF fp64 (i.rm l) (p i l f.a) (p i l f.b)) ∧
  (∀ f : FmtR, completesD (.dfma f) f.e [{ r := f.d.toNat, n := 2, dst := true }, srcN f.a 2, srcN f.b 2] f.d fun i l =>
    fmaF fp64 (i.rm l) false false (p i l f.a) (p i l f.b) (p i l f.d)) ∧
  (∀ f, completesF (.hadd2 f) f.e (bin f) f.d fun i l =>
    two (addF fp16 (i.rm l) (lo i l f.a) (lo i l f.b)) (addF fp16 (i.rm l) (hi i l f.a) (hi i l f.b))) ∧
  (∀ f, completesF (.hmul2 f) f.e (bin f) f.d fun i l =>
    two (mulF fp16 (i.rm l) (lo i l f.a) (lo i l f.b)) (mulF fp16 (i.rm l) (hi i l f.a) (hi i l f.b))) ∧
  (∀ f, completesF (.hfma2 f) f.e (tri f) f.d fun i l =>
    two (fmaF fp16 (i.rm l) false false (lo i l f.a) (lo i l f.b) (lo i l f.d))
      (fmaF fp16 (i.rm l) false false (hi i l f.a) (hi i l f.b) (hi i l f.d))) ∧
  (∀ f, completesF (.badd2 f) f.e (bin f) f.d fun i l =>
    two (addF fmtBF16 (i.rm l) (lo i l f.a) (lo i l f.b)) (addF fmtBF16 (i.rm l) (hi i l f.a) (hi i l f.b))) ∧
  (∀ f, completesF (.bmul2 f) f.e (bin f) f.d fun i l =>
    two (mulF fmtBF16 (i.rm l) (lo i l f.a) (lo i l f.b)) (mulF fmtBF16 (i.rm l) (hi i l f.a) (hi i l f.b))) ∧
  (∀ f, completesF (.bfma2 f) f.e (tri f) f.d fun i l =>
    two (fmaF fmtBF16 (i.rm l) false false (lo i l f.a) (lo i l f.b) (lo i l f.d))
      (fmaF fmtBF16 (i.rm l) false false (hi i l f.a) (hi i l f.b) (hi i l f.d))) ∧
  (∀ f, completesF (.fdot2b f) f.e (tri f) f.d fun i l =>
    dot2F fmtBF16 (i.rm l) (lo i l f.a) (lo i l f.b) (hi i l f.a) (hi i l f.b) (v i l f.d)) ∧
  (∀ f, completesF (.fdot2h f) f.e (tri f) f.d fun i l =>
    dot2F fp16 (i.rm l) (lo i l f.a) (lo i l f.b) (hi i l f.a) (hi i l f.b) (v i l f.d)) ∧
  (∀ a b : Nat, a < 2 ^ 32 → b < 2 ^ 32 →
    let nan (c : Nat) : Prop := 0x7F800000 < c % 2 ^ 31
    let snan (c : Nat) : Prop := nan c ∧ c / 2 ^ 22 % 2 = 0
    let key (c : Nat) : Int := if c < 2 ^ 31 then c else -((c : Int) - 2 ^ 31)
    let un : Prop := nan a ∨ nan b
    let sn : Prop := snan a ∨ snan b
    ∀ c : FCond, compareF c (fp32.unpack a) (fp32.unpack b) = match c with
      | .eq => (decide (¬ un ∧ key a = key b), flagIf (decide sn) flagIV)
      | .ne => (decide (¬ un ∧ key a ≠ key b), flagIf (decide sn) flagIV)
      | .lt => (decide (¬ un ∧ key a < key b), flagIf (decide un) flagIV)
      | .le => (decide (¬ un ∧ key a ≤ key b), flagIf (decide un) flagIV)
      | .gt => (decide (¬ un ∧ key b < key a), flagIf (decide un) flagIV)
      | .ge => (decide (¬ un ∧ key b ≤ key a), flagIf (decide un) flagIV)
      | .eqn => (decide (un ∨ key a = key b), flagIf (decide sn) flagIV)
      | .nen => (decide (un ∨ key a ≠ key b), flagIf (decide sn) flagIV)
      | .ltn => (decide (un ∨ key a < key b), flagIf (decide sn) flagIV)
      | .len => (decide (un ∨ key a ≤ key b), flagIf (decide sn) flagIV)
      | .gtn => (decide (un ∨ key b < key a), flagIf (decide sn) flagIV)
      | .gen => (decide (un ∨ key b ≤ key a), flagIf (decide sn) flagIV)
      | .isnum => (decide (¬ un), flagIf (decide sn) flagIV)
      | .isnan => (decide un, flagIf (decide sn) flagIV)) ∧
  ∀ g ∈ [fp16, fmtBF16], ∀ (rm : Rm) (a0 b0 a1 b1 d : Nat) (s0 t0 s1 t1 u : Bool) (m0 n0 m1 n1 o : Nat) (e0 d0 e1 d1 h : Int),
    g.unpack a0 = .fin s0 m0 e0 → g.unpack b0 = .fin t0 n0 d0 → g.unpack a1 = .fin s1 m1 e1 → g.unpack b1 = .fin t1 n1 d1 →
    fp32.unpack d = .fin u o h →
    let q := min (e0 + d0) (min (e1 + d1) h)
    let v : Int := (if s0 != t0 then -1 else 1) * (m0 * n0 * 2 ^ (e0 + d0 - q).toNat : Nat) +
      (if s1 != t1 then -1 else 1) * (m1 * n1 * 2 ^ (e1 + d1 - q).toNat : Nat) + (if u then -1 else 1) * (o * 2 ^ (h - q).toNat : Nat)
    dot2F g rm a0 b0 a1 b1 d = if v = 0 then
        (fp32.withSign (if m0 * n0 = 0 ∧ m1 * n1 = 0 ∧ (s0 != t0) = u ∧ (s1 != t1) = u then u else rm == .rdn) 0, flagNone)
      else roundExact fp32 rm (decide (v < 0)) v.natAbs q

/-- R285 to R288, R298 to R302, R371 to R377. -/
def Obligations.Conversions : Prop :=
  let v (i : Iss) (l : Nat) (r : RegNo) : Nat := (i.rd l r).toNat
  let p (i : Iss) (l : Nat) (r : RegNo) : Nat := (i.rdN l r 0).toNat + 2 ^ 32 * (i.rdN l r 1).toNat
  let regs (g : F2Fmt) : Nat := if g = .f64 then 2 else 1
  let flags (k : Lane) (x : Flags) : Lane := { k with fstat := k.fstat ||| x }
  (∀ f : FmtMI, completesF (.i2f f) f.e [srcN f.a (if f.w64 then 2 else 1), dstU f.d] f.d fun i l =>
    let x : Int := if f.w64 then (if f.uns then (p i l f.a : Int) else (BitVec.ofNat 64 (p i l f.a)).toInt)
      else (if f.uns then (v i l f.a : Int) else (i.rd l f.a).toInt)
    i2F f.rm x) ∧
  (∀ f : FmtMI, completes (.f2i f) f.e [srcU f.a, dstN f.d (if f.w64 then 2 else 1)] fun _ i l k =>
    let lo : Int := if f.uns then 0 else if f.w64 then -(2 ^ 63) else -(2 ^ 31)
    let hi : Int := if f.w64 then (if f.uns then 2 ^ 64 - 1 else 2 ^ 63 - 1) else (if f.uns then 2 ^ 32 - 1 else 2 ^ 31 - 1)
    let r := f2I f.rm lo hi (v i l f.a)
    let k1 := k.setReg (i.row f.d.toNat) (BitVec.ofInt 32 r.1)
    flags (if f.w64 then k1.setReg (i.row f.d.toNat + 1) (BitVec.ofInt 32 (r.1 / 2 ^ 32)) else k1) r.2) ∧
  (∀ f : FmtMF, completes (.f2f f) f.e [srcN f.a (regs f.src), dstN f.d (regs f.dst)] fun _ i l k =>
    let x := match f.src with
      | .f64 => p i l f.a
      | .f32 => v i l f.a
      | _ => v i l f.a % 2 ^ 16
    let r := f2F f.src f.dst f.rm x
    let k1 := k.setReg (i.row f.d.toNat) (BitVec.ofNat 32 r.1)
    flags (if f.dst = .f64 then k1.setReg (i.row f.d.toNat + 1) (BitVec.ofNat 32 (r.1 / 2 ^ 32)) else k1) r.2) ∧
  (∀ f : FmtMS, completesF (.scl f) f.e [srcU f.a, dstU f.d] f.d fun i l => sclCode (slotElem (i.slot f.slot)) (v i l f.a)) ∧
  (∀ (f : FmtCvtw) (s : State) (i : Iss),
    readyFor s (.cvtw4 f) false (srcN f.a (packRegs (i.slot f.k)) :: scaleUse (i.slot f.k) f.b ++ [dstN f.d 4]) i →
    ∃ t, exec (.cvtw4 f) s = .next t ∧ moved s t i fun l k =>
      let w := 8 * (slotElem (i.slot f.k)).bytes
      let x := i.rdGroup l f.a (packRegs (i.slot f.k))
      let r (j : Nat) := widen (slotElem (i.slot f.k)) (i.scale l (i.slot f.k) f.b f.s) (x / 2 ^ (w * j) % 2 ^ w)
      let k1 := (((k.setReg (i.row f.d.toNat) (BitVec.ofNat 32 (r 0).1)).setReg (i.row f.d.toNat + 1) (BitVec.ofNat 32 (r 1).1)).setReg
        (i.row f.d.toNat + 2) (BitVec.ofNat 32 (r 2).1)).setReg (i.row f.d.toNat + 3) (BitVec.ofNat 32 (r 3).1)
      flags k1 ((r 0).2 ||| (r 1).2 ||| (r 2).2 ||| (r 3).2)) ∧
  (∀ (f : FmtCvtn) (s : State) (i : Iss),
    readyFor s (.cvtn4 f) false (srcN f.a 4 :: scaleUse (i.slot f.k) f.b ++ [dstN f.d (packRegs (i.slot f.k))]) i →
    (f.ovf = .trap → i.narrowTrap f (i.slot f.k) = none) →
    ∃ t, exec (.cvtn4 f) s = .next t ∧ moved s t i fun l k =>
      let xs := i.narrow4 l f (i.slot f.k) f.ovf
      flags (k.setGroup (i.row f.d.toNat) (packNarrow (8 * (slotElem (i.slot f.k)).bytes) xs) (packRegs (i.slot f.k)))
        (narrowFlags f.ovf xs)) ∧
  (∀ (f : FmtCvtn) (s : State) (i : Iss) (l j : Nat),
    readyFor s (.cvtn4 f) false (srcN f.a 4 :: scaleUse (i.slot f.k) f.b ++ [dstN f.d (packRegs (i.slot f.k))]) i →
    f.ovf = .trap → i.narrowTrap f (i.slot f.k) = some (l, j) →
    traps (.cvtn4 f) s i { cause := 0x08, info := BitVec.ofNat 32 (l + 32 * j), lane := l }) ∧
  (∀ rm, i2F rm 0 = (0, flagNone) ∧ ∀ x : Int, x ≠ 0 → rounded fp32 rm (decide (x < 0)) (cmpDyadic x.natAbs 0) (i2F rm x)) ∧
  (∀ (rm : Rm) (lo hi : Int) (a : Nat), a < 2 ^ 32 →
    (0x7F800000 < a % 2 ^ 31 → f2I rm lo hi a = (0, flagIV)) ∧
    f2I rm lo hi 0x7F800000 = (hi, flagIV) ∧ f2I rm lo hi 0xFF800000 = (lo, flagIV) ∧
    ∀ (s : Bool) (m k : Nat) (e : Int), fp32.unpack a = .fin s m e → lo ≤ 0 → 0 ≤ hi →
      cmpDyadic m e k 0 ≠ .lt → cmpDyadic m e (k + 1) 0 = .lt →
      let x : Int := (if s then -1 else 1) * (roundsToInt rm s (cmpDyadic m e) k : Nat)
      f2I rm lo hi a = if hi < x then (hi, flagIV) else if x < lo then (lo, flagIV) else (x, flagIf (cmpDyadic m e k 0 == .gt) flagNX)) ∧
  (∀ (src dst : F2Fmt) (rm : Rm) (a : Nat),
    (∀ g, (f2Fmt src).unpack a = .nan g → f2F src dst rm a = ((f2Fmt dst).nan, flagIf g flagIV)) ∧
    (∀ s, (f2Fmt src).unpack a = .inf s → f2F src dst rm a = ((f2Fmt dst).withSign s (f2Fmt dst).top, flagNone)) ∧
    ∀ (s : Bool) (m : Nat) (e : Int), (f2Fmt src).unpack a = .fin s m e →
      (m = 0 → f2F src dst rm a = ((f2Fmt dst).withSign s 0, flagNone)) ∧
      (m ≠ 0 → rounded (f2Fmt dst) rm s (cmpDyadic m e) (f2F src dst rm a))) ∧
  (∀ (el : Elem) (a : Nat), a < 2 ^ 32 →
    (0x7F800000 < a % 2 ^ 31 → sclCode el a = (0xFF, flagIV)) ∧ (a % 2 ^ 31 = 0x7F800000 → sclCode el a = (0xFE, flagIV)) ∧
    ∀ (s : Bool) (m n : Nat) (e d : Int), fp32.unpack a = .fin s m e → el.maxFin = .fin false n d →
      let fits (c : Nat) : Prop := cmpDyadic m e (n * (4 + c % 4)) (d + ((c / 4 : Nat) : Int) - 34) ≠ .gt
      (¬ fits 0xFE → sclCode el a = (0xFE, flagIV)) ∧
      (fits 0xFE → ∃ c, sclCode el a = (c, flagNone) ∧ 1 ≤ c ∧ c ≤ 0xFE ∧ fits c ∧ ∀ x, 1 ≤ x → x < c → ¬ fits x)) ∧
  (∀ c, 1 ≤ c → c < 0xFF → sb8 c = .fin false (4 + c % 4) (((c / 4 : Nat) : Int) - 34)) ∧ sb8 0 = .fin false 0 0 ∧ sb8 0xFF = .nan false ∧
  (∀ (el : Elem) (sv : FV) (w : Nat),
    (∀ g, el.value w = .nan g → sv.isNan = false → widen el sv w = (0x7FC00000, flagIf g flagIV)) ∧
    (sv = .nan false → widen el sv w = (0x7FC00000, flagIV)) ∧
    ∀ (s : Bool) (m n : Nat) (e d : Int), el.value w = .fin s m e → sv = .fin false n d →
      (m * n = 0 → widen el sv w = (fp32.withSign s 0, flagNone)) ∧
      (m * n ≠ 0 → rounded fp32 .rne s (cmpDyadic (m * n) (e + d)) (widen el sv w))) ∧
  (∀ (el : Elem) (sv : FV) (ovf : Ovf) (x : Nat) (s : Bool) (m n : Nat) (e d : Int),
    sv = .fin false n d → n ≠ 0 → fp32.unpack x = .fin s m e →
    let y (p : Nat) (g : Int) : Ordering := cmpDyadic m e (p * n) (g + d)
    (∀ f, el.fmt = some f → (m = 0 → narrow el sv ovf x = ⟨f.withSign s 0, flagNone, false⟩) ∧
      (m ≠ 0 → ∃ r : Nat × Flags, rounded f .rne s y r ∧
        narrow el sv ovf x = if r.2 &&& flagOF = flagOF then narrowOverflow el s ovf else ⟨r.1, r.2, false⟩)) ∧
    (el = .int8 ∨ el = .uint8 → ∀ k, y k 0 ≠ .lt → y (k + 1) 0 = .lt →
      let v : Int := (if s then -1 else 1) * (roundsToInt .rne s y k : Nat)
      narrow el sv ovf x = if v < (if el = .int8 then -127 else 0) ∨ (if el = .int8 then 127 else 255) < v then narrowOverflow el s ovf
        else ⟨(v % 256).toNat, flagIf (y k 0 == .gt) flagNX, false⟩) ∧
    (el = .p2p8 → (y 2 0 = .gt → narrow el sv ovf x = narrowOverflow el s ovf) ∧
      (y 2 0 ≠ .gt → ∃ c ∈ p2Codes,
        let num : Int := (if s then -1 else 1) * (m * 2 ^ (e + 6 - d).toNat : Nat)
        let den : Int := (n * 2 ^ (d - e - 6).toNat : Nat)
        narrow el sv ovf x = ⟨c, flagIf (decide (num ≠ p2Val c * den)) flagNX, false⟩ ∧
        ∀ b ∈ p2Codes, (num - p2Val c * den).natAbs ≤ (num - p2Val b * den).natAbs ∧
          ((num - p2Val c * den).natAbs = (num - p2Val b * den).natAbs → (p2Val c).natAbs ≤ (p2Val b).natAbs)))) ∧
  (∀ (el : Elem) (sv : FV) (ovf : Ovf) (x : Nat), x < 2 ^ 32 →
    (sv = .nan false ∨ (∃ d, sv = .fin false 0 d) ∨ 0x7F800000 < x % 2 ^ 31) →
    narrow el sv ovf x = ⟨(match el.fmt with
        | some f => f.nan
        | none => if el = .p2p8 then 0x77 else 0),
      flagIf (sv.isNan || (match sv with | .fin _ 0 _ => true | _ => false) || (decide (0x7F800000 < x % 2 ^ 31) && x / 2 ^ 22 % 2 == 0) || el.fmt.isNone) flagIV, false⟩) ∧
  ∀ (el : Elem) (s : Bool) (ovf : Ovf), narrowOverflow el s ovf = match el.fmt with
    | some f => ⟨(match ovf with
        | .inf => if el = .e4m3 then 0x7F else f.withSign s f.top
        | .nan => f.nan
        | _ => f.withSign s f.maxCode), flagOF ||| flagNX, true⟩
    | none => ⟨(match el with
        | .p2p8 => if s then 0x88 else 0
        | .int8 => if s then 0x80 else 0x7F
        | _ => if s then 0 else 0xFF), flagIV, true⟩

/-- R32, R116, R311, R380 to R386; when the checker's read returns later is a fact of the check (log 8). -/
def Obligations.Loads : Prop :=
  (∀ f : FmtMem, loads (.ld f) f.e [srcN f.a 2, dstN f.d (szRegs f.sz)] (szBytes f.sz) (szSigned f.sz) f.d f.ord f.scp
    fun s i => genericReach s i .read f.a (szBytes f.sz) f.ch) ∧
  (∀ f : FmtMemL, loads (.lds f) f.e [srcU f.a, dstN f.d (szRegs f.sz)] (szBytes f.sz) (szSigned f.sz) f.d f.ord f.scp
    fun s i => scratchReach s i f.a (szBytes f.sz)) ∧
  (∀ f : FmtMemL, loads (.ldl f) f.e [srcN f.a 2, dstN f.d (szRegs f.sz)] (szBytes f.sz) (szSigned f.sz) f.d f.ord f.scp
    fun s i => privateReach s i f.a (szBytes f.sz)) ∧
  (∀ (f : FmtLdp) (s : State) (i : Iss), readyFor s (.ldp f) f.e [srcN f.a 2, dstN f.d (szRegs f.sz)] i →
    let n := szBytes f.sz
    let o (l : Nat) : Nat := ((i.rd64 l f.a).toNat + s.off) % 2 ^ 64
    let fits (l : Nat) : Prop := o l % n = 0 ∧ o l + n ≤ i.grid.record.paramBytes
    (∀ l ∈ i.act, ¬ fits l → (∀ j ∈ i.act, j < l → fits j) →
      traps (.ldp f) s i { cause := if o l % n = 0 then 0x04 else 0x02, info := BitVec.ofNat 32 l, addr := o l, lane := l }) ∧
    let value (l : Nat) : Nat := if o l % n = 0 ∧ o l + n ≤ i.grid.record.paramBytes then
      extend n (szSigned f.sz) (fieldAt i.grid.params (o l) n) else 0
    ((∀ l ∈ i.act, fits l) → s.env.slow = false → ∃ t, exec (.ldp f) s = .next t ∧ moved s t i fun l k =>
      k.setWords (i.row f.d.toNat) (value l) (szRegs f.sz)) ∧
    ((∀ l ∈ i.act, fits l) → s.env.slow = true → ∃ t, exec (.ldp f) s = .next t ∧
      lanesBecome { s with nextKey := s.nextKey + 1, pend := s.pend ++
          [{ key := s.nextKey, team := i.team.key, warp := i.warp.id, bytes := n, signed := szSigned f.sz, atomic := false
             tick := s.tick, lanes := i.active.map fun l => { lane := l, row := i.row f.d.toNat, val := some (value l) } }] } t i
        (laneAfter i s.len fun _ k => k.emptyRows (i.row f.d.toNat) (.access s.nextKey) (szRegs f.sz)))) ∧
  (∀ v, v < 256 → extend 1 false v = v ∧ extend 1 true v = if v < 128 then v else v + 0xFFFFFF00) ∧
  (∀ v, v < 65536 → extend 2 false v = v ∧ extend 2 true v = if v < 32768 then v else v + 0xFFFF0000) ∧
  ∀ n v, 4 ≤ n → extend n false v = v

/-- R214, R257, R274, R380, R381, R383 to R385; an entry for each hypothesis tag and each team of the hall is the model's reading
of R214 (log 74). -/
def Obligations.Stores : Prop :=
  (∀ f : FmtMem, stores (.st f) f.e [srcN f.a 2, srcN f.d (szRegs f.sz)] (szBytes f.sz) f.d f.ord f.scp
    fun s i => genericReach s i .write f.a (szBytes f.sz) f.ch) ∧
  (∀ f : FmtMemL, stores (.sts f) f.e [srcU f.a, srcN f.d (szRegs f.sz)] (szBytes f.sz) f.d f.ord f.scp
    fun s i => scratchReach s i f.a (szBytes f.sz)) ∧
  ∀ f : FmtMemL, stores (.stl f) f.e [srcN f.a 2, srcN f.d (szRegs f.sz)] (szBytes f.sz) f.d f.ord f.scp
    fun s i => privateReach s i f.a (szBytes f.sz)

/-- R240 to R243, R380, R384, R385, R387 to R391, R260; helper lanes of GPRIV whose result is unstated hold free values (log 7).
Where private memory lies (2^56 + 2^26 times the team's key) is the model's choice (log 3), and that nonzero upper bits are PROT
before any other end test of a copy is its reading (log 19). -/
def Obligations.AddressTestsAndQueries : Prop :=
  (∀ (s : State) (i : Iss) (k : Kind) (l n : Nat) (hint : Bool) (a : Nat), a / 2 ^ 57 ≠ 0 →
    s.generic i k l n hint a = .trap 0x04 ∧ s.endTest i a n = .prot) ∧
  (∀ (s : State) (i : Iss) (k : Kind) (l n : Nat) (hint : Bool) (off : Nat), n ∈ [1, 2, 4, 8, 16] → off < 0x80000 →
    s.generic i k l n hint (0x01F0000000000000 + off) =
      if off % n ≠ 0 then .trap 0x02 else if i.grid.record.scratchBytes < off + n then .trap 0x05
      else if hint then .trap 0x01 else .own off) ∧
  (∀ (s : State) (i : Iss) (k : Kind) (l n : Nat) (hint : Bool) (off : Nat), n ∈ [1, 2, 4, 8, 16] → off < 0x10000 →
    s.generic i k l n hint (0x01F8000000000000 + off) =
      if off % n ≠ 0 then .trap 0x02
      else if i.movement = true ∨ i.grid.record.privateBytes < off + n then .trap 0x04
      else if hint then .trap 0x01
      else .phys { loc := 2 ^ 56 + i.team.key * 2 ^ 26 + (i.warp.id * 32 + l) * i.grid.record.privateBytes + off }) ∧
  (∀ (s : State) (i : Iss) (k : Kind) (l n o : Nat), n ∈ [1, 2, 4, 8, 16] →
    s.privateAt i l n o = if o < 0x10000 then s.generic i k l n false (0x01F8000000000000 + o) else .trap 0x04) ∧
  (∀ (s : State) (i : Iss) (n o : Nat), n ∈ [1, 2, 4, 8, 16] → o < 2 ^ 22 →
    s.scratchAt i n o = if o % n ≠ 0 then .trap 0x02 else if i.grid.record.scratchBytes < o + n then .trap 0x05 else .own o) ∧
  (∀ f : FmtR1, completes (.ispace f) f.e [srcN f.a 2, dstU f.d] fun _ i l k =>
    let a := (i.rd64 l f.a).toNat
    k.setReg (i.row f.d.toNat)
      (if a < 0x01F0000000000000 then 0
      else if a / 2 ^ 19 = 0x01F0000000000000 / 2 ^ 19 then 1
      else if a / 2 ^ 22 = 0x01F1000000000000 / 2 ^ 22 ∧ a / 2 ^ 19 % 2 = 0 then 2
      else if a / 2 ^ 48 = 0x01F4 then 3
      else if a / 2 ^ 16 = 0x01F800000000 then 4 else 5)) ∧
  (∀ (f : FmtR1) (s : State) (i : Iss), readyFor s (.gpriv f) f.e [srcN f.a 2, dstN f.d 2] i →
    let a (l : Nat) : Nat := (i.rd64 l f.a).toNat
    let window (l : Nat) : Prop := 0x01F8000000000000 ≤ a l ∧ a l < 0x01F8000000010000
    let off (l : Nat) : Nat := a l - 0x01F8000000000000
    (∀ l ∈ i.act, window l → i.grid.record.privateBytes ≤ off l →
      (∀ j ∈ i.act, j < l → window j → off j < i.grid.record.privateBytes) →
      traps (.gpriv f) s i { cause := 0x04, info := BitVec.ofNat 32 l, addr := a l, lane := l }) ∧
    ((∀ l ∈ i.act, window l → off l < i.grid.record.privateBytes) →
      ∃ (t : State) (v : Nat → Nat), exec (.gpriv f) s = .next t ∧
        lanesBecome (s.takeNonces 64) t i (laneAfter i s.len fun l k => k.setPair64 (i.row f.d.toNat) (v l)) ∧
        ∀ l, (window l → off l < i.grid.record.privateBytes →
            v l = 0x01F4000000000000 + i.team.slot * 2 ^ 26 + (i.warp.id * 32 + l) * i.grid.record.privateBytes + off l) ∧
          (¬ window l → v l = a l))) ∧
  (∀ (f : FmtCP) (s : State) (i : Iss), readyFor s (.spres f) f.e [srcU f.a] i →
    let r : Reach := { addr := fun l => (i.rd l f.a).toNat, ans := fun l => s.scratchAt i 1 (i.rd l f.a).toNat }
    (∀ t, i.reachTrap r = some t → traps (.spres f) s i t) ∧
    (i.reachTrap r = none → ∃ (t : State) (p : Nat → Bool), exec (.spres f) s = .next t ∧
      lanesBecome (s.takeNonces 32) t i (laneAfter i s.len fun l k => k.setPred f.pd (p l)) ∧
      ∀ l, (∀ o, r.ans l = .own o → p l = !i.team.absent.any fun x => x.1 == o / 128) ∧
        ∀ key o u, r.ans l = .hall key o → s.team? key = some u → p l = !u.absent.any fun x => x.1 == o / 128)) ∧
  (∀ f : FmtPrf, completes (.prf f) false [{ r := f.a.toNat, n := 2, src := false }] fun _ _ _ k => k) ∧
  (∀ (f : FmtFence) (s : State) (i : Iss), readyFor s (.fence f) false [] i →
    let acq : Prop := f.ord = .acq ∨ f.ord = .acqrel
    let rel : Prop := f.ord = .rel ∨ f.ord = .acqrel
    let mark (l : Nat) (k : Lane) : Lane :=
      if l ∈ i.act then { k with relF := k.relF || decide rel, fence := if acq then s.loadsOut i l ++ k.fence else k.fence } else k
    (f.ord = .rlx ∨ i.scope f.scp = .core → ∃ t, exec (.fence f) s = .next t ∧
      lanesBecome (s.countClamp i f.ord f.scp) t i (laneAfter i s.len mark)) ∧
    (f.ord ≠ .rlx → i.scope f.scp ≠ .core → s.holdRoom i.core 1 = true → ∃ t, exec (.fence f) s = .next t ∧
      lanesBecome ((s.takeKey.pushHold i [.fence s.nextKey (decide rel) (i.scope f.scp)]).countClamp i f.ord f.scp)
        t i (laneAfter i s.len fun l k =>
          if f.ord = .acqrel ∧ l ∈ i.act then { mark l k with fence := s.nextKey :: (mark l k).fence } else mark l k))) ∧
  (∀ (f : FmtCctl) (ins : Instr) (s : State) (i : Iss), ins = .cctlClean f ∨ ins = .cctlInval f →
    readyFor s ins false [srcN f.a 2] i → s.holdRoom i.core 1 = true → ∃ t, exec ins s = .next t ∧
      lanesBecome (s.pushHold i [.cctl (some (s.cctlLines i f.a))]) t i (laneAfter i s.len fun _ k => k)) ∧
  ∀ (f : FmtCctlAll) (s : State) (i : Iss), readyFor s (.cctlCleanAll f) false [] i → s.holdRoom i.core 1 = true →
    ∃ t, exec (.cctlCleanAll f) s = .next t ∧ lanesBecome (s.pushHold i [.cctl none]) t i (laneAfter i s.len fun _ k => k)

/-- R254, R267, R392 to R395. -/
def Obligations.Atomics : Prop :=
  (∀ f : FmtAt, atomics (.atom f) f true [srcN f.a 2, atUse f true] fun s i =>
    genericReach s i .atomic f.a (if f.w64 then 8 else 4) .def_) ∧
  (∀ f : FmtAt, atomics (.red f) f false [srcN f.a 2, atUse f false] fun s i =>
    genericReach s i .atomic f.a (if f.w64 then 8 else 4) .def_) ∧
  (∀ f : FmtAt, atomics (.atoms f) f true [srcU f.a, atUse f true] fun s i => scratchReach s i f.a (if f.w64 then 8 else 4)) ∧
  (∀ (s : State) (ctx : Nat) (aop : Aop) (n : Nat) (ps : List AtomLane),
    (∀ p ∈ ps, p.tag = 0 ∧ p.drop = false ∧ p.loc + n ≤ 2 ^ 48 ∧ p.loc < 2 ^ 48) →
    { (s.atomAll ctx aop n ps).1 with resv := s.resv } = { s with mem := (scratchGroups aop n ps s.mem).2 } ∧
    (s.atomAll ctx aop n ps).2 = (scratchGroups aop n ps s.mem).1) ∧
  (∀ (aop : Aop) (n : Nat) (ps : List AtomLane) (m : List Host.Cell),
    scratchGroups aop n ps m = scratchAtoms aop n (atomGroups ps).flatten m ∧
    (atomGroups ps).flatten.Perm ps ∧ (∀ g ∈ atomGroups ps, g.Sublist ps ∧ ∀ p ∈ g, ∀ q ∈ g, p.loc = q.loc ∧ p.group = q.group) ∧
    (atomGroups ps).Pairwise fun g h => ∀ p ∈ g, ∀ q ∈ h, ¬ (p.loc = q.loc ∧ p.group = q.group)) ∧
  (∀ (s : State) (i : Iss) (f : FmtAt) (l loc : Nat), (s.atomLane i f l loc).group = (i.warp.lane l).hcur.toNat) ∧
  (∀ (aop : Aop) (n : Nat) (p : AtomLane) (ps : List AtomLane) (m : List Host.Cell),
    let c := leNum (memBytes m p.loc n)
    let m1 := ssetAll (0 : Byte) m (layAt p.loc (leList n (atomNew aop n c p.x p.cmp)))
    scratchAtoms aop n (p :: ps) m = ((p.lane, c) :: (scratchAtoms aop n ps m1).1, (scratchAtoms aop n ps m1).2)) ∧
  (∀ n c x cmp, n = 4 ∨ n = 8 → c < 2 ^ (8 * n) → x < 2 ^ (8 * n) →
    let b (v : Nat) : BitVec (8 * n) := BitVec.ofNat _ v
    atomNew .add n c x cmp = (b c + b x).toNat ∧ atomNew .xchg n c x cmp = x ∧
    atomNew .min n c x cmp = (if (b x).slt (b c) then x else c) ∧ atomNew .max n c x cmp = (if (b c).slt (b x) then x else c) ∧
    atomNew .minu n c x cmp = min c x ∧ atomNew .maxu n c x cmp = max c x ∧
    atomNew .and n c x cmp = (b c &&& b x).toNat ∧ atomNew .or n c x cmp = (b c ||| b x).toNat ∧
    atomNew .xor n c x cmp = (b c ^^^ b x).toNat ∧ atomNew .cas n c x cmp = (if c = cmp then x else c)) ∧
  atomNew .fadd 4 0x4B800000 0x3F800000 0 = 0x4B800000 ∧ atomNew .fadd 4 0x4B800000 0xCB800000 0 = 0

/-- R254, R255, R256, R272. -/
def Obligations.StoreVisibility : Prop :=
  (∀ (s : State) (i : Iss) (ctx tag loc : Nat) (cells : List (Nat × Byte)) (rel : Option Scope) (path : List Nat),
    let t := s.pushHold i [.store ctx tag cells rel]
    t.threadByte (t.core i.core) ctx loc (tag :: path) = (lastAt cells loc).getD (s.threadByte (s.core i.core) ctx loc (tag :: path)) ∧
    (∀ c, (∀ u ∈ path, sameTag ctx tag c u = false) →
      t.threadByte (t.core i.core) c loc path = s.threadByte (s.core i.core) c loc path) ∧
    ∀ n c, n ≠ i.core → t.threadByte (t.core n) c loc path = s.threadByte (s.core n) c loc path) ∧
  ∀ (s : State) (n : Nat), (∀ d ∈ (s.core n).dirty, isPeer d.loc = false) →
    (s.core n).dirty.Pairwise (fun d e => d.loc ≠ e.loc ∨ sameTag d.ctx d.tag e.ctx e.tag = false) →
    ((s.publishAll n).core n).dirty = [] ∧
    (∀ d ∈ (s.core n).dirty, d.tag = 0 → memByte (s.publishAll n).mem d.loc = d.val) ∧
    (∀ a, (∀ k ∈ s.cores, ∀ d ∈ k.dirty, d.tag = 0 → d.loc ≠ a) → memByte (s.publishAll n).mem a = memByte s.mem a) ∧
    (∀ d ∈ (s.core n).dirty, ∀ path,
      (s.publishAll n).threadByte ((s.publishAll n).core n) d.ctx d.loc (d.tag :: path) =
        s.threadByte (s.core n) d.ctx d.loc (d.tag :: path)) ∧
    ((∀ k ∈ s.cores, k.num ≠ n → k.dirty = []) → ∀ ctx loc path,
      (s.publishAll n).threadByte ((s.publishAll n).core n) ctx loc (path ++ [0]) =
        s.threadByte (s.core n) ctx loc (path ++ [0]))

/-- R396 to R400, R402; which free id a core draws is open (log 7), and so is when the directory takes an id back (log 67). -/
def Obligations.Hypotheses : Prop :=
  (∀ (f : FmtR1) (s : State) (i : Iss), readyFor s (.hopen f) f.e [srcU f.a, dstU f.d] i →
    let r := openAll i f s.nonce i.act (s.ctx i.team.ctx)
    ∃ t, exec (.hopen f) s = .next t ∧
      lanesBecome (({ s.updCtx i.team.ctx fun _ => r.1 with nonce := s.nonce + 8 * i.act.length }).pushHold i
          (r.2.1.map fun h => .node i.team.ctx h)) t i
        (laneAfter i s.len fun l k => if i.act.contains l then
          k.setReg (i.row f.d.toNat) (BitVec.ofNat 32 (oldOf r.2.2 l)) else k)) ∧
  (∀ (c : Ctx) (core nonce hcur sel : Nat),
    let parent := if sel / 256 % 2 = 1 then 0 else if sel % 256 = 0 then hcur else sel % 256
    let live := (c.seenBy core).stateOf parent = .open_ ∨ parent = 0
    (¬ live → openOne c core nonce hcur sel = (c, none, 0x30000000)) ∧
    (live → c.depthOf parent = 15 → openOne c core nonce hcur sel = (c, none, 0x20000000)) ∧
    (live → c.depthOf parent ≠ 15 → c.idsOf core = [] → c.pool = [] → c.reserved = [] →
      openOne c core nonce hcur sel = (c, none, 0x10000000)) ∧
    (live → c.depthOf parent ≠ 15 → (c.idsOf core ≠ [] ∨ c.pool ≠ [] ∨ c.reserved ≠ []) →
      ∃ c1 h, openOne c core nonce hcur sel = (c1, some h, (c.depthOf parent + 1) * 256 + h) ∧
        (c.idsOf core ≠ [] → h ∈ c.idsOf core ∧ ∀ x ∈ c.idsOf core, h ≤ x) ∧ 
        (c.idsOf core = [] → c.pool ≠ [] → h ∈ c.pool) ∧ (c.idsOf core = [] → c.pool = [] → ∃ o, (o, h) ∈ c.reserved) ∧
        (∀ x, x ≠ h → c1.node? x = c.node? x) ∧
        c1.nodes = c.nodes ++ [{ id := h, st := .open_, parent := parent, depth := c.depthOf parent + 1, atDir := false, core := core }] ∧
        (core, h) ∉ c1.reserved)) ∧
  (∀ (f : FmtSrc) (s : State) (i : Iss), readyFor s (.hset f) f.e [srcU f.a] i →
    let c := (s.ctx i.team.ctx).seenBy i.core
    let id (l : Nat) : Nat := (i.rd l f.a).toNat % 256
    let lost (l : Nat) : Prop := c.stateOf (id l) = .free ∨ c.stateOf (id l) = .refuted
    (∀ l ∈ i.act, lost l → (∀ j ∈ i.act, j < l → ¬ lost j) →
      exec (.hset f) s = .next (takeTrap s i
        { cause := 0x09, info := BitVec.ofNat 32 (id l + 256 * (c.stateOf (id l)).code), lane := l }
        (s.words (.hset f)).1 (s.words (.hset f)).2 [l])) ∧
    ((∀ l ∈ i.act, ¬ lost l) → ∃ t, exec (.hset f) s = .next t ∧
      lanesBecome s { t with ctxs := s.ctxs } i (laneAfter i s.len fun l k => if i.act.contains l then { k with hcur := BitVec.ofNat 8 (id l) } else k) ∧
      (∀ n, n ≠ i.team.ctx → t.ctx n = s.ctx n) ∧
      let old := (s.ctx i.team.ctx).nodes
      let new := (t.ctx i.team.ctx).nodes
      { t.ctx i.team.ctx with nodes := old } = s.ctx i.team.ctx ∧
      (∀ x ∈ old, (∃ y ∈ new, y.id = x.id) ↔ ¬ ∃ z ∈ old, z.id = x.id ∧ z.resolved = true ∧ t.holds i.team.ctx z.id = false) ∧
      ∀ y ∈ new, ∃ x ∈ old, y.id = x.id ∧ y.depth = x.depth ∧ y.core = x.core ∧ y.atDir = x.atDir ∧
        ((∀ z ∈ old, z.id = x.parent → ∃ u ∈ new, u.id = z.id) → y.parent = x.parent ∧ y.st = x.st ∧ y.fate = x.fate))) ∧
  (∀ f : FmtDst, completes (.hget f) f.e [dstU f.d] fun _ i _ k => k.setReg (i.row f.d.toNat) (k.hcur.zeroExtend 32)) ∧
  (∀ (f : FmtR1) (confirm : Bool) (s : State) (i : Iss),
    let ins : Instr := if confirm then .hconf f else .href f
    readyFor s ins f.e [srcU f.a, dstU f.d] i → s.holdRoom i.core i.act.length = true →
    let n := (s.ctx i.team.ctx).resolves
    let rs : List Resolve := i.act.zipIdx.map fun p =>
      { key := s.nextKey + p.2, ctx := i.team.ctx, id := (i.rd p.1 f.a).toNat % 256, confirm := confirm, team := i.team.key
        warp := i.warp.id, lane := p.1, row := i.row f.d.toNat, serial := (n + p.2) % 2 ^ 24 }
    let ops := rs.foldl (fun ops r => pushOp ops { id := 0x6000000 + r.serial, warp := r.warp, lane := r.lane, row := r.row }) i.team.ops
    let s1 := s.updCtx i.team.ctx fun c => { c with resolves := c.resolves + rs.length }
    ∃ t, exec ins s = .next t ∧
      lanesBecomeAs (({ s1 with nextKey := s.nextKey + rs.length }).pushHold i (rs.map .resolve)) t i { i.team with ops := ops }
        (laneAfter i s.len fun l k => match rs.find? fun r => r.lane == l with
          | some r => k.setEmpty (i.row f.d.toNat) (.engine (0x6000000 + r.serial))
          | none => k)) ∧
  ∀ f : FmtR1, completes (.hstat f) f.e [srcU f.a, dstU f.d] fun s i l k =>
    let c := (s.ctx i.team.ctx).seenBy i.core
    let h := (i.rd l f.a).toNat % 256
    let code : Nat := match c.stateOf h with
      | .free => 0
      | .open_ => 1
      | .resolving => 2
      | .merged => 3
      | .refuted => 4
    k.setReg (i.row f.d.toNat) (BitVec.ofNat 32 (code + 256 * c.parentOf h + 65536 * c.depthOf h))

/-- R406, R407. -/
def Obligations.Masks : Prop :=
  let put (i : Iss) (m : BitVec 4) (v : Word) : List Word := updAt i.warp.masks m.toNat fun _ => v
  let changes (ins : Instr) (e : Bool) (us : List Use) (m : BitVec 4) (v : Iss → Word) : Prop :=
    ∀ (s : State) (i : Iss), readyFor s ins e us i → i.warp.colls = [] → i.team.barsQuiet →
      i.warp.roundsOpen i.warp.mask (fun n => n ≠ m.toNat) → m.toNat < i.warp.masks.length → m.toNat < 12 →
      let done := i.warp.arrived m.toNat != 0 && (v i &&& ~~~i.warp.arrived m.toNat) == 0
      ∃ t, exec ins s = .next t ∧
        masksBecome s t i (put i m (v i)) (if done then updAt i.warp.mwait m.toNat fun _ => 0 else i.warp.mwait)
          fun l k => if done && k.wait == .mwait m.toNat then k.past else laneAfter i s.len (fun _ k => k) l k
  (∀ f : FmtQm, changes (.mjoin f) f.e [] f.m fun i => i.warp.mask f.m.toNat ||| maskOf i.act) ∧
  (∀ f : FmtQm, changes (.mleave f) f.e [] f.m fun i => i.warp.mask f.m.toNat &&& ~~~maskOf i.act) ∧
  (∀ f : FmtQm, changes (.mact f) f.e [] f.m fun i => maskOf i.act) ∧
  (∀ f : FmtQa, changes (.mst f) f.e [srcU f.a] f.m fun i => i.rd i.lead f.a &&& maskOf i.warp.live) ∧
  (∀ f : FmtQd, completes (.mld f) f.e [dstU f.d] fun _ i _ k => k.setReg (i.row f.d.toNat) (i.warp.mask f.m.toNat)) ∧
  (∀ (ls : List Nat) (l : Nat), l < 32 → ((maskOf ls).getLsbD l = true ↔ l ∈ ls)) ∧
  ∀ (f : FmtQm) (s : State) (i : Iss), readyFor s (.mwait f) f.e [] i → i.warp.colls = [] → i.team.barsQuiet →
    i.warp.roundsOpen i.warp.mask (fun n => n ≠ f.m.toNat) → f.m.toNat < i.warp.mwait.length → f.m.toNat < 12 →
    let m := i.warp.mask f.m.toNat
    let member (l : Nat) : Bool := i.act.contains l && m.getLsbD l
    let arrived := i.warp.arrived f.m.toNat ||| maskOf (i.act.filter member)
    (arrived = 0 ∨ m &&& ~~~arrived ≠ 0 → ∃ t, exec (.mwait f) s = .next t ∧
      masksBecome s t i i.warp.masks (updAt i.warp.mwait f.m.toNat fun _ => arrived) fun l k =>
        if member l then { k with wait := .mwait f.m.toNat } else if i.entry.contains l then k.step s.len else k) ∧
    (arrived ≠ 0 → m &&& ~~~arrived = 0 → ∃ t, exec (.mwait f) s = .next t ∧
      masksBecome s t i i.warp.masks (updAt i.warp.mwait f.m.toNat fun _ => 0) fun l k =>
        if member l || k.wait == .mwait f.m.toNat then k.past else if i.entry.contains l then k.step s.len else k)

/-- R405, R408 to R414; a lane taken out of the mask while it waited writes what a non-member writes (log 68). -/
def Obligations.Collectives : Prop :=
  let own (w : Word) : Word := w
  let source (at_ : Nat → Nat) (val : Nat → Option Word) (a : Arrival) : Word := (val (at_ a.lane)).getD a.a
  let votes (val : Nat → Option Word) : List Nat := (List.range 32).filter fun j => match val j with
    | some v => v != 0
    | none => false
  let input (op : RedOp) (val : Nat → Option Word) (j : Nat) : Word := (val j).getD (redIdentity op)
  let qswp (f : FmtQswp) := source fun l => l ^^^ (match f.dir with
    | .horizontal => 1
    | .vertical => 2
    | .diagonal => 3)
  let qbc (f : FmtQbc) := source fun l => l / 4 * 4 + f.n.toNat
  let wshfl (val : Nat → Option Word) (a : Arrival) : Word := (val (a.d.toNat % 32)).getD a.a
  let wvote (f : FmtVote) (val : Nat → Option Word) (_ : Arrival) : Word := match f.op with
    | .any => if votes val = [] then 0 else 1
    | .all => if (List.range 32).all fun j => match val j with
        | some v => v != 0
        | none => true then 1 else 0
    | .ballot => maskOf (votes val)
    | .count => BitVec.ofNat 32 (votes val).length
  let wred (f : FmtRed) (val : Nat → Option Word) (_ : Arrival) : Word := redTree f.op ((List.range 32).map (input f.op val))
  let wscan (f : FmtRed) (val : Nat → Option Word) (a : Arrival) : Word :=
    redTree f.op ((List.range 32).map fun j => if j ≤ a.lane then input f.op val j else redIdentity f.op)
  (∀ f : FmtQswp, meets (.qswp f) ⟨f.d, f.a, f.m, f.e⟩ [srcU f.a, dstU f.d] true (qswp f) own) ∧
  (∀ f : FmtQbc, meets (.qbc f) ⟨f.d, f.a, f.m, f.e⟩ [srcU f.a, dstU f.d] true (qbc f) own) ∧
  (∀ f : FmtQ, meets (.wshfl f) f [srcU f.a, rwU f.d] false wshfl own) ∧
  (∀ f : FmtVote, meets (.wvote f) ⟨f.d, f.a, f.m, f.e⟩ [srcU f.a, dstU f.d] false (wvote f) fun _ => 0) ∧
  (∀ f : FmtRed, meets (.wred f) ⟨f.d, f.a, f.m, f.e⟩ [srcU f.a, dstU f.d] false (wred f) own) ∧
  (∀ f : FmtRed, meets (.wscan f) ⟨f.d, f.a, f.m, f.e⟩ [srcU f.a, dstU f.d] false (wscan f) own) ∧
  (∀ (ins : Instr) (result : (Nat → Option Word) → Arrival → Word) (other : Word → Word),
    (match ins with
      | .qswp f => result = qswp f ∧ other = own
      | .qbc f => result = qbc f ∧ other = own
      | .wshfl _ => result = wshfl ∧ other = own
      | .wvote f => result = wvote f ∧ other = fun _ => 0
      | .wred f => result = wred f ∧ other = own
      | .wscan f => result = wscan f ∧ other = own
      | _ => False) →
    ∀ f : FmtQm,
      retests ins result other (.mjoin f) f.e [] f.m.toNat (fun i => i.warp.mask f.m.toNat ||| maskOf i.act) ∧
      retests ins result other (.mleave f) f.e [] f.m.toNat (fun i => i.warp.mask f.m.toNat &&& ~~~maskOf i.act) ∧
      retests ins result other (.mact f) f.e [] f.m.toNat (fun i => maskOf i.act)) ∧
  (∀ f : FmtDst, completes (.qhlp f) f.e [dstU f.d] fun _ i l k =>
    k.setReg (i.row f.d.toNat) (if l ∈ i.helpers then 1 else 0)) ∧
  (∀ f : FmtQd, completes (.elect f) f.e [dstU f.d] fun _ i l k =>
    k.setReg (i.row f.d.toNat) (if takesPart i f.m l = true ∧ ∀ j, j < l → takesPart i f.m j = false then 1 else 0)) ∧
  (∀ (op : RedOp) (x : Word), redTree op [x] = x) ∧
  (∀ (op : RedOp) (n : Nat) (xs : List Word), n < 5 → xs.length = 2 ^ (n + 1) →
    redTree op xs = redCombine op (redTree op (xs.take (2 ^ n))) (redTree op (xs.drop (2 ^ n)))) ∧
  ∀ (op : RedOp) (u w : Word), redCombine op u w = match op with
    | .iadd => u + w
    | .imin => if u.toInt < w.toInt then u else w
    | .imax => if u.toInt < w.toInt then w else u
    | .and => u &&& w
    | .or => u ||| w
    | .xor => u ^^^ w
    | .fadd => BitVec.ofNat 32 (addF fp32 .rne u.toNat w.toNat).1
    | .fmax => BitVec.ofNat 32 (minMaxF fp32 true u.toNat w.toNat).1

/-- R415. -/
def Obligations.Predicates : Prop :=
  (∀ f : FmtP, completes (.pset f) false [] fun _ _ _ k =>
    k.setPred f.pd (f.lut.getLsbD ((if k.pred f.pa then 2 else 0) + if k.pred f.pb then 1 else 0))) ∧
  (∀ f : FmtSrc, completes (.pld f) f.e [srcU f.a] fun _ i l k => { k with preds := (i.rd l f.a).extractLsb' 0 7 }) ∧
  (∀ f : FmtDst, completes (.pst f) f.e [dstU f.d] fun _ i _ k =>
    k.setReg (i.row f.d.toNat) (BitVec.ofNat 32 (128 + k.preds.toNat))) ∧
  ∀ (ins : Instr) (s : State) (i : Iss), (∃ f, ins = .pset f) ∨ (∃ f, ins = .pld f) ∨ (∃ f, ins = .pst f) →
    s.issue = some i → undoFull s i = false → i.act ≠ [] → i.warp.role = .movement → traps ins s i (ill i (wordOf ins))

/-- R416, R417; a BARW of a warp that has never arrived goes on (log 12). -/
def Obligations.Barriers : Prop :=
  (∀ f : FmtBar, arrives (.bar f) f.b.toNat true fun _ => True) ∧
  (∀ f : FmtBar, arrives (.bara f) f.b.toNat false fun _ => True) ∧
  (∀ f : FmtBar, awaits (.barw f) f.b.toNat fun _ => True) ∧
  ∀ (t : Team) (b tick : Nat), b < t.barriers.length →
    let u := t.barOpen b tick false
    (u.bar b).phase = (t.bar b).phase + 1 ∧ (u.bar b).counted = (t.bar b).next ∧ (u.bar b).next = [] ∧
    ∀ w ∈ t.warps, (∀ v ∈ t.warps, v.id = w.id → v = w) → ∃ v, u.warpAt w.id = some v ∧
      v.lanes = w.lanes.map fun k => k.openedAt b (t.bar b).phase false

/-- R422. -/
def Obligations.StageRings : Prop :=
  let waits (ins : Instr) (us : List Use) (ring : BitVec 2) (slot : Iss → Nat → Nat) (phase : Iss → Nat → Bool) : Prop :=
    ∀ s i, readyFor s ins false us i → ∃ t, exec ins s = .next t ∧
      lanesBecome s t i fun l k =>
        let n := slot i l % 2 ^ i.grid.record.ringLog
        if i.act.contains l && i.team.phaseOf ring.toNat n != phase i l then { k with wait := .stgw ring.toNat n (phase i l) }
        else if i.entry.contains l then k.step s.len else k
  let flips (ins : Instr) (us : List Use) (ring : BitVec 2) (slot : Iss → Nat) : Prop :=
    ∀ s i, readyFor s ins false us i →
      let n := slot i % 2 ^ i.grid.record.ringLog
      let ph := !i.team.phaseOf ring.toNat n
      let rings := updAt i.team.rings ring.toNat fun r => updAt r n fun _ => ph
      ∃ t, exec ins s = .next t ∧
        teamBecomes s t i { i.team with rings := rings } fun w l k =>
          if k.wait = .stgw ring.toNat n ph then k.past
          else if w.id = i.warp.id && i.entry.contains l then k.step s.len
          else k
  let undeclared (ins : Instr) (ring : BitVec 2) : Prop :=
    ∀ s i, s.issue = some i → undoFull s i = false → i.act ≠ [] → i.roleLegal ins = true → i.blockIll ins = false →
      i.grid.record.ringCount ≤ ring.toNat → traps ins s i (ill i (wordOf ins))
  (∀ f : FmtStgw, undeclared (.stgwImm f) f.ring ∧ waits (.stgwImm f) [] f.ring (fun _ _ => f.slot.toNat) fun _ _ => f.phase) ∧
  (∀ f : FmtStgR, undeclared (.stgwReg f) f.ring ∧
    waits (.stgwReg f) [srcU f.a] f.ring (fun i l => (i.rd l f.a).toNat % 16) fun i l => (i.rd l f.a).toNat / 16 % 2 == 1) ∧
  (∀ f : FmtStga, undeclared (.stgaImm f) f.ring ∧ flips (.stgaImm f) [] f.ring fun _ => f.slot.toNat) ∧
  ∀ f : FmtStgR, undeclared (.stgaReg f) f.ring ∧ flips (.stgaReg f) [srcU f.a] f.ring fun i => (i.rd i.lead f.a).toNat % 16

/-- R420, R421, R423 to R425; a bad block of a helper lane has no stated result, so its D is free (log 7). -/
def Obligations.WaitsAndHandles : Prop :=
  (∀ (f : FmtR) (s : State) (i : Iss), readyFor s (.waitc f) f.e [srcU f.a, srcU f.b, dstU f.d] i →
    let o (l : Nat) : Nat := (i.rd l f.a).toNat
    let help := i.helpers.filter fun l => (waitTrap s i (o l) l).isNone && (waitPark s i (o l) l).isNone
    let lies (l : Nat) : Prop := (o l).testBit 22 = false ∧ o l % 64 = 0 ∧ o l + 64 ≤ i.grid.record.scratchBytes
    ((∃ l ∈ i.act ++ i.helpers, lies l ∧ i.team.absentAt (o l) = true) → exec (.waitc f) s = .next (markWait s i)) ∧
    (∀ t, (∀ l ∈ i.act ++ i.helpers, lies l → i.team.absentAt (o l) = false) →
      i.act.findSome? (fun l => waitTrap s i (o l) l) = some t → traps (.waitc f) s i t) ∧
    ((∀ l ∈ i.act ++ i.helpers, lies l → i.team.absentAt (o l) = false) →
      (∀ l ∈ i.act, waitTrap s i (o l) l = none ∧ waitPark s i (o l) l = none) →
      (∀ l ∈ i.act ++ help, s.fenced i l = false ∧ ∀ c ∈ condsOf (i.condBlock (o l)), s.watchAbsent i l c = false) →
      let ws : List WaitC := (i.act ++ help).zipIdx.map fun p =>
        let b := i.condBlock (o p.1)
        { key := s.nextKey + p.2, team := i.team.key, warp := i.warp.id, lane := p.1, row := i.row f.d.toNat
          all := 128 ≤ fieldAt b 1 1, conds := condsOf b, hcur := i.tag p.1
          deadline := if i.rd p.1 f.b = 0 then none else some (s.tick + (i.rd p.1 f.b).toNat), lastEval := s.tick }
      let s1 := { s with nonce := s.nonce + 32, nextKey := s.nextKey + ws.length, waitcs := s.waitcs ++ ws }
      let s2 := if i.grid.clamped && (i.act ++ help).any (fun l => waitSystem i (o l)) then
          s1.updCtx i.team.ctx fun c => { c with clamp := satInc c.clamp } else s1
      ∃ (u : State) (v : Nat → Word), exec (.waitc f) s = .next (ws.foldl State.evalAsk u) ∧
        lanesBecome s2 u i (laneAfter i s.len fun l k => match ws.find? fun x => x.lane == l with
          | some x => k.setEmpty (i.row f.d.toNat) (.waitc x.key)
          | none => k.setReg (i.row f.d.toNat) (v l)))) ∧
  (∀ (s : State) (i : Iss) (o l : Nat),
    let size := i.grid.record.scratchBytes
    let field (k off n : Nat) : Nat := fieldAt (i.condBlock o) (16 * k + off) n
    let kind (k : Nat) : Nat := field k 0 1
    let mem (k : Nat) : Bool := kind k == 1 || kind k == 2
    let bad (off : Nat) : Prop := ∃ k, k < 4 ∧
      ((off = 16 * k ∧ 7 ≤ kind k) ∨
      (off = 16 * k + 1 ∧ (field k 1 1 / 4 % 32 ≠ 0 ∨ (k ≠ 0 ∧ 128 ≤ field k 1 1))) ∨
      (off = 16 * k + 2 ∧ kind k = 5 ∧ (i.grid.record.ringCount ≤ field k 2 2 % 4 ∨ 2 ^ i.grid.record.ringLog ≤ field k 2 2 / 4 % 16)) ∨
      (∃ b, (field k 2 2).testBit b = true ∧ (if kind k = 4 then 8 else if kind k = 5 then 6 else 0) ≤ b ∧ off = 16 * k + 2 + b / 8) ∨
      (∃ b, (field k 4 4).testBit b = true ∧
        (if mem k then 32 else if kind k = 3 then 28 else if kind k = 5 then 1 else 0) ≤ b ∧ off = 16 * k + 4 + b / 8) ∨
      ∃ b, (field k 8 8).testBit b = true ∧ (if mem k then b < 2 else kind k ≠ 6) ∧ off = 16 * k + 8 + b / 8)
    let trap (cause info addr : Nat) : Option Trap := some { cause := cause, info := BitVec.ofNat 32 info, addr := addr, lane := l }
    let reads := (List.range 4).filter mem
    let answer (k : Nat) : Answer := s.generic i .read l 4 false (field k 8 8 / 4 * 4)
    let faulty (k : Nat) : Prop := ∃ c, answer k = .trap c
    let poisoned (k : Nat) : Prop := s.poisoned i l 4 (answer k) = true
    let lost (k : Nat) : Prop := ∃ p, answer k = .noPeer p
    let first (p : Nat → Prop) (k : Nat) : Prop := k ∈ reads ∧ p k ∧ ∀ j ∈ reads, j < k → ¬ p j
    (o.testBit 22 = true → waitTrap s i o l = trap 0x12 0 0) ∧
    (o.testBit 22 = false → size < o + 64 → waitTrap s i o l = trap 0x05 l o) ∧
    (o.testBit 22 = false → o + 64 ≤ size → o % 64 ≠ 0 → waitTrap s i o l = trap 0x12 0 0) ∧
    (o.testBit 22 = false → o + 64 ≤ size → o % 64 = 0 →
      (∀ k c, first faulty k → answer k = .trap c → waitTrap s i o l = trap c l (field k 8 8)) ∧
      ((∀ k ∈ reads, ¬ faulty k) →
        (∀ off, bad off → (∀ x, x < off → ¬ bad x) → waitTrap s i o l = trap 0x12 off 0) ∧
        ((∀ off, ¬ bad off) →
          (∀ k, first poisoned k → waitTrap s i o l = trap 0x10 l (field k 8 8 / 128 * 128)) ∧
          ((∀ k ∈ reads, ¬ poisoned k) →
            (∀ k p, first lost k → answer k = .noPeer p → waitTrap s i o l = trap 0x03 (l + 256 * p) (field k 8 8)) ∧
            ((∀ k ∈ reads, ¬ lost k) → waitTrap s i o l = none)))))) ∧
  (∀ (s : State) (w : WaitC) (i : Iss), s.watcher w.team w.warp w.lane = some i → w.lane < i.warp.lanes.length →
    srising (i.warp.lane w.lane).regs = true → (i.warp.lane w.lane).life ≠ .finished →
    ((i.warp.lane w.lane).cell w.row).fill = .empty (.waitc w.key) →
    ((∃ c ∈ w.conds, s.watchAbsent i w.lane c = true) → s.evalWait w = s) ∧
    ((∀ c ∈ w.conds, s.watchAbsent i w.lane c = false) →
    let r := s.condBits i w.lines w.lane w.hcur w.conds 0
    let t := s.evalWait w
    let used := usedBits w.conds
    (used = 0 ∨ (w.all = true ∧ r.2 = used) ∨ (w.all = false ∧ r.2 ≠ 0) →
      (∀ x ∈ t.waitcs, x.key ≠ w.key) ∧ ∃ x, (t.team? w.team).bind (fun y => y.warpAt w.warp) = some x ∧
        (x.lane w.lane).cell w.row = { val := BitVec.ofNat 32 r.2 }) ∧
    (¬ (used = 0 ∨ (w.all = true ∧ r.2 = used) ∨ (w.all = false ∧ r.2 ≠ 0)) →
      t.team? w.team = s.team? w.team))) ∧
  (∀ (s : State) (i : Iss) (c : Cond),
    (c.kind = 3 → s.satisfied i c = match i.team.op? (c.value % 2 ^ 28) with
      | some o => o.final.isSome
      | none => true) ∧
    (c.kind = 4 → (s.satisfied i c = true ↔
      ((s.ctx i.team.ctx).seenBy i.core).stateOf (c.arg % 256) ∈ [NodeState.merged, .refuted, .free])) ∧
    (c.kind = 5 → s.satisfied i c = (i.team.phaseOf (c.arg % 4) (c.arg / 4 % 16) == (c.value % 2 == 1))) ∧
    (c.kind = 6 → s.satisfied i c = decide (c.addr ≤ s.tick)) ∧
    ∀ word, (c.kind = 1 → (s.holdsFor i c word = true ↔ word = some c.value)) ∧
      (c.kind = 2 → (s.holdsFor i c word = true ↔ ∃ v, word = some v ∧ v ≠ c.value))) ∧
  (∀ (s : State) (i : Iss) (lines : List (Nat × List Byte)) (l h : Nat) (cs : List Cond),
    (∀ k, (usedBits cs).testBit k = true ↔ ∃ c, cs[k]? = some c ∧ c.kind ≠ 0) ∧
    ((∀ c ∈ cs, c.reads = false) → (s.condBits i lines l h cs 0).1 = s ∧
      ∀ k, (s.condBits i lines l h cs 0).2.testBit k = true ↔ ∃ c, cs[k]? = some c ∧ s.satisfied i c = true)) ∧
  (∀ f : FmtCP, completes (.ftest f) false [peekU f.a] fun _ i l k => k.setPred f.pd (!i.isEmpty l f.a.toNat)) ∧
  (∀ f : FmtR1, completes (.fid f) false [peekU f.a, dstU f.d] fun _ i _ k =>
    let c := k.cell (i.row f.a.toNat)
    k.setReg (i.row f.d.toNat) (match c.fill with
      | .empty (.engine id) => BitVec.ofNat 32 (id % 2 ^ 28)
      | .empty _ => 0xFFFFFFFF
      | _ => c.val &&& 0x0FFFFFFF)) ∧
  (∀ (f : FmtR1) (s : State) (i : Iss), readyFor s (.fwait f) f.e [srcU f.a, dstU f.d] i →
    let id (l : Nat) : Nat := (i.rd l f.a).toNat % 2 ^ 28
    (∀ l row info, i.failedWait f.a = some (l, row, info) → exec (.fwait f) s = .next (takeTrap (markRead s i l row) (i.markRead l row)
      { cause := 0x0D, info := info, lane := l } (s.words (.fwait f)).1 (s.words (.fwait f)).2 i.entry)) ∧
    (i.failedWait f.a = none → ∃ t, exec (.fwait f) s = .next t ∧ lanesBecome s t i fun l k =>
      let v : Option Word := match i.team.op? (id l) with
        | some o => o.final
        | none => some (BitVec.ofNat 32 (0xF0000000 + id l))
      let k1 := if i.active.contains l then (match v with | some v => k.setReg (i.row f.d.toNat) v | none => k) else k
      if !i.entry.contains l then k1
      else if i.act.contains l && v.isNone then { k1 with wait := .fwait (id l) } else k1.step s.len)) ∧
  (∀ (f : FmtSrc) (s : State) (i : Iss), readyFor s (.fcan f) f.e [srcU f.a] i →
    let id (l : Nat) : Nat := (i.rd l f.a).toNat % 2 ^ 28
    ((∀ l ∈ i.act, s.matOp? i.team.key (id l) = none) → ∃ t, exec (.fcan f) s = .next t ∧ moved s t i fun _ k => k) ∧
    ∀ n, (∀ l ∈ i.act, id l = n) → ∃ u, exec (.fcan f) s = .next (u.cancel i.team.key n) ∧ moved s u i fun _ k => k) ∧
  ∀ (s : State) (team id core : Nat) (o : MatOp), (s.cores.map Core.num).Nodup → s.matOp? team id = some (core, o) →
    let halves := (core, o) :: (s.partnerOp o).toList
    (o.started = false → o.nextK = 0 → s.cancel team id = s.endMat core o 1 0) ∧
    (o.started = false → o.nextK ≠ 0 → s.cancel team id = halves.foldl (fun s h => s.endMat h.1 h.2 1 h.2.nextK) s) ∧
    (o.started = true → ∀ h ∈ halves, ∃ x ∈ ((s.cancel team id).core h.1).matq, x.team = h.2.team ∧ x.id = h.2.id ∧ x.cancel = true)

/-- R449 to R451, R104, R105, R190, R279, R291, R292. The model's choices it rests on: that every core's copy of the
tick is the device's count is log 61, and how CLK counts, and its start at 0, are log 6. -/
def Obligations.ClocksAndSpecialRegisters : Prop :=
  (∀ f : FmtD, completes (.time f) false [dstN f.d 2] fun s i _ k =>
    (k.setReg (i.row f.d.toNat) (BitVec.ofNat 32 s.tick)).setReg (i.row f.d.toNat + 1) (BitVec.ofNat 32 (s.tick / 2 ^ 32))) ∧
  (∀ f : FmtD, completes (.clk f) false [dstN f.d 2] fun s i _ k =>
    let c := (s.cluster (i.core / 4)).kcyc / 1000
    (k.setReg (i.row f.d.toNat) (BitVec.ofNat 32 c)).setReg (i.row f.d.toNat + 1) (BitVec.ofNat 32 (c / 2 ^ 32))) ∧
  (∀ (f : FmtSrd) (s : State) (i : Iss), s.issue = some i → undoFull s i = false → i.act ≠ [] → i.roleLegal (.srd f) = true →
    i.blockIll (.srd f) = false →
    let r := i.grid.record
    let t := i.team.index
    let c := s.cluster (i.core / 4)
    let value (l : Nat) (k : Lane) : Nat → Option Nat
      | 0x000 => some l
      | 0x001 => some (l / 4)
      | 0x002 => some i.warp.id
      | 0x003 => some (t % r.gridX)
      | 0x004 => some (t / r.gridX % r.gridY)
      | 0x005 => some (t / (r.gridX * r.gridY))
      | 0x006 => some (t / r.hallTeams)
      | 0x007 => some (match i.warp.role with
        | .vector => 0
        | .matrix => 1
        | .movement => 2)
      | 0x008 => some (i.core % 4)
      | 0x009 => some (i.core / 4)
      | 0x00A => some (partOfCore s i.core)
      | 0x020 => some k.rm.toNat
      | 0x021 => some k.fstat.toNat
      | 0x022 => some k.hcur.toNat
      | 0x023 => some i.warp.winBase.toNat
      | 0x024 => some k.prio.toNat
      | 0x030 => some k.trap.cause.toNat
      | 0x031 => some k.trap.pc.toNat
      | 0x032 => some k.trap.addr.toNat
      | 0x033 => some k.trap.addrh.toNat
      | 0x034 => some k.trap.info.toNat
      | 0x040 => some (c.permits + (if c.holdsGrant then 128 else 0) + if c.fallen then 256 else 0)
      | 0x041 => some (c.ratio + if c.switchEnd.isSome then 4 else 0)
      | 0x042 => some c.mhz
      | 0x043 => some c.droopCnt.toNat
      | 0x044 => some (c.waveWarps.toNat + 256 * c.stepCycles.toNat)
      | 0x045 => some (s.part (partOfCore s i.core)).fairn.toNat
      | 0x050 => if i.warp.role = .movement then some (i.warp.tokErr + 256 * i.warp.tokDone) else none
      | 0x051 => some (s.ctx i.team.ctx).clamp.toNat
      | _ => none
    ((∀ l k, value l k f.sel.toNat = none) → traps (.srd f) s i (ill i (wordOf (.srd f)))) ∧
    (readyFor s (.srd f) false [dstU f.d] i → ∃ t, exec (.srd f) s = .next t ∧ moved s t i fun l k =>
      k.setReg (i.row f.d.toNat) (BitVec.ofNat 32 ((value l k f.sel.toNat).getD 0)))) ∧
  ∀ (f : FmtSwr) (s : State) (i : Iss), s.issue = some i → undoFull s i = false → i.act ≠ [] → i.roleLegal (.swr f) = true →
    i.blockIll (.swr f) = false →
    let ready := readyFor s (.swr f) false [srcU f.a] i
    let v (l : Nat) : Word := i.rd l f.a
    (ready → f.sel.toNat = 0x020 → ∃ t, exec (.swr f) s = .next t ∧ moved s t i fun l k => { k with rm := (v l).extractLsb' 0 2 }) ∧
    (ready → f.sel.toNat = 0x021 → ∃ t, exec (.swr f) s = .next t ∧ moved s t i fun l k => { k with fstat := (v l).extractLsb' 0 5 }) ∧
    (ready → f.sel.toNat = 0x031 → ∃ t, exec (.swr f) s = .next t ∧ moved s t i fun l k =>
      if l ∈ i.helpers then k else { k with trap := { k.trap with pc := v l } }) ∧
    (f.sel.toNat ≠ 0x020 → f.sel.toNat ≠ 0x021 → f.sel.toNat ≠ 0x031 → traps (.swr f) s i (ill i (wordOf (.swr f))))

/-- R226, R227, R423, R426, R427, R434, R435. The first eight operations of a core stand in the engine's queue; a warp whose operations stand behind them
issues no more (log 22). -/
def Obligations.MatrixInstructions : Prop :=
  (∀ (f : FmtR1) (pair : Bool) (s : State) (i : Iss),
    let ins : Instr := if pair then .mmap f else .mma f
    readyFor s ins f.e [srcU f.a, dstU f.d] i →
    let o (l : Nat) : Nat := (i.rd l f.a).toNat
    let fits (l : Nat) : Prop := o l % 64 = 0 ∧ o l + 64 ≤ i.grid.record.scratchBytes
    let n := if pair then i.team.mmapCount else i.team.mmaCount
    let os : List MatOp := i.act.zipIdx.map fun p =>
      { team := i.team.key, warp := i.warp.id, lane := p.1, row := i.row f.d.toNat
        id := (if pair then 2 else 1) * 2 ^ 24 + (n + p.2) % 2 ^ 24, tick := s.tick, hcur := (i.warp.lane p.1).hcur.toNat
        block := i.condBlock (o p.1), pc := i.pc }
    let ops := os.foldl (fun ops o => pushOp ops { id := o.id, warp := o.warp, lane := o.lane, row := o.row }) i.team.ops
    (∀ l ∈ i.act, ¬ fits l → (∀ j ∈ i.act, j < l → fits j) →
      traps ins s i { cause := if o l % 64 = 0 then 0x05 else 0x02, info := BitVec.ofNat 32 l, addr := o l, lane := l }) ∧
    ((∀ l ∈ i.act, fits l) → (∃ l ∈ i.act, i.team.absentAt (o l) = true) ∨ 8 ≤ (s.core i.core).matq.length →
      exec ins s = .next (markWait s i)) ∧
    ((∀ l ∈ i.act, fits l ∧ i.team.absentAt (o l) = false) →
      (s.core i.core).matq.length < 8 →
      ∃ t, exec ins s = .next t ∧
        lanesBecomeAs (s.updCore i.core fun k => { k with matq := k.matq ++ os }) t i
          { i.team with
            ops := ops
            mmaCount := if pair then i.team.mmaCount else i.team.mmaCount + i.act.length
            mmapCount := if pair then i.team.mmapCount + i.act.length else i.team.mmapCount }
          (laneAfter i s.len fun l k => match os.find? fun x => x.lane == l with
            | some x => k.setEmpty (i.row f.d.toNat) (.engine x.id)
            | none => k))) ∧
  (∀ (f : FmtR1) (s : State) (i : Iss), readyFor s (.tld f) f.e [srcU f.a, dstN f.d 8] i →
    let v (l : Nat) : Nat := (i.rd l f.a).toNat
    let word (l j : Nat) : Word := if v l % 4 < i.grid.record.accTiles then
      i.team.tileWord (v l % 4) (32 * (v l / 4 % 4) + l) (8 * (v l / 16 % 32) + j) else 0
    let value (l : Nat) : Nat := ((List.range 8).map fun j => (word l j).toNat * 2 ^ (32 * j)).sum
    (∀ l ∈ i.act, i.grid.record.accTiles ≤ v l % 4 → (∀ j ∈ i.act, j < l → v j % 4 < i.grid.record.accTiles) →
      traps (.tld f) s i { cause := 0x01, info := wordOf (.tld f), lane := l }) ∧
    ((∀ l ∈ i.act, v l % 4 < i.grid.record.accTiles) →
      ((∃ l ∈ i.active, s.tileBusy i.team.key (v l % 4) = true) → exec (.tld f) s = .next (markWait s i)) ∧
      ((∀ l ∈ i.active, s.tileBusy i.team.key (v l % 4) = false) →
        ∃ t, exec (.tld f) s = .next t ∧
          lanesBecome { s with nextKey := s.nextKey + 1, pend := s.pend ++ [
            { key := s.nextKey, team := i.team.key, warp := i.warp.id, bytes := 32, signed := false, atomic := false, tick := s.tick
              lanes := i.active.map fun l => { lane := l, row := i.row f.d.toNat, val := some (value l) } }] } t i
            (laneAfter i s.len fun _ k => k.emptyRows (i.row f.d.toNat) (.access s.nextKey) 8)))) ∧
  (∀ (f : FmtR1) (s : State) (i : Iss), readyFor s (.tst f) f.e [srcU f.a, srcN f.d 8] i →
    let v (l : Nat) : Nat := (i.rd l f.a).toNat
    let ws := i.act.flatMap fun l => (List.range 8).map fun j =>
      (tileKey (v l % 4) (32 * (v l / 4 % 4) + l) (8 * (v l / 16 % 32) + j), i.rdN l f.d j)
    (∀ l ∈ i.act, i.grid.record.accTiles ≤ v l % 4 → (∀ j ∈ i.act, j < l → v j % 4 < i.grid.record.accTiles) →
      traps (.tst f) s i { cause := 0x01, info := wordOf (.tst f), lane := l }) ∧
    ((∀ l ∈ i.act, v l % 4 < i.grid.record.accTiles) → (∀ l ∈ i.active, s.tileBusy i.team.key (v l % 4) = false) →
      ∃ t, exec (.tst f) s = .next t ∧ lanesBecomeAs s t i (i.team.writeTiles ws) (laneAfter i s.len fun _ k => k) ∧
        ∀ k, sget (0 : Word) (i.team.writeTiles ws).tiles k =
          match ws.reverse.find? fun w => w.1 == k with
          | some w => w.2
          | none => sget (0 : Word) i.team.tiles k)) ∧
  (∀ (s : State) (t : Team) (w : Warp) (c : Nat) (o : MatOp), c ∈ t.cores → o ∈ (s.core c).matq.drop 8 → o.team = t.key →
    o.warp = w.id → issueOf s t w = none) ∧
  ∀ (f : FmtTile) (free : Bool) (s : State) (i : Iss),
    let ins : Instr := if free then .tfree f else .tzero f
    readyFor s ins false [] i →
    let n := f.t.toNat
    (i.grid.record.accTiles ≤ n → traps ins s i { cause := 0x01, info := wordOf ins, lane := i.lead }) ∧
    (n < i.grid.record.accTiles → s.tileBusy i.team.key n = true → exec ins s = .next (markWait s i)) ∧
    (n < i.grid.record.accTiles → s.tileBusy i.team.key n = false → ∃ t u, exec ins s = .next t ∧
      lanesBecomeAs s t i u (laneAfter i s.len fun _ k => k) ∧ { u with tiles := i.team.tiles, freed := i.team.freed } = i.team ∧
      (∀ k, sget (0 : Word) u.tiles k = if k / 32768 = n then 0 else sget (0 : Word) i.team.tiles k) ∧
      ∀ m, m ∈ u.freed ↔ (m = n ∧ free = true) ∨ (m ≠ n ∧ m ∈ i.team.freed))

/-- R436, R437, R439 to R445. The model's choices it rests on: PROT before every other end test, DESC at the
destination when both ends lie on peers, and the order of the tests are log 19; the wait at a full hold is log 20. -/
def Obligations.CopiesEnter : Prop :=
  (∀ (ins : Instr) (wm : BitVec 8) (s : State) (i : Iss),
    (∃ f : FmtE, (ins = .cpy f ∨ ins = .cpyt f ∨ ins = .lxf f) ∧ wm = f.wm) ∨ (∃ f : FmtEm, ins = .cpym f ∧ wm = f.wm) ∨
      (∃ f : FmtEw, (ins = .tkw f ∨ ins = .spclr f ∨ ins = .spset f) ∧ wm = f.wm) ∨
      (∃ f : FmtEb, (ins = .tkwBar f ∨ ins = .tkwBarw f ∨ ins = .tktBar f) ∧ wm = f.wm) →
    s.issue = some i → i.warp.role = .movement → i.act ≠ [] → (∃ t, t < 8 ∧ wm.getLsbD t = true ∧ (i.warp.token t).ops ≠ []) →
    exec ins s = .next (markWait s i)) ∧
  (∀ (f : FmtE) (s : State) (i : Iss), readyFor s (.cpy f) false (cpyUses f.a) i → i.warp.tokensDone f.wm = true →
    let src := (i.rd64 0 f.a).toNat
    let dst := (i.rd64 0 (f.a + 2)).toNat
    let ctl := (i.rd 0 (f.a + 4)).toNat
    let n := ctl % 2 ^ 24
    let lg := ctl / 2 ^ 24 % 8
    let es := if lg ≤ 4 then 2 ^ lg else 1
    let ts := s.endTest i src (max n 1)
    let td := s.endTest i dst (max n 1)
    let badSrc := src % es ≠ 0 ∨ ts = .desc
    let badDst := dst % es ≠ 0 ∨ td = .desc ∨ overlap src n dst n = true ∨
      (s.onPeer i .copySrc src (max n 1) = true ∧ s.onPeer i .copyDst dst (max n 1) = true)
    let badCtl := ctl / 2 ^ 27 ≠ 0 ∨ 4 < lg ∨ n = 0 ∨ n % es ≠ 0
    let a := 0x100 + f.a.toNat
    let p : MovePlan := { kind := .cpy, es := es, src := src, dst := dst, dims := [lineDim (n / es) es] }
    (ts = .prot → traps (.cpy f) s i (protTrap src)) ∧ (ts ≠ .prot → td = .prot → traps (.cpy f) s i (protTrap dst)) ∧
    (ts ≠ .prot → td ≠ .prot →
      (badSrc → traps (.cpy f) s i (descTrap a)) ∧ (¬ badSrc → badDst → traps (.cpy f) s i (descTrap (a + 2))) ∧
      (¬ badSrc → ¬ badDst → badCtl → traps (.cpy f) s i (descTrap (a + 4))) ∧
      (¬ badSrc → ¬ badDst → ¬ badCtl → roomFor s i p → ∃ t, exec (.cpy f) s = .next t ∧ enters s t i f.tok p))) ∧
  (∀ (f : FmtEm) (s : State) (i : Iss), readyFor s (.cpym f) false (cpyUses f.a) i → i.warp.tokensDone f.wm = true →
    let src := (i.rd64 0 f.a).toNat
    let dst := (i.rd64 0 (f.a + 2)).toNat
    let ctl := (i.rd 0 (f.a + 4)).toNat
    let n := ctl % 2 ^ 24
    let lg := ctl / 2 ^ 24 % 8
    let es := if lg ≤ 4 then 2 ^ lg else 1
    let ts := s.endTest i src (max n 1)
    let named (c : Nat) : Prop := c < 4 ∧ f.mask.getLsbD c = true
    let badDst := dst % es ≠ 0 ∨ 2 ^ 19 ≤ dst ∨ i.grid.record.scratchBytes < dst + n ∨ (∀ c, ¬ named c) ∨
      ∃ c, named c ∧ (s.hallTeam i c = none ∨ overlap src n (0x01F1000000000000 + c * 2 ^ 20 + dst) n = true ∨
        (c = i.core % 4 ∧ overlap src n (0x01F0000000000000 + dst) n = true))
    let badSrc := src % es ≠ 0 ∨ ts = .desc
    let badCtl := ctl / 2 ^ 27 ≠ 0 ∨ 4 < lg ∨ n = 0 ∨ n % es ≠ 0
    let a := 0x100 + f.a.toNat
    let p : MovePlan := { kind := .cpym, es := es, src := src, dst := dst, dims := [lineDim (n / es) es], mask := f.mask.toNat }
    (ts = .prot → traps (.cpym f) s i (protTrap src)) ∧
    (ts ≠ .prot →
      (badSrc → traps (.cpym f) s i (descTrap a)) ∧ (¬ badSrc → badDst → traps (.cpym f) s i (descTrap (a + 2))) ∧
      (¬ badSrc → ¬ badDst → badCtl → traps (.cpym f) s i (descTrap (a + 4))) ∧
      (¬ badSrc → ¬ badDst → ¬ badCtl → roomFor s i p → ∃ t, exec (.cpym f) s = .next t ∧ enters s t i f.tok p))) ∧
  (∀ (f : FmtE) (s : State) (i : Iss), readyFor s (.cpyt f) false [srcU f.a] i → i.warp.tokensDone f.wm = true →
    placeTrap i f.a 64 = none → i.team.absentAt (i.rd 0 f.a).toNat = false →
    let b := descBytes i f.a 64
    let src := fieldAt b 0 8
    let dst := fieldAt b 8 8
    let ctl := fieldAt b 0x30 4
    let r := ctl / 8 % 4 + 1
    let es := if ctl % 8 ≤ 4 then 2 ^ (ctl % 8) else 1
    let ext (k : Nat) : Nat := fieldAt b (0x10 + 2 * k) 2
    let ss (k : Nat) : Nat := if k = 0 then es else fieldAt b (0x18 + 4 * (k - 1)) 4
    let ds (k : Nat) : Nat := if k = 0 then es else fieldAt b (0x24 + 4 * (k - 1)) 4
    let dims := (List.range r).map fun k =>
      ({ ext := max (ext k) 1, dstr := ds k, sstr := ss k, lim := max (ext k) 1, rev := false } : Dim)
    let ts := s.endTest i src (hullSrc es dims)
    let td := s.endTest i dst (hullDst es dims)
    let fromPeer := ∃ n o, n < countOf dims ∧ (elemAt dims n).2 = some o ∧ s.peerAt i .copySrc ((src + o) / 4096 * 4096) = true
    let toPeer := ∃ n, n < countOf dims ∧ s.peerAt i .copyDst ((dst + (elemAt dims n).1) / 4096 * 4096) = true
    let bad (off : Nat) : Prop :=
      (off = 0 ∧ (src % es ≠ 0 ∨ ts = .desc)) ∨
      (off = 8 ∧ (dst % es ≠ 0 ∨ td = .desc ∨ overlap src (hullSrc es dims) dst (hullDst es dims) = true ∨ (fromPeer ∧ toPeer))) ∨
      (∃ k, k < 4 ∧ off = 0x10 + 2 * k ∧ (if k < r then ext k = 0 else ext k ≠ 0)) ∨
      (∃ k, 1 ≤ k ∧ k < 4 ∧ off = 0x18 + 4 * (k - 1) ∧ ((r ≤ k ∧ ss k ≠ 0) ∨ ss k % es ≠ 0)) ∨
      (∃ k, 1 ≤ k ∧ k < 4 ∧ off = 0x24 + 4 * (k - 1) ∧ ((r ≤ k ∧ ds k ≠ 0) ∨ ds k % es ≠ 0)) ∨
      (off = 0x30 ∧ (ctl / 32 ≠ 0 ∨ 4 < ctl % 8)) ∨ (0x34 ≤ off ∧ off < 0x40 ∧ fieldAt b off 1 ≠ 0)
    let p : MovePlan := { kind := .cpyt, es := es, src := src, dst := dst, dims := dims }
    (ts = .prot → traps (.cpyt f) s i (protTrap src)) ∧ (ts ≠ .prot → td = .prot → traps (.cpyt f) s i (protTrap dst)) ∧
    (ts ≠ .prot → td ≠ .prot → (∀ off, bad off → (∀ x, x < off → ¬ bad x) → traps (.cpyt f) s i (descTrap off)) ∧
      ((∀ off, ¬ bad off) → roomFor s i p → ∃ t, exec (.cpyt f) s = .next t ∧ enters s t i f.tok p))) ∧
  (∀ (f : FmtE) (s : State) (i : Iss), readyFor s (.lxf f) false [srcU f.a] i → i.warp.tokensDone f.wm = true →
    placeTrap i f.a 128 = none → i.team.absentAt (i.rd 0 f.a).toNat = false →
    let b := descBytes i f.a 128
    let src := fieldAt b 0 8
    let dst := fieldAt b 8 8
    let dmw := fieldAt b 0x10 8
    let bit (j : Nat) : Prop := dmw / 2 ^ j % 2 = 1
    let perm (j : Nat) : Nat := dmw / 2 ^ (3 * j) % 8
    let r := dmw / 2 ^ 39 % 8 + 1
    let lg := dmw / 2 ^ 42 % 8
    let es := if lg ≤ 4 then 2 ^ lg else 1
    let ext (k : Nat) : Nat := fieldAt b (0x18 + 2 * k) 2
    let ss (k : Nat) : Nat := fieldAt b (0x28 + 4 * k) 4
    let ds (j : Nat) : Nat := fieldAt b (0x48 + 4 * j) 4
    let oe (j : Nat) : Nat := fieldAt b (0x68 + 2 * j) 2
    let e (j : Nat) : Nat := if oe j ≠ 0 then oe j else max (ext (perm j)) 1
    let dims := (List.range r).map fun j =>
      ({ ext := e j, dstr := mergedStrides (dmw / 2 ^ 24 % 128) e ds j, sstr := ss (perm j), lim := max (ext (perm j)) 1
         rev := dmw / 2 ^ (31 + j) % 2 == 1 } : Dim)
    let ts := s.endTest i src (hullSrc es dims)
    let td := s.endTest i dst (hullDst es dims)
    let bad (off : Nat) : Prop :=
      (off = 0 ∧ (src % es ≠ 0 ∨ ts = .desc)) ∨
      (off = 8 ∧ (dst % es ≠ 0 ∨ td = .desc ∨ overlap src (hullSrc es dims) dst (hullDst es dims) = true)) ∨
      (∃ j, j < 8 ∧ off = 0x10 + 3 * j / 8 ∧ (if j < r then r ≤ perm j ∨ ∃ k, k < j ∧ perm k = perm j else perm j ≠ 0)) ∨
      (∃ j, j < 7 ∧ off = 0x10 + (24 + j) / 8 ∧ r - 1 ≤ j ∧ bit (24 + j)) ∨
      (∃ j, j < 8 ∧ off = 0x10 + (31 + j) / 8 ∧ r ≤ j ∧ bit (31 + j)) ∨
      (off = 0x15 ∧ 4 < lg) ∨ (∃ j, 46 ≤ j ∧ j < 64 ∧ off = 0x10 + j / 8 ∧ bit j) ∨
      (∃ k, k < 8 ∧ off = 0x18 + 2 * k ∧ (if k < r then ext k = 0 else ext k ≠ 0)) ∨
      (∃ k, k < 8 ∧ off = 0x28 + 4 * k ∧ ((r ≤ k ∧ ss k ≠ 0) ∨ ss k % es ≠ 0)) ∨
      (∃ j, j < 8 ∧ off = 0x48 + 4 * j ∧ (((r ≤ j ∨ (j ≠ 0 ∧ bit (23 + j))) ∧ ds j ≠ 0) ∨ ds j % es ≠ 0)) ∨
      (∃ j, j < 8 ∧ off = 0x68 + 2 * j ∧ ((r ≤ j ∧ oe j ≠ 0) ∨ (j < r ∧ ¬ bit 45 ∧ ext (perm j) < e j))) ∨
      (0x78 ≤ off ∧ off < 0x80 ∧ fieldAt b off 1 ≠ 0)
    let p : MovePlan := { kind := .lxf, es := es, src := src, dst := dst, dims := dims }
    (ts = .prot → traps (.lxf f) s i (protTrap src)) ∧ (ts ≠ .prot → td = .prot → traps (.lxf f) s i (protTrap dst)) ∧
    (ts ≠ .prot → td ≠ .prot → (∀ off, bad off → (∀ x, x < off → ¬ bad x) → traps (.lxf f) s i (descTrap off)) ∧
      ((∀ off, ¬ bad off) → roomFor s i p → ∃ t, exec (.lxf f) s = .next t ∧ enters s t i f.tok p))) ∧
  ∀ (i : Iss) (a : RegNo) (n : Nat), n = 64 ∨ n = 128 →
    let o := (i.rd 0 a).toNat
    placeTrap i a n = if o / 2 ^ 22 % 2 = 1 then some (descTrap (0x100 + a.toNat))
      else if i.grid.record.scratchBytes < o + n then some { cause := 0x05, info := 0, addr := o, lane := 0 }
      else if o % n ≠ 0 then some (descTrap (0x100 + a.toNat)) else none

/-- R438, R446 to R448; every team's retries wake, which changes no result. The model's choices it rests on: a BARW form
of a warp that never arrived goes on at once (log 12); a waiting lane tries again with its gang (log 41). -/
def Obligations.TokensAndPresence : Prop :=
  (∀ (f : FmtEw) (wait : Bool) (s : State) (i : Iss),
    let ins : Instr := if wait then .tkw f else .tkt f
    readyFor s ins false [dstU f.a] i → (wait = true → i.warp.tokensDone f.wm = true) →
    ∃ (t : State) (v : Word), exec ins s = .next t ∧ moved s t i (fun _ k => k.setReg f.a.toNat v) ∧
      (∀ n, n < 8 → v.getLsbD n = (i.warp.token n).err ∧ (v.getLsbD (8 + n) = true ↔ (i.warp.token n).ops = [])) ∧
      v.getLsbD 16 = i.warp.tokensDone f.wm ∧ ∀ n, 17 ≤ n → v.getLsbD n = false) ∧
  (∀ f : FmtEb, arrives (.tkwBar f) f.b.toNat true fun i => i.warp.tokensDone f.wm = true) ∧
  (∀ f : FmtEb, arrives (.tktBar f) f.b.toNat false fun i => i.warp.tokensDone f.wm = true) ∧
  (∀ f : FmtEb, awaits (.tkwBarw f) f.b.toNat fun i => i.warp.tokensDone f.wm = true) ∧
  ∀ (f : FmtEw) (set : Bool) (s : State) (i : Iss),
    let ins : Instr := if set then .spset f else .spclr f
    readyFor s ins false [srcN f.a 2] i → i.warp.tokensDone f.wm = true →
    let o := (i.rdN 0 f.a 0).toNat
    let n := (i.rdN 0 f.a 1).toNat
    (o % 128 ≠ 0 → traps ins s i { cause := 0x02, info := 0, addr := o, lane := 0 }) ∧
    (o % 128 = 0 → i.grid.record.scratchBytes < o + 128 * n → traps ins s i { cause := 0x05, info := 0, addr := o, lane := 0 }) ∧
    (o % 128 = 0 → o + 128 * n ≤ i.grid.record.scratchBytes →
      (n = 0 ∨ 4096 < n → traps ins s i (descTrap (0x100 + f.a.toNat + 1))) ∧
      (n ≠ 0 → n ≤ 4096 → ∃ (u : State) (tm : Team), exec ins s = .next (wakeAll u) ∧
        lanesBecomeAs s u i tm (laneAfter i s.len fun _ k => k) ∧ { tm with absent := i.team.absent } = i.team ∧
        ∀ x, (∃ a ∈ tm.absent, a.1 = x) ↔
          if set then ∃ a ∈ i.team.absent, a.1 = x ∧ ¬ (o / 128 ≤ x ∧ x < o / 128 + n ∧ a.2 = [])
          else (∃ a ∈ i.team.absent, a.1 = x) ∨ (o / 128 ≤ x ∧ x < o / 128 + n)))

/-- R39, R42, R65, R66, R68, R71 to R73, R75, R76; the numeric SPDM fields are those of SPDM 1.3 (log 18), a failed step's event is
free (log 17), entry addresses, the header of MCTP and the bytes of a message are those of log 60 and log 7, what a cold reset keeps
is log 16, images and signatures follow logs 10 and 55, measurements log 65, a stored allotment or plug-in that breaks a limit log 66,
the requests of the controller log 56. -/
def Obligations.BootAndController : Prop :=
  (∀ (f : BootFacts) (s : State), s.boot.held = false → s.cleared.badStep = none →
    ∃ t, exec (.coldReset f) s = .next t ∧ t.mem = [] ∧ t.poison = [] ∧ t.tick = f.lock.getD 0 ∧ t.ptp.running = true ∧
      t.ptp.locked = f.lock.isSome ∧ t.teams = [] ∧ t.grids = [] ∧ t.queues = [] ∧ t.ctxs = [] ∧ t.vers = [] ∧ t.tlb = [] ∧
      t.boot.at_ = 8 ∧ t.boot.held = false ∧ t.boot.proving = false ∧ t.boot.bankB = (s.boot.bankB != s.boot.pending) ∧
      (∀ n, n < 16 → ∃ l ∈ t.links, l.num = n ∧ (l.up = true ↔ n ∈ f.links)) ∧
      (t.parts.map Part.num = s.stored.parts.map PartCfg.num) ∧ (∀ p ∈ t.parts, p.accepting = true ∧ p.idle = 0 ∧ p.meter = 0) ∧
      t.peers = s.stored.peers ∧ (∀ n, n < 96 → (∀ c ∈ s.stored.clusters, c.num ≠ n) → t.cluster n = { num := n }) ∧
      (∀ n, n < 8 → ∃ c ∈ t.fwCores, c.num = n ∧ c.released = true ∧ c.locked = 0xFF ∧ c.sched = true ∧ c.mode = .s) ∧
      (∀ h ∈ t.harts, h.num ≠ 0 → h.status = .stopped) ∧
      (∃ h ∈ t.harts, h.num = 0 ∧ h.status = .started ∧ h.pc = BitVec.ofNat 64 s.stored.osEntry ∧ h.mode = .s ∧ h.getX 10 = 0 ∧
        h.getX 11 = s.stored.deviceTree % 2 ^ 64) ∧
      t.fuses.digests = s.fuses.digests ∧ t.fuses.revoked = s.fuses.revoked ∧ t.stored = s.stored ∧ t.images = s.images ∧
      t.bankA = s.bankA ∧ t.bankB = s.bankB) ∧
  (∀ (f : BootFacts) (s : State) (k : Nat), s.boot.held = false → s.cleared.badStep = some k →
    ∃ t, exec (.coldReset f) s = .next t ∧ t.boot.at_ = k ∧
      (s.cleared.boot.proving = false → t.boot.held = true) ∧
      (s.cleared.boot.proving = true → t.boot.held = false ∧ t.boot.restart = true ∧
        (s.cleared.boot.fails < 2 → t.boot.fails = s.cleared.boot.fails + 1 ∧ t.boot.bankB = s.cleared.boot.bankB) ∧
        (2 ≤ s.cleared.boot.fails → t.boot.proving = false ∧ t.boot.bankB = !s.cleared.boot.bankB))) ∧
  (∀ (n : Nat) (f : BootFacts) (s : State), s.boot.held = false → 1 ≤ n → n ≤ 7 →
    ∃ t, exec (.bootStepFailure ⟨n, f⟩) s = .next t ∧ t.boot.at_ = Nat.min n ((s.cleared.badStep).getD n) ∧
      (s.cleared.boot.proving = false → t.boot.held = true) ∧ ∀ h ∈ t.harts, h.status = .stopped) ∧
  (∀ (f : BootFacts) (s : State), s.boot.held = true → exec (.coldReset f) s = .next s ∧ ∀ n, exec (.bootStepFailure ⟨n, f⟩) s = .next s) ∧
  (∀ s : State, let e : CtrlCore := { pc := BitVec.ofNat 32 (Config.fwAddr 5 0).toNat }
    exec .inputVoltageFault s = .next { s with frozen := true } ∧
    exec .controllerLockstepMismatch s = .next { s with
      frozen := true, ctrl := { a := e, b := e, running := true, bankB := s.boot.bankB, restarts := s.ctrl.restarts + 1 } } ∧
    exec .pldmFreeze s = .next ({ s with frozen := true }.reply (.pldm true)) ∧
    exec (.pldmUnfreeze true) s = .next ({ s with frozen := false }.reply (.pldm true)) ∧
    exec (.pldmUnfreeze false) s = .next (s.reply (.pldm false)) ∧
    exec .pldmColdResetRequest s = .next ({ s with boot := { s.boot with held := false, restart := true } }.reply (.pldm true))) ∧
  (∀ (s : State) (o : Out), 64 ≤ s.ctrl.unit → ∃ ps : List (List Byte), ps ≠ [] ∧
    s.reply o = { s with outbox := (ps.map (Out.mctp 0x0FE2)).reverse ++ o :: s.outbox } ∧
    ps.flatMap (List.drop 4) = Config.mgmtBytes o.fields ∧
    ∀ k p, ps[k]? = some p → p.take 3 = [1, 0, 0] ∧ p.length ≤ 4 + s.ctrl.unit ∧ (k + 1 < ps.length → p.length = 4 + s.ctrl.unit) ∧
      p[3]? = some (BitVec.ofNat 8 ((if k = 0 then 128 else 0) + (if k + 1 = ps.length then 64 else 0) + k % 4 * 16))) ∧
  (∀ (s : State) (rs : List (Sensor × Nat)), s.polledAt + 1000000 ≤ s.tick →
    let step : Sensor → Nat
      | .die _ _ => 250
      | .hbm _ => 1000
      | .converter _ => 1
      | .meter _ => 10
      | .volts => 10
      | .amps => 10
      | .checkerRail _ => 1
    let meter (p : Part) : Nat := (if p.meterCount = 0 then p.meter else p.meterSum / p.meterCount) / 10
    ∃ t, exec (.sensorPoll rs) s = .next t ∧
      (∀ x, x ∈ t.sensors ↔ (∃ p ∈ s.parts, x = (.meter p.num, meter p)) ∨
        ∃ r ∈ rs, s.hasSensor r.1 = true ∧ (∀ n, r.1 ≠ .meter n) ∧ x = (r.1, r.2 / step r.1)) ∧
      t.parts = s.parts.map (fun (p : Part) => { p with meterSum := 0, meterCount := 0 }) ∧ t.polledAt = s.tick ∧
      { t with sensors := s.sensors, parts := s.parts, polledAt := s.polledAt } = s) ∧
  (∀ (s : State) (rs : List (Sensor × Nat)), s.tick < s.polledAt + 1000000 → exec (.sensorPoll rs) s = .next s) ∧
  (∀ (s : State) (id : Sensor) (v : Nat), s.hasSensor id = true → s.sensors.find? (fun r => r.1 == id) = some (id, v) →
    exec (.pldmMonitoringRequest id) s = .next (s.reply (.sensor id v))) ∧
  (∀ (s : State) (ims : List (List Byte)),
    let ok := ims.all s.imageValid && [1, 2, 3, 4].all fun k => ims.countP (fun b => imageKind b == k) == 1
    ∃ t : State, exec (.pldmFirmwareUpdate ims) s = .next (t.reply (.pldm ok)) ∧ t.active = s.active ∧ t.boot.pending = ok ∧
      (if s.boot.bankB then t.bankA else t.bankB).images = ims ∧
      { t with bankA := s.bankA, bankB := s.bankB, boot := s.boot } = s) ∧
  ∀ s : State, let replies (ins : Instr) (m : Spdm) : Prop := exec ins s = .next (s.reply (.spdm m))
    replies .getVersion (.version 0x13) ∧ replies .getCapabilities (.capabilities true true true) ∧
    (∀ a h, replies (.negotiateAlgorithms a h) (if a / 16 % 2 = 1 ∧ h % 2 = 1 then .algorithms 0x10 1 else .error)) ∧
    replies .getDigests (.digests (sha256 s.chain)) ∧
    (∀ off len, off < s.chain.length →
      replies (.getCertificate off len) (.certificate ((s.chain.drop off).take len) (s.chain.length - off - min len (s.chain.length - off)))) ∧
    (∀ nonce, exec (.challenge nonce) s = .next ({ s with nonce := s.nonce + 1 }.reply
      (.spdm (.challenge (Config.ecdsaSign (Config.spdmTranscript nonce s.chain s.nonce)))))) ∧
    replies (.getMeasurements 0) (.measCount s.meas.length) ∧
    (∀ n d, n < 254 → s.meas[n]? = some d → replies (.getMeasurements (n + 1)) (.measurements [(n + 1, d)])) ∧
    replies (.getMeasurements 255) (.measurements (s.meas.zipIdx.map fun m => (m.2 + 1, m.1)))

/-- R53, R54, R63, R76, R134, R135, R251; the codes of HART_START and of unknown arguments are those of SBI 2.0 (log 14), the number of a
new context is open (log 7), the order of the tests of QREG and the end of QUNREG are log 51, the wait of TLBINV log 50, the answers of
FAULTACK log 30; a row whose call no hart's registers make changes nothing (log 2, log 60). -/
def Obligations.FirmwareCalls : Prop :=
  let replies (by_ : Caller) (ins : Instr) (s : State) (u : State) (e : Int) (rs : List Nat) : Prop :=
    exec ins s = .next (u.answer by_ e rs)
  (∀ (s : State) (n : Nat) (h : Hart) (e : Int) (rs : List Nat), s.harts.find? (fun x => x.num == n) = some h → rs.length ≤ 2 →
    ∃ k, (s.answer (.hart n) e rs).harts.find? (fun x => x.num == n) = some k ∧ k.pc = h.pc + 4 ∧
      k.getX 10 = (BitVec.ofInt 64 e).toNat ∧ (∀ j v, rs[j]? = some v → k.getX (11 + j) = v % 2 ^ 64) ∧
      (∀ r, r < 32 → (∀ j, j < rs.length → r ≠ 11 + j) → r ≠ 10 → k.getX r = h.getX r) ∧
      { s.answer (.hart n) e rs with harts := s.harts } = s) ∧
  (∀ (s : State) (n : Nat) (h : Hart), s.harts.find? (fun x => x.num == n) = some h →
    ∃ k, (s.holdCall (.hart n)).harts.find? (fun x => x.num == n) = some k ∧ k.calling = true ∧ { k with calling := h.calling } = h ∧
      k.runs = false ∧ { s.holdCall (.hart n) with harts := s.harts } = s) ∧
  (∀ (s : State) (by_ : Caller),
    let no (fid : Nat) (args : List Nat) : Prop := s.mayCall by_ 0x4F4E4145 fid args = false
    (∀ h a g, s.mayCall by_ 0x48534D 0 [h, a, g] = false → exec (.hartStart ⟨by_, h⟩ a g) s = .next s) ∧
    (∀ c b l, no 0 [c, b, l] → exec (.tlbinv ⟨by_, c⟩ b l) s = .next s) ∧ (∀ a p, no 1 [a] → exec (.qreg ⟨by_, a⟩ p) s = .next s) ∧
    (∀ v q, no 2 [v, q] → exec (.qunreg ⟨by_, v⟩ q) s = .next s) ∧
    (∀ v k a, no 3 [v, k, a] → exec (.faultack ⟨by_, v⟩ k a) s = .next s) ∧
    (∀ p, no 4 [p] → exec (.partinfo ⟨by_, p⟩) s = .next s) ∧
    ∀ v a l c, no 5 [v, a, l, c] → exec (.plugload ⟨by_, v⟩ a l c) s = .next s) ∧
  (∀ (s : State) (ext fid : Nat) (args : List Nat), s.mayCall .pldm ext fid args = false ∧
    ∀ n, s.mayCall (.hart n) ext fid args = true ↔
      ∃ h, s.harts.find? (fun x => x.num == n) = some h ∧ h.status = .started ∧ h.mode = .s ∧ h.await = none ∧
        h.getX 17 = ext ∧ h.getX 16 = fid ∧ ∀ j v, args[j]? = some v → h.getX (10 + j) = v) ∧
  ∀ (s : State) (by_ : Caller),
    let may (fid : Nat) (args : List Nat) : Prop := s.mayCall by_ 0x4F4E4145 fid args = true
  (∀ (hart addr arg : Nat), s.mayCall by_ 0x48534D 0 [hart, addr, arg] = true →
    (s.harts.find? (fun x => x.num == hart) = none → replies by_ (.hartStart ⟨by_, hart⟩ addr arg) s s (-3) []) ∧
    (∀ h, s.harts.find? (fun x => x.num == hart) = some h →
      (h.status ≠ .stopped → replies by_ (.hartStart ⟨by_, hart⟩ addr arg) s s (-6) []) ∧
      (h.status = .stopped → 0x00C000000000 ≤ addr → replies by_ (.hartStart ⟨by_, hart⟩ addr arg) s s (-5) []) ∧
      (h.status = .stopped → addr < 0x00C000000000 →
        (∃ u, replies by_ (.hartStart ⟨by_, hart⟩ addr arg) s u 0 [] ∧ { u with harts := s.harts } = s ∧
          (∀ m, m ≠ hart → u.harts.find? (fun x => x.num == m) = s.harts.find? fun x => x.num == m) ∧
          ∃ k, u.harts.find? (fun x => x.num == hart) = some k ∧ k.status = .started ∧ k.pc = BitVec.ofNat 64 addr ∧
            k.mode = .s ∧ k.getX 10 = hart % 2 ^ 64 ∧ k.getX 11 = arg % 2 ^ 64)))) ∧
  (∀ (ctx base len : Nat), may 0 [ctx, base, len] → (∀ c ∈ s.copies, (s.team? c.team).map Team.ctx ≠ some ctx) →
    let gone (e : TlbEntry) : Bool := e.ctx == ctx && (len == 0 ||
      (decide (e.vpage * 4096 % 2 ^ 57 < base % 2 ^ 57 + len) && decide (base % 2 ^ 57 < e.vpage * 4096 % 2 ^ 57 + 4096)))
    let u := { s with tlb := s.tlb.filter fun e => !gone e }
    (s.inFlight ctx = true → exec (.tlbinv ⟨by_, ctx⟩ base len) s = .next (u.holdCall by_)) ∧
    (s.inFlight ctx = false → replies by_ (.tlbinv ⟨by_, ctx⟩ base len) s u 0 [])) ∧
  (∀ (addr : Nat) (pl : Plug), may 1 [addr] →
    let b := (s.physRead addr 64).2
    let u := (s.physRead addr 64).1.takeNonce
    let vf := fieldAt b 0 1
    let q := fieldAt b 1 1
    let class_ := fieldAt b 2 1
    let within := vf < 192 ∧ q < 64 ∧ 1 ≤ class_ ∧ class_ ≤ 3 ∧ fieldAt b 3 1 < 2 ∧ fieldAt b 4 1 < 4 ∧ fieldAt b 5 3 = 0 ∧
      fieldAt b 0x14 4 = 0 ∧ fieldAt b 0x18 8 % 64 = 0 ∧ leNum ((b.drop 0x30).take 16) = 0
    (¬ within → replies by_ (.qreg ⟨by_, addr⟩ pl) s u (-3) []) ∧
    (within → (s.vf vf).part = none → replies by_ (.qreg ⟨by_, addr⟩ pl) s u (-4) []) ∧
    (within → (s.vf vf).part ≠ none → u.qcbMaps b = false → replies by_ (.qreg ⟨by_, addr⟩ pl) s u (-5) []) ∧
    (within → (s.vf vf).part ≠ none → u.qcbMaps b = true →
      (s.queue? vf q ≠ none → replies by_ (.qreg ⟨by_, addr⟩ pl) s u (-6) []) ∧
      (s.queue? vf q = none → (s.vf vf).plugin = none → (∃ n, n < 4096 ∧ ∀ c ∈ s.ctxs, c.num ≠ n) →
        ∃ t c x, replies by_ (.qreg ⟨by_, addr⟩ pl) s t 0 [c] ∧ t.queue? vf q = some x ∧
          x.ctx = c ∧ x.enable = false ∧ x.sh.prioClass = class_ ∧ x.sh.satp.toNat = fieldAt b 0x20 8 ∧
          x.sh.hgatp.toNat = fieldAt b 0x28 8 ∧ x.sh.qcbAddr.toNat = fieldAt b 0x18 8 ∧
          (∀ y ∈ s.queues, y.vf = vf → y.sh.satp.toNat = fieldAt b 0x20 8 → y.sh.hgatp.toNat = fieldAt b 0x28 8 →
            ∃ z ∈ s.queues, z.vf = vf ∧ z.ctx = c) ∧
          ((∀ y ∈ s.queues, ¬ (y.vf = vf ∧ y.sh.satp.toNat = fieldAt b 0x20 8 ∧ y.sh.hgatp.toNat = fieldAt b 0x28 8)) →
            c < 4096 ∧ ∀ d ∈ s.ctxs, d.num ≠ c)))) ∧
  (∀ (vf q : Nat) (x : Queue), may 2 [vf, q] → s.queue? vf q = some x →
    (x.busy = true → exec (.qunreg ⟨by_, vf⟩ q) s = .next ((s.updQueue vf q fun x => { x with draining := true }).holdCall by_)) ∧
    (x.busy = false → ∃ t, replies by_ (.qunreg ⟨by_, vf⟩ q) s t 0 [] ∧ t.queue? vf q = none ∧
      t.mem = s.mem ∧ t.teams = s.teams ∧ ∀ v p, (v, p) ≠ (vf, q) → t.queue? v p = s.queue? v p)) ∧
  (∀ (vf q : Nat), may 2 [vf, q] → s.queue? vf q = none → replies by_ (.qunreg ⟨by_, vf⟩ q) s s (-3) []) ∧
  (∀ (vf serial act : Nat), may 3 [vf, serial, act] → ((s.vf vf).faults.all fun e => e.serial != serial) = true →
    replies by_ (.faultack ⟨by_, vf⟩ serial act) s s (-3) []) ∧
  (∀ (vf serial : Nat) (e : FaultEntry), e ∈ (s.vf vf).faults → e.serial = serial →
    (may 3 [vf, serial, 0] → replies by_ (.faultack ⟨by_, vf⟩ serial 0) s ((s.retryFault vf serial).wakeVf vf) 0 []) ∧
    (may 3 [vf, serial, 1] → replies by_ (.faultack ⟨by_, vf⟩ serial 1) s ((s.killFault vf serial).wakeVf vf) 0 []) ∧
    ∀ act, may 3 [vf, serial, act] → 2 ≤ act → replies by_ (.faultack ⟨by_, vf⟩ serial act) s s (-3) []) ∧
  (∀ (p : Part), may 4 [p.num] → p ∈ s.parts → (∀ x ∈ s.parts, x.num = p.num → x = p) →
    replies by_ (.partinfo ⟨by_, p.num⟩) s s 0 [p.galleries.toNat, p.allot.toNat]) ∧
  (∀ n, may 4 [n] → (∀ p ∈ s.parts, p.num ≠ n) → replies by_ (.partinfo ⟨by_, n⟩) s s (-3) []) ∧
  (∀ (vf addr ctl : Nat), may 5 [vf, addr, 0, ctl] →
    let u := s.updVf vf fun v => { v with plugin := none }
    ((s.vf vf).part = none → replies by_ (.plugload ⟨by_, vf⟩ addr 0 ctl) s s (-4) []) ∧
    ((s.vf vf).part ≠ none → replies by_ (.plugload ⟨by_, vf⟩ addr 0 ctl) s { u with meas := updAt u.meas 4 fun _ => u.pluginDigest } 0 [])) ∧
  ∀ (vf addr len ctl : Nat), may 5 [vf, addr, len, ctl] → len ≠ 0 →
    let h := (s.physRead addr 64).2
    let code := fieldAt h 8 4
    let data := fieldAt h 12 4
    let within := fieldAt h 0 4 = 0x4F4E504C ∧ fieldAt h 4 4 = 0x00010000 ∧ code % 4 = 0 ∧ 4 ≤ code ∧ code ≤ 65536 ∧ data ≤ 65536 ∧
      data + fieldAt h 16 4 ≤ 65536 ∧ fieldAt h 20 4 % 4 = 0 ∧ fieldAt h 20 4 < code ∧ leNum ((h.drop 0x18).take 40) = 0 ∧
      len = 0x40 + code + data
    (¬ within → replies by_ (.plugload ⟨by_, vf⟩ addr len ctl) s (s.physRead addr 64).1.takeNonce (-3) []) ∧
    (within → (s.vf vf).part = none → replies by_ (.plugload ⟨by_, vf⟩ addr len ctl) s (s.physRead addr 64).1.takeNonce (-4) []) ∧
    (within → (s.vf vf).part ≠ none →
      let b := (s.physRead addr len).2
      let p : Plugin := { image := b, entry := fieldAt b 20 4, control := ctl, code := (b.drop 0x40).take (fieldAt b 8 4),
                          data := ssetAll (0 : Byte) [] (layAt 0 ((b.drop (0x40 + fieldAt b 8 4)).take (fieldAt b 12 4))),
                          dataBytes := fieldAt b 12 4 + fieldAt b 16 4 }
      let u := (s.physRead addr len).1.takeNonce.updVf vf fun v => { v with plugin := some p }
      replies by_ (.plugload ⟨by_, vf⟩ addr len ctl) s { u with meas := updAt u.meas 4 fun _ => u.pluginDigest } 0 [])

/-- R77 to R80, R128 to R130; the model streams an image in one step and answers a failed call with SBI_ERR_FAILED (log 14); CKPT and RESTORE
without an expander are refused with INVALID_PARAM (log 66); which memory and work an image carries is log 52, the configuration's bytes are log 15;
a row that names a call no hart makes changes nothing (log 2). -/
def Obligations.CheckpointsAndPartitions : Prop :=
  (∀ (s : State) (by_ : Caller) (part slot : Nat), s.ckpt = none → by_ = .pldm ∨ s.mayCall by_ 0x4F4E4145 6 [part, slot] = true →
    (s.safeTier = true → s.partsNamed part ≠ [] → (∃ x ∈ s.stored.slots, x.1 = slot) →
      ∃ t, exec (.ckpt ⟨by_, part⟩ slot) s = .next t ∧ t.ckpt = some { parts := s.partsNamed part, slot := slot, by_ := by_ } ∧
        t.mem = s.mem ∧ t.outbox = s.outbox ∧ t.harts = (s.holdCall by_).harts ∧ ∀ n ∈ s.partsNamed part, (t.part n).quiet = true) ∧
    (s.safeTier = false ∨ s.partsNamed part = [] ∨ (∀ x ∈ s.stored.slots, x.1 ≠ slot) →
      exec (.ckpt ⟨by_, part⟩ slot) s = .next (s.answer by_ (-3) []))) ∧
  (∀ (s : State) (by_ : Caller) (part slot : Nat), s.ckpt = some { parts := s.partsNamed part, slot := slot, by_ := by_ } →
    (∀ p ∈ s.partsNamed part, s.isQuiet p = true) →
    ∃ t i, exec (.ckpt ⟨by_, part⟩ slot) s = .next t ∧
      t.ckpt = some { parts := s.partsNamed part, slot := slot, by_ := by_, image := some i } ∧
      i.slot = slot ∧ i.magic = 0x4F4E434B ∧ i.tick = s.tick ∧ i.galleries = s.galleriesOf (s.partsNamed part) ∧ i.layout = s.partDigest ∧
      i.digest = t.memDigest (s.partsNamed part) i.mem ∧ i.saves.map PartSave.part = s.partsNamed part ∧
      (∀ c, c ∈ i.mem ↔ c ∈ t.mem ∧ t.carried (s.partsNamed part) c.1 = true)) ∧
  (∀ (s : State) (r : CkptRun) (i : CkptImage) (ok : Bool) (bytes status : Nat), s.ckpt = some r → r.image = some i →
    let u := { s with ckpt := none, parts := s.parts.map fun (p : Part) => if r.parts.contains p.num then { p with quiet := false } else p }
    (ok = true → exec (.checkpointComplete ok bytes status) s = .next ({ u with images := s.images ++ [i] }.answer r.by_ 0 [])) ∧
    (ok = false → ∃ e, exec (.checkpointComplete ok bytes status) s = .next
        ({ u with errLog := (e :: s.errLog).take 65536, evSeq := (s.evSeq + 1) % 65536,
                  blackBox := (if s.frozen then s.blackBox else (e :: s.blackBox).take 4096) }.answer r.by_ (-1) []) ∧
      e.kind = 0x0401 ∧ e.sev = 2 ∧ e.tick = s.tick ∧ e.seq = s.evSeq ∧
      e.detail = leList 8 bytes ++ leList 4 status ++ [0, 0, 0, 0])) ∧
  (∀ (i : CkptImage), i.tick < 2 ^ 64 → i.header.length = 4096 ∧ fieldAt i.header 0 4 = i.magic.toNat ∧ fieldAt i.header 4 4 = 0 ∧
    fieldAt i.header 8 8 = i.tick ∧ fieldAt i.header 0x10 8 = i.galleries.toNat ∧ leNum ((i.header.drop 0x18).take 32).reverse = i.layout.toNat ∧
    leNum ((i.header.drop 0x38).take 32).reverse = i.digest.toNat ∧ ∀ b ∈ i.header.drop 0x58, b = 0) ∧
  (∀ (s : State) (by_ : Caller) (part slot : Nat) (ok : Bool) (bytes status : Nat), by_ = .pldm ∨ s.mayCall by_ 0x4F4E4145 7 [part, slot] = true →
    (s.safeTier = false ∨ (∀ i ∈ s.images, i.slot ≠ slot) → exec (.restore ⟨by_, part⟩ slot ok bytes status) s = .next (s.answer by_ (-3) [])) ∧
    ∀ (i : CkptImage), s.safeTier = true → s.images.find? (fun x => x.slot == slot) = some i →
    (s.partsNamed part = [] ∨ i.magic ≠ 0x4F4E434B ∨ i.layout ≠ s.partDigest ∨ i.galleries ≠ s.galleriesOf (s.partsNamed part) →
      exec (.restore ⟨by_, part⟩ slot ok bytes status) s = .next (s.answer by_ (-3) [])) ∧
    (s.partsNamed part ≠ [] → s.restorable (s.partsNamed part) i = true →
      (ok = true → i.digest = s.memDigest (s.partsNamed part) i.mem →
        ∃ (u t : State), t = wakeAll (u.answer by_ 0 []) ∧ exec (.restore ⟨by_, part⟩ slot ok bytes status) s = .next t ∧
          (∀ c ∈ i.mem, (∀ d ∈ i.mem, d.1 = c.1 → d = c) → memByte t.mem c.1 = c.2) ∧
          ∀ v, i.saves = [v] → ∀ x ∈ v.teams, ∃ y ∈ t.teams, y.key = x.key ∧ ∃ n, y.place = .ready n) ∧
      (ok = false ∨ i.digest ≠ s.memDigest (s.partsNamed part) i.mem →
        ∃ (u : State) (e : Event), exec (.restore ⟨by_, part⟩ slot ok bytes status) s = .next (wakeAll (u.answer by_ (-1) [])) ∧
          u.errLog.head? = some e ∧ e.kind = 0x0401 ∧
          e.detail = leList 8 bytes ++ leList 4 (if ok then 0 else status) ++ [1, 0, 0, 0]))) ∧
  (∀ (s : State) (part v : Nat), (∃ p ∈ s.parts, p.num = part) →
    let n := (s.part part).galleryCount
    let others := ((s.parts.filter fun p => p.num != part).map Part.allotted).sum
    let w := v % 2 ^ 22
    (30000 * n ≤ w → w ≤ 120000 * n → others + w ≤ 3450000 →
      exec (.partAllotWrite part v) s = .next (s.updPart part fun p => { p with pendAllot := some (BitVec.ofNat 22 w) })) ∧
    (¬ (30000 * n ≤ w ∧ w ≤ 120000 * n ∧ others + w ≤ 3450000) → ∃ t e, exec (.partAllotWrite part v) s = .next t ∧
      t.parts = s.parts ∧ t.errLog = (e :: s.errLog).take 65536 ∧ e.kind = 0x0901 ∧ e.part = part)) ∧
  ∀ (s : State) (part : Nat) (g : BitVec 48) (a : Option Nat) (rs : List (Nat × Nat)),
    (s.mayRepartition part g rs = false → exec (.repartition part ⟨g, rs⟩ a) s = .next s) ∧
    (part < 48 → s.gatePending part = false → s.teamsIn part = [] → s.rangesOk part g rs = true →
      (∀ p ∈ s.parts, p.num ≠ part → p.galleries &&& g = 0) →
      (g ≠ 0 → ∃ t, exec (.repartition part ⟨g, rs⟩ a) s = .next t ∧ (t.part part).galleries = g ∧ (t.part part).ranges = rs ∧
        (t.part part).thermal = s.thermalOf g ∧
        (∀ c ∈ (t.part part).clusters, c ∉ (s.part part).clusters →
          t.cluster c = { s.cluster c with grant := .nom, low := (s.part part).idle == 2 }.toClock (ladder (s.part part).throt) s.tick) ∧
        (t.part part).accepting = (decide (7 ≤ s.boot.at_) && !(s.part part).down) ∧
        (∀ n, n ≠ part → t.part n = s.part n) ∧ (∀ k, k < 48 → g.getLsbD k = true → (k, part) ∈ t.fabric) ∧
        t.meas = updAt s.meas 6 (fun _ => t.partDigest) ∧ t.teams = s.teams ∧ t.mem = s.mem) ∧
      (g = 0 → (∀ q ∈ s.queues, s.partOfVf q.vf ≠ part) →
        ∃ t, exec (.repartition part ⟨g, rs⟩ a) s = .next t ∧ (∀ p, p ∈ t.parts ↔ p ∈ s.parts ∧ p.num ≠ part) ∧
          (∀ v ∈ t.vfs, v.part ≠ some part) ∧ t.teams = s.teams ∧ t.mem = s.mem))

/-- R8, R82 to R105, R132, R184, R190, R237. Readings (`power`, a temperature, a shortfall) are facts of the run, and a device step that is
not due changes nothing (log 2); the first cycle of the floor's alternation, ratio switches on the way and LOW in C2 are log 46, FALLEN
after a write of BOOSTMIN log 63, an idle state entered only if it can be left before the next gate log 72, the layers that reach a
register log 60. -/
def Obligations.Power : Prop :=
  let runsAt (p : Part) (low : Bool) (c : Cluster) (tick : Nat) : Cluster :=
    { c with low := low }.toClock (match c.grant with
      | .nom => ladder p.throt
      | .rise => 1900 + 100 * min c.boostF.toNat 2
      | .boost => 1900 + 100 * min c.boostF.toNat 2
      | .fall => 1900
      | .descend => 1700) tick
  (∀ (s : State) (n power : Nat), (∃ p ∈ s.parts, p.num = n) → s.tick % 1000 = 0 → (s.part n).meterAt ≤ s.tick →
    let p := s.part n
    let a := p.pendAllot.getD p.allot
    let m := power % 2 ^ 23
    let held (c : Nat) : Prop := c ∈ p.clusters ∧ (s.cluster c).holdsGrant = true
    let low := ∀ c ∈ p.clusters, (s.cluster c).mhz = 600 ∧ ((s.cluster c).switchEnd = none ∨ (s.cluster c).targetMhz = 600)
    let clusters (t : State) (f : Cluster → Cluster) : Prop :=
      (∀ c ∈ p.clusters, t.cluster c = f (s.cluster c)) ∧ ∀ c, c ∉ p.clusters → t.cluster c = s.cluster c
    ∃ t, exec (.meterUpdate n power) s = .next t ∧ (t.part n).meter = m ∧ (t.part n).allot = a ∧ (t.part n).pendAllot = none ∧
      (t.part n).meterSum = p.meterSum + m ∧ (t.part n).meterCount = p.meterCount + 1 ∧
      t.mem = s.mem ∧ t.teams = s.teams ∧
      (a.toNat < m → ∀ c, held c → ∃ c, held c ∧
        (∀ d, held d → (s.cluster c).permits < (s.cluster d).permits ∨ ((s.cluster c).permits = (s.cluster d).permits ∧ d ≤ c)) ∧
        t.cluster c = (s.cluster c).descend s.tick ∧ (∀ d, d ≠ c → t.cluster d = s.cluster d) ∧ (t.part n).throt = p.throt) ∧
      (a.toNat < m → (∀ c, ¬ held c) → ¬ low → p.throt < 5 → (t.part n).throt = p.throt + 1 ∧ clusters t fun c => c.toClock (ladder (p.throt + 1)) s.tick) ∧
      (a.toNat < m → (∀ c, ¬ held c) → low → 63 ≤ p.overRuns → p.floor = false →
        (t.part n).floor = true ∧ (clusters t fun c => { c with floorFrom := some (c.cycle + 1) }) ∧ ∃ e, t.errLog.head? = some e ∧ e.kind = 0x0801 ∧ e.part = n) ∧
      (m ≤ a.toNat → (t.part n).floor = false) ∧
      (m ≤ a.toNat → 10 * m ≤ 9 * a.toNat → 7 ≤ p.lowRuns → 0 < p.throt → (t.part n).throt = p.throt - 1 ∧ (t.part n).lowRuns = 0 ∧
        clusters t fun c => { c with floorFrom := none }.toClock (ladder (p.throt - 1)) s.tick) ∧
      (m ≤ a.toNat → 9 * a.toNat < 10 * m ∨ p.lowRuns < 7 ∨ p.throt = 0 → (t.part n).throt = p.throt ∧
        clusters t fun c => { c with floorFrom := none })) ∧
  (∀ (s : State) (n : Nat), s.tick % 4000 = 0 → (s.part n).boundary ≤ s.tick →
    let p := s.part n
    let k (c : Nat) : Cluster := (s.cluster c).atBoundary (ladder p.throt) s.tick
    let held := (((p.clusters.map k).filter Cluster.holdsGrant).map Cluster.watts).sum
    let won := grantAll ((p.allot.toNat : Int) - p.base.toNat - held) (sortClaims ((p.clusters.map k).filter fun c => c.claims p.throt))
    ∃ t, exec (.boostBoundary n) s = .next t ∧ (t.part n).boundary = s.tick + 1 ∧
      (∀ c ∈ p.clusters, t.cluster c = if won.contains c then (k c).rise s.tick else k c) ∧ ∀ c, c ∉ p.clusters → t.cluster c = s.cluster c) ∧
  (∀ (c : Cluster) (nominal tick : Nat),
    (c.grant = .nom → c.atBoundary nominal tick = c) ∧
    (c.holdsGrant = true → c.idleSince ≠ none → c.atBoundary nominal tick = c.descend tick) ∧
    (c.grant = .rise ∨ c.grant = .boost → c.idleSince = none →
      (1 ≤ c.permits → c.atBoundary nominal tick = { c with grant := .boost, permits := c.permits - 1 }) ∧
      (c.permits = 0 → c.atBoundary nominal tick = { c with grant := .fall, fallen := true }.toClock 1900 tick)) ∧
    (c.grant = .fall → c.atBoundary nominal tick = { c with grant := .descend }.toClock 1700 tick) ∧
    (c.grant = .descend → c.atBoundary nominal tick = { c with grant := .nom }.toClock nominal tick) ∧
    (c.claims 0 = true ↔ c.ben = true ∧ c.idleSince = none ∧ c.grant = .nom ∧ 1 ≤ c.permits ∧
      (c.fallen = true → c.boostMin.toNat ≤ c.permits))) ∧
  (∀ (room : Int) (c : Cluster) (cs : List Cluster),
    ((c.watts : Int) ≤ room → grantAll room (c :: cs) = c.num :: grantAll (room - c.watts) cs) ∧
    (room < c.watts → grantAll room (c :: cs) = [])) ∧
  (∀ (c : Cluster) (mhz tick : Nat),
    (c.switchEnd ≠ none → c.low = false → c.toClock mhz tick = { c with targetMhz := mhz }) ∧
    (c.low = true → c.toClock mhz tick = { { c with low := false }.toClock 600 tick with low := true })) ∧
  (∀ (c : Cluster) (mhz tick : Nat), c.switchEnd = none → c.low = false →
    (ratioOf mhz = c.ratio → c.toClock mhz tick = { c with mhz := mhz, targetMhz := mhz }) ∧
    (c.ratio < ratioOf mhz → c.toClock mhz tick =
      { c with mhz := lowestOf c.ratio, targetMhz := mhz, switchEnd := some (tick + 1000), switchTo := [c.ratio + 1] }) ∧
    (ratioOf mhz < c.ratio → c.toClock mhz tick =
      { c with mhz := mhz, targetMhz := mhz, switchEnd := some (tick + 1000), switchTo := [c.ratio - 1] })) ∧
  (∀ (s : State) (c e : Nat), (s.cluster c).switchEnd = some e → e ≤ s.tick →
    exec (.ratioSwitchComplete c) s = .next (s.updCluster c fun k =>
      { k with ratio := (k.switchTo.head?).getD k.ratio, switchEnd := none, switchTo := [] }.toClock k.targetMhz s.tick)) ∧
  (∀ (s : State) (c since : Nat), (s.cluster c).idleSince = some since → since + 16000 * ((s.cluster c).idleAdds + 1) ≤ s.tick →
    exec (.permitRefill c) s = .next (s.updCluster c fun k => { k with
      permits := min 64 (k.permits + 1), idleAdds := k.idleAdds + 1
      fallen := k.fallen && decide (min 64 (k.permits + 1) < max k.boostMin.toNat 1) })) ∧
  (∀ (s : State) (c : Nat),
    (∀ mv, mv < (s.cluster c).droopTh.toNat ∨ 0 < (s.cluster c).stretch → exec (.droopAlarm ⟨c, mv⟩) s = .next s) ∧
    (∀ mv, (s.cluster c).droopTh.toNat ≤ mv → (s.cluster c).stretch = 0 → exec (.droopAlarm ⟨c, mv⟩) s = .next (s.updCluster c fun k => { k with
      stretch := 6000, halved := 64000, span := true, alarm := some k.cycle, droopCnt := if k.droopCnt = 0xFFFFFFFF then 0xFFFFFFFF else k.droopCnt + 1 })) ∧
    ((s.cluster c).span = true → (s.cluster c).stretch = 0 → (s.cluster c).halved = 0 →
      exec (.droopSpanEnd c) s = .next (s.updCluster c fun k => { k with span := false }))) ∧
  (∀ (s : State) (c : Nat) (r : Release) (rs : List Release), (s.cluster c).releases = r :: rs →
    let due : Prop := (s.cluster c).waveWarps = 0 ∨ ((r.at_ / 1000 + 1) * 1000 ≤ (s.cluster c).kcyc ∧
      ∀ k, (s.cluster c).lastWave = some k → ((k + 1000 * max (s.cluster c).stepCycles.toNat 1) / 1000 + 1) * 1000 ≤ (s.cluster c).kcyc)
    (due → exec (.releaseWave c) s = .next (waveOf s c)) ∧ (¬ due → exec (.releaseWave c) s = .next s)) ∧
  (∀ (s : State) (c : Nat) (r : Release) (w : Warp) (t : Team),
    (s.cluster c).releases = [r] → s.team? r.team = some t → t.warpAt w.id = some w → w.id ∈ r.warps →
    ((s.cluster c).waveWarps = 0 ∨ r.warps.length ≤ min (s.cluster c).waveWarps.toNat 32) →
    (∀ x, r.warps.count x ≤ 1) →
    ((waveOf s c).cluster c).releases = [] ∧ ((waveOf s c).team? r.team).bind (fun u => u.warpAt w.id) = some w.waveGo) ∧
  (∀ (s : State) (n : Nat), (∃ p ∈ s.parts, p.num = n) → (s.part n).wakeAt = none → s.restful n = true → s.c4Ok = false →
    let l := (s.part n).lattol.toNat
    let fits (us : Nat) : Bool := us ≤ l && ((s.part n).slalom.nextStart.map fun t => decide (s.tick + 1000 * us ≤ t)).getD true
    let d := if fits 2000 = true then 3 else if fits 40 = true then 2 else if fits 2 = true then 1 else 0
    (d ≤ (s.part n).idle.toNat → exec (.idleEntry n) s = .next s) ∧
    ((s.part n).idle.toNat < d → ∃ t, exec (.idleEntry n) s = .next t ∧ t.part n = { s.part n with idle := BitVec.ofNat 3 d } ∧
      (∀ m, m ≠ n → t.part m = s.part m) ∧
      (∀ c ∈ (s.part n).clusters, t.cluster c = runsAt (s.part n) (decide (d = 2)) (s.cluster c) s.tick) ∧
      (∀ c, c ∉ (s.part n).clusters → t.cluster c = s.cluster c) ∧
      (∀ x, x ∈ t.lines ↔ x ∈ s.lines ∧ (t.part (s.partOfVf (s.ctx x.ctx).vf)).idle.toNat < 3) ∧
      { t with parts := s.parts, clusters := s.clusters, lines := s.lines } = s)) ∧
  (∀ (s : State) (n : Nat), (∃ p ∈ s.parts, p.num = n) → s.c4Ok = true → ∃ t, exec (.idleEntry n) s = .next t ∧
    t.c4 = true ∧ t.parts = s.parts.map (fun (p : Part) => { p with idle := 4 }) ∧
    (∀ x, x ∈ t.lines ↔ x ∈ s.lines ∧ ∀ p ∈ s.parts, p.num ≠ s.partOfVf (s.ctx x.ctx).vf) ∧
    { t with parts := s.parts, lines := s.lines, c4 := s.c4 } = s) ∧
  (∀ (s : State) (n : Nat), (s.part n).wakeAt = none → (s.part n).idle ≠ 0 → ∃ t, exec (.idleExit n) s = .next t ∧
    t.part n = { s.part n with wakeAt := some (s.tick + 1000 * exitMicros (s.part n).idle.toNat) } ∧
    (∀ m, m ≠ n → t.part m = s.part m) ∧ { t with parts := s.parts } = s) ∧
  (∀ (s : State) (n w : Nat), (s.part n).wakeAt = some w →
    (s.tick < w → exec (.idleExit n) s = .next s) ∧
    (w ≤ s.tick → ∃ t, exec (.idleExit n) s = .next t ∧ t.c4 = false ∧ (t.part n).idle = 0 ∧ (t.part n).wakeAt = none ∧
      (∀ m, m ≠ n → t.part m = if s.c4 = true ∧ (s.part m).idle = 4 then { s.part m with idle := 3 } else s.part m) ∧
      (∀ c ∈ (s.part n).clusters, t.cluster c = runsAt (s.part n) false (s.cluster c) s.tick) ∧
      (∀ c, c ∉ (s.part n).clusters → t.cluster c = s.cluster c) ∧
      { t with parts := s.parts, clusters := s.clusters, c4 := s.c4 } = s)) ∧
  (exitMicros 1 = 2 ∧ exitMicros 2 = 40 ∧ exitMicros 3 = 2000 ∧ exitMicros 4 = 50000) ∧
  (∀ (s : State) (stack temp : Nat), stack < 12 →
    let old := sget 0 s.stages stack
    let new := stageOf old temp
    (new = old → exec (.hbmThermalStage stack temp) s = .next s) ∧
    (new ≠ old → ∃ t, exec (.hbmThermalStage stack temp) s = .next t ∧ sget 0 t.stages stack = new ∧
      (∀ k, k ≠ stack → sget 0 t.stages k = sget 0 s.stages k) ∧ t.teams = s.teams ∧
      t.parts = s.parts.map fun (p : Part) => if [0, 1, 2, 3].any (fun j => p.galleries.getLsbD (4 * stack + j)) = true
        then { p with thermal := sset 256 p.thermal stack (if new = 0 then 256 else if new = 1 then 240 else 128) } else p)) ∧
  (∀ old temp, stageOf old temp = (if 95 ≤ temp ∨ (old = 2 ∧ 92 ≤ temp) then 2 else if 85 ≤ temp ∨ (1 ≤ old ∧ 82 ≤ temp) then 1 else 0)) ∧
  (∀ (s : State) (by_ : Layer) (r : MReg) (v : Nat), s.mayReach by_ r = false → exec (.registerWrite ⟨by_, r⟩ v) s = .next s ∧
    s.regRead by_ r = s) ∧
  (∀ (s : State) (by_ : Layer) (r : MReg) (v : Nat), s.mayReach by_ r = true → s.readReg r = some v →
    s.regRead by_ r = { s with outbox := .reg r v :: s.outbox }) ∧
  (∀ (s : State) (n : Nat),
    s.readReg (.partMeter n) = some ((s.part n).meter % 2 ^ 23 + 2 ^ 23 * (s.part n).throt + if (s.part n).floor then 2 ^ 27 else 0) ∧
    s.readReg (.partAllot n) = some ((s.part n).pendAllot.getD (s.part n).allot).toNat ∧
    (∀ v, v < 2 ^ 22 → s.allotOk n v = true → (∃ p ∈ s.parts, p.num = n) → (s.writeReg (.partAllot n) v).readReg (.partAllot n) = some v) ∧
    (∀ v, n < 4096 → (s.writeReg (.ctxL2lim n) v).readReg (.ctxL2lim n) = some (v % 2 ^ 21) ∧
      (s.writeReg (.ctxL2lim n) v).readReg (.ctxMsclim n) = s.readReg (.ctxMsclim n) ∧
      (s.writeReg (.ctxMsclim n) v).readReg (.ctxMsclim n) = some (v % 2 ^ 25) ∧
      (s.writeReg (.ctxMsclim n) v).readReg (.ctxL2lim n) = s.readReg (.ctxL2lim n)) ∧
    s.readReg (.partIdle n) = some ((s.part n).lattol.toNat + 2 ^ 20 * (s.part n).idle.toNat) ∧
    s.readReg (.coreInj n) = some (s.core n).inj.toNat ∧ s.readReg (.notify n 0x208 4) = some (s.vf n).evtHead.toNat ∧
    s.readReg (.notify n 0x20C 4) = some (s.vf n).evtTail.toNat ∧ s.readReg (.notify n 0xE00 4) = some (s.vf n).cnt.ce.toNat ∧
    (∀ q, q < 64 → s.readReg (.notify n (0x100 + 4 * q) 4) = some (s.qstat n q)) ∧ s.readReg (.notify n 0 4) = some 0) ∧
  ∀ (s : State) (by_ : Layer) (n v : Nat), n < 96 →
    (s.mayReach by_ (.clBoost n) = true →
      let new (c : Cluster) : Cluster := { c with
        ben := v % 2 == 1, boostF := if v / 2 % 4 = 3 then c.boostF else BitVec.ofNat 2 (v / 2), boostW := BitVec.ofNat 8 (v / 2 ^ 8)
        boostMin := BitVec.ofNat 6 (v / 2 ^ 16) }
      ∃ t, exec (.registerWrite ⟨by_, (.clBoost n)⟩ v) s = .next t ∧ (∀ m, m ≠ n → t.cluster m = s.cluster m) ∧ { t with clusters := s.clusters } = s ∧
        (((s.cluster n).grant ≠ .rise ∧ (s.cluster n).grant ≠ .boost) ∨ v / 2 % 4 = 3 → t.cluster n = new (s.cluster n)) ∧
        ((s.cluster n).grant = .rise ∨ (s.cluster n).grant = .boost → (new (s.cluster n)).boostF ≠ (s.cluster n).boostF →
          t.cluster n = (new (s.cluster n)).toClock (1900 + 100 * (v / 2 % 4)) s.tick)) ∧
    (s.mayReach by_ (.clDroop n) = true → 20 ≤ v → v ≤ 100 →
      exec (.registerWrite ⟨by_, (.clDroop n)⟩ v) s = .next (s.updCluster n fun c => { c with droopTh := BitVec.ofNat 7 v })) ∧
    (s.mayReach by_ (.cslope n) = true → exec (.registerWrite ⟨by_, (.cslope n)⟩ v) s = .next (s.updCluster n fun c =>
      { c with waveWarps := BitVec.ofNat 6 v, stepCycles := BitVec.ofNat 8 (v / 2 ^ 8) })) ∧
    exec (.registerWrite ⟨by_, (.partMeter n)⟩ v) s = .next s ∧ exec (.registerWrite ⟨by_, (.ctxL2occ n)⟩ v) s = .next s ∧
    (∀ p ∈ s.parts, p.num = n → s.mayReach by_ (.partBase n) = true →
      ∃ t, exec (.registerWrite ⟨by_, (.partBase n)⟩ v) s = .next t ∧ (t.part n).base.toNat = v % 2 ^ 22) ∧
    (∀ p ∈ s.parts, p.num = n → s.mayReach by_ (.partIdle n) = true →
      ∃ t, exec (.registerWrite ⟨by_, (.partIdle n)⟩ v) s = .next t ∧ (t.part n).lattol.toNat = v % 2 ^ 20) ∧
    (∀ p ∈ s.parts, p.num = n → s.mayReach by_ (.partSched n) = true → 16 ≤ v → v < 65536 →
      ∃ t, exec (.registerWrite ⟨by_, (.partSched n)⟩ v) s = .next t ∧ (t.part n).fairn.toNat = v) ∧
    (s.mayReach by_ (.coreInjk n) = true →
      exec (.registerWrite ⟨by_, (.coreInjk n)⟩ v) s = .next (s.updCore n fun c => { c with injK := BitVec.ofNat 32 (v % 65536) })) ∧
    (s.mayReach by_ (.fabric n) = true → n < 48 → v < 48 → ∃ t, exec (.registerWrite ⟨by_, (.fabric n)⟩ v) s = .next t ∧
      t.readReg (.fabric n) = some v) ∧
    (s.mayReach by_ (.vfPart n) = true → (∀ q ∈ s.queues, q.vf ≠ n) → v = 255 → ∃ t, exec (.registerWrite ⟨by_, (.vfPart n)⟩ v) s = .next t ∧
      (t.vf n).part = none) ∧
    (s.mayReach by_ (.notify n 0x200 8) = true → ∃ t, exec (.registerWrite ⟨by_, (.notify n 0x200 8)⟩ v) s = .next t ∧
      (t.vf n).evtBase = BitVec.ofNat 64 v) ∧
    (s.mayReach by_ (.notify n 0x208 4) = true → ∃ t, exec (.registerWrite ⟨by_, (.notify n 0x208 4)⟩ v) s = .next t ∧
      (t.vf n).evtHead = BitVec.ofNat 32 v)

/-- R132, R133, R137 to R150, R156 to R160. A device step that is not due changes nothing (log 2). Rest on the log: the order of the tests
of NOTIFY (35), details of codes (36), when QSTATUS and MSIs follow (34), EXPORT with STOP and IMPORT (37, 62, 73), the number of a new
context (7, 66), the number of records and interrupts in force (62), the functions' work after a reset (38, 73). -/
def Obligations.Queues : Prop :=
  (∀ (s0 : State) (vf q t : Nat),
    let s := s0.beginExit (s0.partOfVf vf)
    (s.queue? vf q = none → exec (.notify vf q t) s0 = .next s) ∧
    ∀ x, s.queue? vf q = some x →
      (s.devRead x.ctx x.sh.qcbAddr.toNat 64 = none → exec (.notify vf q t) s0 = .next (s.ringStop vf q 2)) ∧
      ∀ s1 b, s.devRead x.ctx x.sh.qcbAddr.toNat 64 = some (s1, b) →
        let s2 := s1.takeQcb vf q x b
        let on := (fieldAt b 9 1).testBit 0
        ∃ y, s2.queue? vf q = some y ∧
          (y.head, y.tail, y.completed) = (x.head, x.tail, x.completed) ∧ y.irqEn = (fieldAt b 9 1).testBit 1 ∧
          (on = false → y.enable = false) ∧
          (on = true → x.enable = true → (y.enable, y.ringBase, y.ringLog) = (true, x.ringBase, x.ringLog)) ∧
          (on = true → x.enable = false → latchOk b = true → y.enable = true ∧ y.stopped = false ∧ y.ringFault = false ∧
            (y.ringBase, y.ringLog, y.sigBase, y.sigPages) = (fieldAt b 0 8, fieldAt b 8 1, fieldAt b 0x30 8, fieldAt b 0x38 1)) ∧
          (on = true → x.enable = false → latchOk b = false → y.enable = false ∧ y.ringFault = true) ∧
          (x.tampered b ≠ none → y.tamper = true) ∧
          (y.ringLog ≠ 0 → sub32 t y.completed ≤ 2 ^ y.ringLog → sub32 t y.tail ≤ 2 ^ y.ringLog →
            ∃ u z, exec (.notify vf q t) s0 = .next u ∧ u.queue? vf q = some z ∧ z.tail = t % 2 ^ 32 ∧
              (z.head, z.completed, z.enable) = (y.head, y.completed, y.enable)) ∧
          (y.ringLog ≠ 0 → ¬ (sub32 t y.completed ≤ 2 ^ y.ringLog ∧ sub32 t y.tail ≤ 2 ^ y.ringLog) →
            ∃ u z, exec (.notify vf q t) s0 = .next u ∧ u.queue? vf q = some z ∧ z.ringFault = true ∧ z.tail = y.tail)) ∧
  (∀ (s : State) (vf q : Nat) (pl : Plug) (x : Queue) (s1 : State) (b : List Byte), s.begins vf q 1 x s1 b →
    s.recordsUsed (s.partOfVf vf) < 4096 → zeroFault b (fun o => decide (o < 0x10)) = none →
    let s2 := s1.startCmd x b
    let addr := fieldAt b 8 8
    (addr % 64 ≠ 0 ∨ s2.devRead x.ctx addr 256 = none → completesAt (.launch vf q pl) s s2 x 4 8) ∧
    ∀ s3 rb, addr % 64 = 0 → s2.devRead x.ctx addr 256 = some (s3, rb) →
      (∀ off, recordFault rb x.signalAt = some off → completesAt (.launch vf q pl) s s3 x 2 off) ∧
      (recordFault rb x.signalAt = none → ∀ s4 ps,
        ((parseRecord rb).paramBytes = 0 ∧ s4 = s3 ∧ ps = []) ∨ ((parseRecord rb).paramBytes ≠ 0 ∧
          s3.devRead x.ctx (parseRecord rb).paramBase (parseRecord rb).paramBytes = some (s4, ps)) →
        (s4.vf vf).plugin = none →
        ∃ t g, exec (.launch vf q pl) s = .next t ∧ t = { s4.takeKey with grids := s4.grids ++ [g] } ∧ g.key = s4.nextKey ∧
          g.origin = .queue q x.head ∧ g.vf = vf ∧ g.ctx = x.ctx ∧ g.record = parseRecord rb ∧ g.params = ps ∧
          g.cls = (if (parseRecord rb).prioClass = 0 then x.sh.prioClass else max x.sh.prioClass (parseRecord rb).prioClass) ∧
          g.weight = (parseRecord rb).weight ∧ g.deps = s4.depsOf x.ctx (parseRecord rb) ∧ g.code = s4.mem ∧
          g.nextTeam = 0 ∧ g.clamped = !x.sh.scopeSys ∧ g.ended = false)) ∧
  (∀ (s : State) (grid : Nat) (g : Grid) (q cmd : Nat), s.grid? grid = some g → g.origin = .queue q cmd → s.gridDone g = true →
    let s1 := s.publishCtx g.ctx
    let ends (u : State) (code detail : Nat) : Prop := exec (.launchComplete grid) s = .next ((u.endGrid g code detail).sweep.dropCtx g.ctx)
    (g.record.doneAddr = 0 → ends s1 0 0) ∧
    (g.record.doneAddr ≠ 0 → s1.devWrite g.ctx g.record.doneAddr (leList 8 g.record.doneValue) = none → ends s1 4 0xF0) ∧
    (g.record.doneAddr ≠ 0 → ∀ u, s1.devWrite g.ctx g.record.doneAddr (leList 8 g.record.doneValue) = some u →
      ends (u.markSignal g.vf g.owner g.record.doneAddr) 0 0) ∧
    ∃ t, exec (.launchComplete grid) s = .next t ∧ t.grid? grid = none) ∧
  (∀ (s : State) (vf q : Nat) (x : Queue) (s1 : State) (b : List Byte), s.begins vf q 2 x s1 b →
    zeroFault b (fun o => decide (o < 0x1A)) = none →
    let s2 := s1.startCmd x b
    let a := fieldAt b 8 8
    let v := fieldAt b 0x10 8
    let sop := fieldAt b 0x18 1
    let sscope := fieldAt b 0x19 1
    let fails (code detail : Nat) : Prop := completesAt (.signalCmd vf q) s s2 x code detail
    (x.signalAt a = false → fails 4 8) ∧
    (x.signalAt a = true →
      (1 < sop → fails 1 0x18) ∧
      (sop ≤ 1 → sscope ≠ 2 → sscope ≠ 3 → fails 1 0x19) ∧
      (sop ≤ 1 → sscope = 2 ∨ sscope = 3 →
        let c : Started := { idx := x.head, op := 2, addr := a, value := v, cond := sop, flags := fieldAt b 1 1
                             mask := if x.sh.scopeSys = true ∧ sscope = 3 then s2.nextKey else 0 }
        let s3 := s2.keepCmd x c
        (s3.peersOut x.vf c.mask = true → exec (.signalCmd vf q) s = .next s3) ∧
        (s3.peersOut x.vf c.mask = false →
          let s4 := s3.publishCtx x.ctx
          (sop = 0 → s4.devWrite x.ctx a (leList 8 v) = none → completesAt (.signalCmd vf q) s s4 x 4 8) ∧
          (sop = 0 → ∀ u, s4.devWrite x.ctx a (leList 8 v) = some u → completesAt (.signalCmd vf q) s (u.markSignal x.vf x.num a) x 0 0) ∧
          (sop = 1 → s4.devRead x.ctx a 8 = none → completesAt (.signalCmd vf q) s s4 x 4 8) ∧
          (sop = 1 → ∀ u w o, s4.devRead x.ctx a 8 = some (u, o) → u.devWrite x.ctx a (leList 8 ((leNum o + v) % 2 ^ 64)) = some w →
            completesAt (.signalCmd vf q) s (w.markSignal x.vf x.num a) x 0 0))))) ∧
  (∀ (s : State) (vf q op : Nat) (x : Queue) (c : Started), s.queue? vf q = some x → x.started = [c] → c.op = op → c.done = false →
    let done (u : State) : State := u.completeCmd x.vf x.num c.idx 0 0
    (op = 2 → (s.peersOut x.vf c.mask = true → exec (.signalCmd vf q) s = .next s) ∧ (s.peersOut x.vf c.mask = false → c.cond = 0 →
      ∀ u, (s.publishCtx x.ctx).devWrite x.ctx c.addr (leList 8 c.value) = some u →
        exec (.signalCmd vf q) s = .next (done (u.markSignal x.vf x.num c.addr)))) ∧
    (op = 7 → (s.peersOut x.vf c.mask = true → exec (.queueFence vf q) s = .next s) ∧ (s.peersOut x.vf c.mask = false →
      exec (.queueFence vf q) s = .next (done (if c.cond = 0 then s else s.publishCtx x.ctx))))) ∧
  (∀ (s : State) (vf n : Nat),
    ((∀ a ∈ s.asks, n ≤ a.tag) → s.peersOut vf n = false) ∧
    (∀ a ∈ s.asks, a.tag < n → (a.who = .device ∨ ∃ c, a.who.core? = some c ∧ c ∈ (s.part (s.partOfVf vf)).coreNums) →
      s.peersOut vf n = true)) ∧
  (∀ (s : State) (vf q : Nat) (x : Queue), s.queue? vf q = some x → x.started = [] → s.mayFetch x = true → s.readCmd x ≠ none →
    (∃ k ∈ s.cores, ∃ h ∈ k.hold, ∃ t, s.team? h.team = some t ∧ t.ctx = x.ctx ∧ t.place = .gone) →
    exec (.signalCmd vf q) s = .next s ∧ exec (.queueFence vf q) s = .next s) ∧
  (let holds (cond word value mask : Nat) : Prop :=
      (cond = 0 ∧ Nat.land word mask = Nat.land value mask) ∨ (cond = 1 ∧ Nat.land word mask ≠ Nat.land value mask) ∨
      (cond = 2 ∧ Nat.land value mask ≤ Nat.land word mask) ∨ (cond = 3 ∧ Nat.land word mask < Nat.land value mask);
    (∀ (s : State) (vf q : Nat) (x : Queue) (s1 : State) (b : List Byte), s.begins vf q 3 x s1 b →
      zeroFault b (fun o => decide (o < 0x21) || (decide (0x24 ≤ o) && decide (o < 0x28))) = none →
      let a := fieldAt b 8 8
      let cond := fieldAt b 0x20 1
      let wait : Started :=
        { idx := x.head, op := 3, addr := a, value := fieldAt b 0x10 8, mask := fieldAt b 0x18 8, cond := cond, flags := fieldAt b 1 1
          deadline := if fieldAt b 0x24 4 = 0 then none else some ((s1.startCmd x b).tick + 1000 * fieldAt b 0x24 4) }
      let s2 := (s1.startCmd x b).updQueue vf q fun y =>
        { y with started := y.started.map fun d => if d.idx = x.head then wait else d }
      (a % 8 ≠ 0 → completesAt (.waitCmd vf q) s (s1.startCmd x b) x 4 8) ∧
      (a % 8 = 0 → 4 ≤ cond → completesAt (.waitCmd vf q) s (s1.startCmd x b) x 1 0x20) ∧
      (a % 8 = 0 → cond ≤ 3 →
        (s2.devRead x.ctx a 8 = none → completesAt (.waitCmd vf q) s s2 x 4 8) ∧
        ∀ u w, s2.devRead x.ctx a 8 = some (u, w) →
          (holds cond (leNum w) (fieldAt b 0x10 8) (fieldAt b 0x18 8) → completesAt (.waitCmd vf q) s u x 0 0) ∧
          (¬ holds cond (leNum w) (fieldAt b 0x10 8) (fieldAt b 0x18 8) →
            ∃ t y, exec (.waitCmd vf q) s = .next t ∧ t.queue? vf q = some y ∧ y.waiting = true ∧ t.mayFetch y = false ∧
              y.completed = x.completed))) ∧
    ∀ (s : State) (vf q : Nat) (x : Queue) (c : Started), s.queue? vf q = some x → x.waitCmd? = some c →
      (∀ d, c.deadline = some d → d ≤ s.tick → exec (.waitReevaluate vf q) s = .next (s.completeCmd vf q c.idx 5 0) ∧
        exec (.waitTimeout vf q) s = .next (s.completeCmd vf q c.idx 5 0)) ∧
      ((∀ d, c.deadline = some d → s.tick < d) → exec (.waitTimeout vf q) s = .next s ∧ (c.cond ≤ 3 →
        (s.devRead x.ctx c.addr 8 = none → exec (.waitReevaluate vf q) s = .next (s.completeCmd vf q c.idx 4 8)) ∧
        ∀ u w, s.devRead x.ctx c.addr 8 = some (u, w) →
        (holds c.cond (leNum w) c.value c.mask → exec (.waitReevaluate vf q) s = .next (u.completeCmd vf q c.idx 0 0)) ∧
        (¬ holds c.cond (leNum w) c.value c.mask → ∃ t y, exec (.waitReevaluate vf q) s = .next t ∧ t.queue? vf q = some y ∧
          y.waiting = true ∧ y.completed = x.completed)))) ∧
  (∀ (s : State) (vf q : Nat) (x : Queue) (s1 : State) (b : List Byte), s.begins vf q 7 x s1 b → zeroFault b (fun o => o == 8) = none →
    let fscope := fieldAt b 8 1
    let s2 := s1.startCmd x b
    let c : Started := { idx := x.head, op := 7, cond := fscope, flags := fieldAt b 1 1
                         mask := if x.sh.scopeSys = true ∧ fscope = 3 then s2.nextKey else 0 }
    let s3 := s2.keepCmd x c
    (fscope ≤ 3 → s3.peersOut x.vf c.mask = true → exec (.queueFence vf q) s = .next s3) ∧
    (fscope ≤ 3 → s3.peersOut x.vf c.mask = false →
      completesAt (.queueFence vf q) s (if fscope = 0 then s3 else s3.publishCtx x.ctx) x 0 0) ∧
    (3 < fieldAt b 8 1 → completesAt (.queueFence vf q) s (s1.startCmd x b) x 1 8)) ∧
  (∀ (s : State) (vf q : Nat) (x : Queue) (s1 : State) (b : List Byte), s.queue? vf q = some x → s.mayFetch x = true →
    s.readCmd x = some (s1, b) → fieldAt b 0 1 = 0 ∨ 8 ≤ fieldAt b 0 1 → ((fieldAt b 1 1).testBit 1 = true → x.started = []) →
    completesAt (.unknownOpCommand vf q) s (s1.startCmd x b) x 1 0) ∧
  (∀ (s : State) (vf q : Nat) (x : Queue) (s1 : State) (b : List Byte), s.begins vf q 5 x s1 b →
    zeroFault b (fun o => decide (o < 0x0A) || (decide (0x10 ≤ o) && decide (o < 0x19))) = none →
    let s2 := s1.startCmd x b
    let tv := fieldAt b 8 1
    let tq := fieldAt b 9 1
    let dest := fieldAt b 0x10 8
    let fl := fieldAt b 0x18 1
    let fails (code detail : Nat) : Prop := completesAt (.exportCmd vf q) s s2 x code detail
    (x.sh.qpriv.getLsbD 1 = false → fails 8 0) ∧
    (x.sh.qpriv.getLsbD 1 = true →
      (dest % 64 ≠ 0 → fails 4 0x10) ∧
      (dest % 64 = 0 → 4 ≤ fl → fails 1 0x18) ∧
      (dest % 64 = 0 → fl < 4 → s2.queue? tv tq = none → fails 8 8) ∧
      (dest % 64 = 0 → fl < 4 → fl.testBit 0 = true → (tv, tq) = (vf, q) → fails 8 0x18) ∧
      (dest % 64 = 0 → fl < 4 → (fl.testBit 0 = true → (tv, tq) ≠ (vf, q)) → ∀ y, s2.queue? tv tq = some y →
        (fl.testBit 0 = true → ∀ z ∈ s2.queues, z.vf = tv → z.num = tq → z.started = []) →
        let c : Started := { idx := x.head, op := 5, addr := dest, value := tv * 256 + tq, mask := fl, flags := fieldAt b 1 1 }
        let s3 := s2.updQueue vf q fun z => { z with started := z.started.map fun d => if d.idx = x.head then c else d }
        let s4 := if fl.testBit 0 then (s3.updQueue tv tq fun z => { z with draining := true }).writeQcb tv tq else s3
        ∀ z, s4.queue? tv tq = some z →
          (s4.devWrite x.ctx dest (queueRecord { z with serial := (z.serial + 1) % 2 ^ 32 } s4.tick) = none →
            completesAt (.exportCmd vf q) s
              (if fl.testBit 0 then (s4.updQueue tv tq fun y => { y with draining := false }).writeQcb tv tq else s4) x 4 0x10) ∧
          ∀ u, s4.devWrite x.ctx dest (queueRecord { z with serial := (z.serial + 1) % 2 ^ 32 } s4.tick) = some u →
          ∃ t r, exec (.exportCmd vf q) s = .next t ∧ t.queue? tv tq = some r ∧ r.serial = (z.serial + 1) % 2 ^ 32 ∧
            (fl.testBit 0 = true → r.enable = false ∧ r.dirtyBits = if fl.testBit 1 then 0 else z.dirtyBits)))) ∧
  (∀ (y : Queue) (tick : Nat), (queueRecord y tick).length = 256 ∧ fieldAt (queueRecord y tick) 0 4 = 0x4F4E5153 ∧
    fieldAt (queueRecord y tick) 0xF8 4 = (crc32 ((queueRecord y tick).take 0xF8)).toNat) ∧
  (∀ (s : State) (vf q : Nat) (pl : Plug) (x : Queue) (s1 : State) (b : List Byte), s.begins vf q 6 x s1 b →
    zeroFault b (fun o => decide (o < 0x0A) || (decide (0x10 ≤ o) && decide (o < 0x28))) = none →
    let s2 := s1.startCmd x b
    let fails (u : State) (code detail : Nat) : Prop := completesAt (.importCmd vf q pl) s u x code detail
    (x.sh.qpriv.getLsbD 1 = false → fails s2 8 0) ∧
    (x.sh.qpriv.getLsbD 1 = true → s2.devRead x.ctx (fieldAt b 0x10 8) 256 = none → fails s2 4 0x10) ∧
    (x.sh.qpriv.getLsbD 1 = true → ∀ s3 r, s2.devRead x.ctx (fieldAt b 0x10 8) 256 = some (s3, r) →
      let keep (f w : Nat) : Nat := if f = 255 then w else f
      let tv := keep (fieldAt b 8 1) (fieldAt r 8 1)
      let tq := keep (fieldAt b 9 1) (fieldAt r 9 1)
      let root (f w : Nat) : Nat := if f = 0 then w else f
      (importOk r = false → fails s3 1 0x10) ∧
      (importOk r = true → s3.queue? tv tq ≠ none → fails s3 8 9) ∧
      (importOk r = true → s3.queue? tv tq = none → tq < 64 → (s3.vf tv).part = none → fails s3 8 8) ∧
      (importOk r = true → s3.queue? tv tq = none → tq < 64 → tv < 192 → (s3.vf tv).part ≠ none → (s3.vf tv).plugin = none →
        (∃ n, n < 4096 ∧ ∀ c ∈ s3.ctxs, c.num ≠ n) →
        ∃ t z, exec (.importCmd vf q pl) s = .next t ∧ t.queue? tv tq = some z ∧
          (z.head, z.tail, z.completed) = (fieldAt r 0x48 4, fieldAt r 0x4C 4, fieldAt r 0x50 4) ∧
          (z.ringBase, z.ringLog, z.sigBase, z.sigPages) = (fieldAt r 0x28 8, fieldAt r 0x0D 1, fieldAt r 0x30 8, fieldAt r 0x0F 1) ∧
          z.sh.prioClass = fieldAt r 0x0A 1 ∧ z.sh.satp.toNat = root (fieldAt b 0x18 8) (fieldAt r 0x38 8) ∧
          z.sh.hgatp.toNat = root (fieldAt b 0x20 8) (fieldAt r 0x40 8) ∧
          z.enable = (fieldAt r 0x0E 1).testBit 0 ∧ z.tamper = false ∧ z.dirtyBits = 0 ∧ z.irqPend = fieldAt r 0x58 2 ∧
          z.irqTime = (if fieldAt r 0x1E 2 = 0 then 32 else min (fieldAt r 0x1E 2) 1000) ∧ z.irqSince = (s3.tick : Int) - fieldAt r 0x5C 4))) ∧
  (∀ (s : State) (vf q : Nat) (x : Queue), s.queue? vf q = some x → x.irqEn = true → x.irqPend ≠ 0 →
    (x.irqSince + 1000 * (x.irqTime : Int) ≤ (s.tick : Int) → exec (.irqTimeExpiry vf q) s =
      .next ((s.deliverMsi x.sh.irqAddr.toNat x.sh.irqVec.toNat).updQueue vf q fun y => { y with irqPend := 0, irqSince := 0 })) ∧
    ((s.tick : Int) < x.irqSince + 1000 * (x.irqTime : Int) → exec (.irqTimeExpiry vf q) s = .next s)) ∧
  (∀ (s : State) (addr data : Nat),
    ((∀ h ∈ s.harts, ∀ f ∈ h.files, f.addr ≠ addr) → s.deliverMsi addr data = s.emit (.msi addr data)) ∧
    ((∃ h ∈ s.harts, ∃ f ∈ h.files, f.addr = addr) → s.deliverMsi addr data = { s with harts := s.harts.map fun (h : Hart) => { h with
      files := h.files.map fun (f : Imsic) => if f.addr = addr ∧ data ∉ f.pending then { f with pending := f.pending ++ [data] } else f } })) ∧
  (∀ (s : State) (vf q code detail : Nat) (x : Queue) (c : Started), s.queue? vf q = some x → x.started = [c] → c.done = false →
    ∃ y, (s.completeCmd vf q c.idx code detail).queue? vf q = some y ∧ y.started = [] ∧ y.completed = (x.completed + 1) % 2 ^ 32 ∧
      y.lastErr = (if code = 0 then x.lastErr else code) ∧ y.stopped = (x.stopped || (code != 0 && c.flags / 4 % 2 == 0))) ∧
  ∀ (s : State) (vf : Nat), ∃ t, exec (.functionLevelReset vf) s = .next t ∧ (∀ q, t.queue? vf q = none) ∧
    (∀ v q, v ≠ vf → t.queue? v q = s.queue? v q) ∧ (∀ v, v ≠ vf → t.vf v = s.vf v) ∧ t.teams = s.teams ∧ t.grids = s.grids ∧
    (t.vf vf).evtBase = 0 ∧ (t.vf vf).evtHead = 0 ∧ (t.vf vf).evtTail = 0 ∧ (t.vf vf).evtLost = 0 ∧ (t.vf vf).cnt = {}

/-- R151 to R155; an instance whose owner queue is gone posts GATE_BADREC by the model's choice (log 62), as does the judging of ownership
at a command's start; how table changes meet is log 39; a device step that is not due changes nothing (log 2). -/
def Obligations.SlalomTable : Prop :=
  let table (s : State) (p : Nat) : Slalom := (s.part p).slalom
  (∀ (s : State) (vf q : Nat) (x : Queue) (s1 : State) (b : List Byte), s.begins vf q 4 x s1 b → zeroFault b tableKeep = none →
    let s2 := s1.startCmd x b
    let p := s2.partOfVf vf
    let t := table s2 p
    let n := fieldAt b 9 1
    let cmd : TableCmd := ⟨vf, q, x.head⟩
    let mine := ∀ o, t.gate? n = some o → o.vf = vf
    (x.sh.qpriv.getLsbD 0 = false →
      (fieldAt b 8 1 = 0 → completesAt (.setGate vf q) s s2 x 8 0) ∧ (fieldAt b 8 1 = 1 → completesAt (.clearGate vf q) s s2 x 8 0) ∧
      (fieldAt b 8 1 = 2 → completesAt (.setCycle vf q) s s2 x 8 0)) ∧
    (x.sh.qpriv.getLsbD 0 = true →
      (3 ≤ fieldAt b 8 1 → completesAt (.setGate vf q) s s2 x 1 8) ∧
      (fieldAt b 8 1 = 0 →
        let g : Gate := { vf := vf, queue := q, offset := fieldAt b 0x10 4, deadline := fieldAt b 0x14 4, template := fieldAt b 0x18 8
                          policy := fieldAt b 0x20 1 }
        let cycle (c : Nat) : Prop := (t.active = true ∧ c = t.cycleNs) ∨ (t.active = false ∧ ∃ e d, t.pendCycle = some (c, e, d))
        let startOk := ∀ c, cycle c → g.offset < c
        let deadlineOk := 1 ≤ g.deadline ∧ ∀ c, cycle c → g.deadline ≤ c
        (¬ startOk → completesAt (.setGate vf q) s s2 x 1 0x10) ∧
        (startOk → ¬ deadlineOk → completesAt (.setGate vf q) s s2 x 1 0x14) ∧
        (startOk → deadlineOk → g.template % 64 ≠ 0 → completesAt (.setGate vf q) s s2 x 1 0x18) ∧
        (startOk → deadlineOk → g.template % 64 = 0 → 4 ≤ g.policy → completesAt (.setGate vf q) s s2 x 1 0x20) ∧
        (startOk → deadlineOk → g.template % 64 = 0 → g.policy ≤ 3 →
          (¬ mine → completesAt (.setGate vf q) s s2 x 8 9) ∧
          (mine → t.active = true → exec (.setGate vf q) s = .next (s2.updSlalom p fun t =>
            { t with pendGates := t.pendGates ++ [(n, some g, s2.tick, cmd)] })) ∧
          (mine → t.active = false → completesAt (.setGate vf q) s (s2.applyGate p n (some g) s2.tick) x 0 0 ∧
            ∃ t k, exec (.setGate vf q) s = .next t ∧ (table t p).gate? n = some { g with next := k }))) ∧
      (fieldAt b 8 1 = 1 →
        (¬ mine → completesAt (.clearGate vf q) s s2 x 8 9) ∧
        (mine → t.active = true → exec (.clearGate vf q) s = .next (s2.updSlalom p fun t =>
          { t with pendGates := t.pendGates ++ [(n, none, s2.tick, cmd)] })) ∧
        (mine → t.active = false → completesAt (.clearGate vf q) s (s2.applyGate p n none s2.tick) x 0 0 ∧
          ∃ t, exec (.clearGate vf q) s = .next t ∧ (table t p).gate? n = none)) ∧
      (fieldAt b 8 1 = 2 →
        let cyc := fieldAt b 0x28 4
        let ep := fieldAt b 0x30 8
        (cyc < 1000 ∨ 1000000000 < cyc → completesAt (.setCycle vf q) s s2 x 1 0x28) ∧
        (1000 ≤ cyc → cyc ≤ 1000000000 → ep < s2.tick + 10000 → completesAt (.setCycle vf q) s s2 x 1 0x30) ∧
        (1000 ≤ cyc → cyc ≤ 1000000000 → s2.tick + 10000 ≤ ep →
          let s3 := s2.updSlalom p fun t => { t with pendCycle := some (cyc, ep, cmd) }
          (t.pendCycle = none → exec (.setCycle vf q) s = .next s3) ∧
          ∀ c e d, t.pendCycle = some (c, e, d) → exec (.setCycle vf q) s = .next (s3.completeCmd d.vf d.queue d.cmd 6 0))))) ∧
  (∀ (s : State) (p cyc ep : Nat) (c : TableCmd), (table s p).pendCycle = some (cyc, ep, c) → ep ≤ s.tick →
    let fits := ∀ g ∈ (table s p).gates, g.2.offset < cyc ∧ g.2.deadline ≤ cyc
    (¬ fits → (table s p).active = false → (table s p).pendGates = [] → exec (.tableBoundary p) s =
      .next ((s.updSlalom p fun t => { t with pendCycle := none }).completeCmd c.vf c.queue c.cmd 1 0x28)) ∧
    (∀ n g start d x k, (table s p).active = true → (table s p).pendGates = [(n, some g, start, d)] → start + 10000 ≤ ep →
      ep < (table s p).boundary start → s.tick < (table s p).boundary start → cyc ≤ g.offset ∨ cyc < g.deadline →
      s.queue? c.vf c.queue = some x → x.started = [k] → k.idx = c.cmd → k.done = false →
      ∃ t y, exec (.tableBoundary p) s = .next t ∧ table t p = { table s p with pendCycle := none } ∧
        t.queue? c.vf c.queue = some y ∧ y.started = [] ∧ y.lastErr = 1) ∧
    (fits → (table s p).pendGates = [] → ∃ t, exec (.tableBoundary p) s = .next t ∧
      table t p = { table s p with active := true, cycleNs := cyc, epoch := ep, pendCycle := none
                                   gates := (table s p).gates.map fun g => (g.1, { g.2 with next := 0, deferred := none }) })) ∧
  (∀ (s : State) (p n start : Nat) (g : Option Gate) (c : TableCmd), (table s p).pendCycle = none → (table s p).active = true →
    (table s p).pendGates = [(n, g, start, c)] →
    ((table s p).boundary start ≤ s.tick → exec (.tableBoundary p) s =
      .next (((s.updSlalom p fun u => { u with pendGates := u.pendGates.filter fun x => !decide ((table s p).boundary x.2.2.1 ≤ s.tick) }).applyGate
        p n g ((table s p).boundary start)).completeCmd c.vf c.queue c.cmd 0 0)) ∧
    (s.tick < (table s p).boundary start → ∃ t, exec (.tableBoundary p) s = .next t ∧ table t p = table s p)) ∧
  (∀ (t : Slalom) (g : Gate) (start eff : Nat), 0 < t.cycleNs →
    (t.epoch ≤ start + 10000 → (∃ k, t.boundary start = t.epoch + k * t.cycleNs) ∧ start + 10000 ≤ t.boundary start ∧
      t.boundary start < start + 10000 + t.cycleNs) ∧
    eff ≤ t.nominal g (t.firstInst g eff) ∧ ∀ m, m < t.firstInst g eff → t.nominal g m < eff) ∧
  (∀ (s : State) (p n : Nat) (g : Gate), (table s p).gate? n = some g → (table s p).active = true →
    let nom := (table s p).epoch + g.next * (table s p).cycleNs + g.offset
    let d : Deferred := { n := g.next, nominal := nom, deadline := nom + g.deadline }
    let s1 := s.updSlalom p fun t => t.putGate n (some { g with next := g.next + 1 })
    let starts (u : State) : Prop := exec (.gateInstanceStart p n) s = .next u
    (∀ e, s.running? p n = none → g.deferred = some e → exec (.gateInstanceStart p n) s = exec (.gateInstanceStart p n)
      ((s.updSlalom p fun t => t.putGate n (some { g with deferred := none })).launchGate n g e)) ∧
    ((s.running? p n = none → g.deferred = none) →
    (s.tick < nom → starts s) ∧
    (nom ≤ s.tick → (table s p).changeDue nom = false →
      let bad (u : State) (v : Nat) : Prop := starts (u.post g.vf 0x050A g.queue n v [])
      (s.running? p n = none → s.queue? g.vf g.queue = none → bad s1 0x80000018) ∧
      (s.running? p n = none → ∀ x, s.queue? g.vf g.queue = some x →
        (g.template % 64 ≠ 0 ∨ s1.devRead x.ctx g.template 256 = none → bad s1 0x80000018) ∧
        ∀ s2 rb, g.template % 64 = 0 → s1.devRead x.ctx g.template 256 = some (s2, rb) →
          (∀ off, recordFault rb x.signalAt = some off → bad s2 off) ∧
          (recordFault rb x.signalAt = none → (parseRecord rb).paramBytes ≠ 0 →
            s2.devRead x.ctx (parseRecord rb).paramBase (parseRecord rb).paramBytes = none → bad s2 0x80) ∧
          (recordFault rb x.signalAt = none → ∀ s3 ps,
            ((parseRecord rb).paramBytes = 0 ∧ s3 = s2 ∧ ps = []) ∨ ((parseRecord rb).paramBytes ≠ 0 ∧
              s2.devRead x.ctx (parseRecord rb).paramBase (parseRecord rb).paramBytes = some (s3, ps)) →
            ∃ t k, starts t ∧ t.grids.getLast? = some k ∧ k.key = s3.nextKey ∧ k.origin = .gate n g.next nom (nom + g.deadline) ∧
              k.record = parseRecord rb ∧ k.params = ps ∧ k.cls = 0 ∧ k.deps = [] ∧ k.owner = g.queue ∧ k.ctx = x.ctx ∧
              (table t p).gate? n = some { g with next := g.next + 1 })) ∧
      (∀ old, s.running? p n = some old →
        (g.policy = 0 ∨ (g.policy = 1 ∧ g.deferred ≠ none) → starts (s1.post g.vf 0x0507 g.queue n g.next [])) ∧
        (g.policy = 1 → g.deferred = none → starts (s.updSlalom p fun t =>
          t.putGate n (some { g with next := g.next + 1, deferred := some d }))) ∧
        (g.policy = 2 → starts (((s1.post g.vf 0x0509 g.queue n old.inst []).endGrid old 6 0).sweep.launchGate n g d)) ∧
        (g.policy = 3 → starts (s1.post g.vf 0x0508 g.queue n g.next [])))))) ∧
  (∀ (s : State) (p n : Nat),
    (∀ k, s.running? p n = some k → s.gridDone k = true → (∀ g, (table s p).gate? n = some g → g.deferred = none) →
      let s1 := s.publishCtx k.ctx
      let ends (u : State) : Prop := exec (.gateInstanceComplete p n) s = .next ((u.endGrid k 0 0).sweep.dropCtx k.ctx)
      (k.record.doneAddr = 0 → ends s1) ∧
      (k.record.doneAddr ≠ 0 → s1.devWrite k.ctx k.record.doneAddr (leList 8 k.record.doneValue) = none →
        ends (s1.post k.vf 0x050A k.owner n 0xF0 [])) ∧
      (k.record.doneAddr ≠ 0 → ∀ u, s1.devWrite k.ctx k.record.doneAddr (leList 8 k.record.doneValue) = some u →
        ends (u.markSignal k.vf k.owner k.record.doneAddr)) ∧
      ∃ t, exec (.gateInstanceComplete p n) s = .next t ∧ t.grid? k.key = none) ∧
    (s.running? p n = none → ∀ g d, (table s p).gate? n = some g → g.deferred = some d → exec (.gateInstanceComplete p n) s =
      .next ((s.updSlalom p fun t => t.putGate n (some { g with deferred := none })).launchGate n g d))) ∧
  ∀ (s : State) (p n inst : Nat),
    (∀ k nom e, s.running? p n = some k → k.origin = .gate n inst nom e → k.missed = false → e ≤ s.tick →
      exec (.deadlineMiss p n inst) s = .next ((s.updGrid k.key fun k => { k with missed := true }).post k.vf 0x0506 k.owner n inst [])) ∧
    ((∀ k ∈ s.grids, k.ended = false → s.partOfVf k.vf = p → ∀ nom e, k.origin ≠ .gate n inst nom e) →
      ∀ g d, (table s p).gate? n = some g → g.deferred = some d → d.n = inst →
        (d.missed = false → d.deadline ≤ s.tick → exec (.deadlineMiss p n inst) s = .next ((s.updSlalom p fun t =>
          t.putGate n (some { g with deferred := some { d with missed := true } })).post g.vf 0x0506 g.queue n inst [])) ∧
        (s.tick < d.deadline → exec (.deadlineMiss p n inst) s = .next s))

/-- R173, R174, R176 to R181, R191 to R198, R202, R249, R308, R335. A device step that is not due changes nothing (log 2); the corners of the
search are log 40, those of waits and parking log 41, S rounded up log 73. -/
def Obligations.TeamsMove : Prop :=
  (∀ (s : State) (n cls : Nat) (c : Cand) (turn : Option (Nat × Nat)) (sp : Spot), (s.part n).places = true → cls ≤ 3 →
    (∀ h, h < cls → s.pickClass (s.part n) h = none) → s.pickClass (s.part n) cls = some (c, turn, [sp]) →
    c.resumed = false → s.team? s.nextKey = none →
    ∃ t u, exec (.teamPlace n) s = .next t ∧ t.team? s.nextKey = some u ∧ u.grid = c.grid.key ∧ u.ctx = c.grid.ctx ∧ u.index = sp.idx ∧
      u.place = .on sp.core sp.upper ∧ u.warps = freshWarps c.grid.record sp ∧ u.scratch = [] ∧ u.tiles = [] ∧
      u.rings = List.replicate c.grid.record.ringCount (List.replicate (2 ^ c.grid.record.ringLog) false) ∧
      u.barriers = List.replicate 16 {} ∧ (t.ctx c.grid.ctx).lastCluster = some (sp.core / 4) ∧
      (∀ k, k ≠ s.nextKey → t.team? k = (s.team? k).map Team.wake) ∧
      ∀ g, s.grid? c.grid.key = some g → g.requeued = [] →
        ∃ h, t.grid? c.grid.key = some h ∧ h.nextTeam = g.nextTeam + c.idx.length ∧ h.params = g.params ∧ h.record = g.record) ∧
  (∀ (s : State) (n : Nat), (s.part n).places = true → (∀ h, h ≤ 3 → s.pickClass (s.part n) h = none) → ∃ t, exec (.teamPlace n) s = .next t ∧
    t.teams = s.teams ∧ ∀ h, (t.part n).turn h = ((s.part n).turn h).map fun v => (v.1, 256)) ∧
  (∀ (s : State) (p : Part) (c : Cand) (sps : List Spot), s.reservable p c = some sps →
    let own (t : Team) : Bool := t.grid == c.grid.key && (c.grid.record.group c.first).contains t.index
    ∃ cl ∈ p.clusters, ∃ cs : List Nat, (∀ k ∈ cs, k / 4 = cl) ∧ s.findSpots p c.grid c.idx
      (fun k => ((s.team? k).map fun t => t.cores.any cs.contains && !own t).getD false) (p.coreNums.filter fun k => !cs.contains k) = some sps) ∧
  (∀ (r : LRec) (sp : Spot) (w : Warp), w ∈ freshWarps r sp → w.lanes.length = (if w.role = .movement then 1 else 32) ∧
    w.masks = 0xFFFFFFFF :: List.replicate 11 0 ∧ ∀ k ∈ w.lanes, k.life = .live ∧ k.wait = .none ∧ k.hcur = 0 ∧ k.handler = none ∧
      (w.role = .vector → k.pc = BitVec.ofNat 32 (r.entryVec.getD 0)) ∧ (w.role = .matrix → k.pc = BitVec.ofNat 32 (r.entryMat.getD 0)) ∧
      (w.role = .movement → r.entryMsq ≠ none ∧ k.pc = BitVec.ofNat 32 (r.entryMsq.getD 0))) ∧
  (∀ (s : State) (core : Nat) (r : LRec) (ps : List Nat) (l : Nat), s.coreFit core r (fun _ => false) = some (ps, l) →
    (s.core core).degraded = false ∧ (s.core core).retired = false ∧ l + r.scratchBytes / 128 ≤ 4096 ∧
    (∀ t ∈ s.linesTaken core (fun _ => false), l + r.scratchBytes / 128 ≤ t.1 ∨ t.1 + t.2 ≤ l) ∧
    ps.length = r.warpsVec + r.warpsMat ∧ ∀ p ∈ ps, p < 4) ∧
  (∀ (s : State) (n since : Nat) (c : Cand) (sps : List Spot),
    let p := s.part n
    s.headCand p = some c → p.headSince = some (c.grid.key, c.first, since) → p.reserve = none → (∃ q ∈ s.parts, q.num = n) →
    s.findSpots p c.grid c.idx (fun _ => false) [] = none →
    (s.tick < since + 100000 → exec (.placementReservation n) s = .next s) ∧
    (since + 100000 ≤ s.tick → s.reservable p c = some sps → ∃ t, exec (.placementReservation n) s = .next t ∧
      (t.part n).reserve = some (c.grid.key, c.first, sps.flatMap fun sp => sp.core :: sp.upper.toList) ∧ t.teams = s.teams)) ∧
  (∀ (s : State) (key : Nat) (t : Team), s.team? key = some t →
    let ended := (∃ w ∈ t.warps, ∃ k ∈ w.lanes, k.ready = true) ∨ ∃ c ∈ s.copies, c.team = key ∧ ∀ j ∈ c.jobs, j.fault = none
    (s.parkable t = true →
      (s.saveNeed t ≤ s.cloakFree (s.partOf t) → exec (.teamPark key) s =
        .next (s.updTeam key fun u => { u with leaving := .save true, cloak := s.saveNeed t })) ∧
      (s.cloakFree (s.partOf t) < s.saveNeed t → exec (.teamPark key) s = .next (s.updTeam key fun u => { u with noPark := true }))) ∧
    (s.parkable t = false → exec (.teamPark key) s = .next s) ∧
    (s.groupOf t = [t] → t.place = .parked → ended →
      ∃ u, exec (.teamWake key) s = .next u ∧ u.team? key = some { t with place := .ready (s.part (s.partOf t)).seq } ∧
        ∀ k, k ≠ key → u.team? k = s.team? k) ∧
    (¬ ended → exec (.teamWake key) s = .next s) ∧
    (s.parkable t = true ↔ t.core? ≠ none ∧ t.leaving.saving = false ∧ t.noPark = false ∧
      (∃ g a, s.grid? t.grid = some g ∧ g.record.parkTicks ≠ 0 ∧ t.parkSince = some a ∧ a + g.record.parkTicks ≤ s.tick) ∧
      (∀ w ∈ t.warps, ∀ k ∈ w.lanes, k.life = .live → w.waitParks k.wait = true) ∧ (∃ w ∈ t.warps, w.finished = false) ∧
      (∀ c ∈ s.copies, c.team = t.key → ∃ j ∈ c.jobs, j.fault ≠ none) ∧ (∀ k ∈ s.cores, ∀ o ∈ k.matq, o.team ≠ t.key) ∧
      s.accessesIdle t.key = true)) ∧
  (∀ (s : State) (n : Nat) (pl : Plug) (c : Cand) (t : Team), s.requester (s.part n) = some (c, [[t]]) → (s.vf c.grid.vf).plugin = none →
    let goes (u : State) : Prop := exec (.preemptRequest n pl) s = .next (wakeAll u)
    let way := chooseWay (s.ways [t]) (c.grid.bound * 4)
    (way = none → goes (s.updTeam t.key fun u => { u with leaving := .drain none })) ∧
    ∀ l cost,
      (way = some (.drain, l, cost) → goes (s.updTeam t.key fun u => { u with leaving := .drain (some (s.tick + 2 * l)) })) ∧
      (way = some (.save, l, cost) → goes (s.updTeam t.key fun u => { u with leaving := .save false, cloak := s.saveNeed t })) ∧
      (way = some (.flush, l, cost) → goes ((s.flushTeam t).unfuse t.cores))) ∧
  (∀ (ws : List (Way × Nat × Nat)) (bound4 : Nat) (w : Way × Nat × Nat), chooseWay ws bound4 = some w →
    let meetsB (v : Way × Nat × Nat) : Prop := bound4 = 0 ∨ 4 * v.2.1 ≤ bound4
    w ∈ ws ∧ ((∃ v ∈ ws, meetsB v) → meetsB w ∧ ∀ v ∈ ws, meetsB v → w.2.2 ≤ v.2.2) ∧
      ((∀ v ∈ ws, ¬ meetsB v) → ∀ v ∈ ws, w.2.1 ≤ v.2.1)) ∧
  (∀ (s : State) (t : Team) (g : Grid), s.grid? t.grid = some g →
    ((∃ l cost, (Way.drain, l, cost) ∈ s.ways [t]) ↔ g.record.estCycles ≠ 0) ∧
    ((∃ l cost, (Way.save, l, cost) ∈ s.ways [t]) ↔ s.saveNeed t ≤ s.cloakFree (s.partOf t)) ∧
    ((∃ l cost, (Way.flush, l, cost) ∈ s.ways [t]) ↔ g.record.restartable = true) ∧
    ∀ l cost, ((Way.save, l, cost) ∈ s.ways [t] → l = max 200 ((s.saveNeed t + 127) / 128) ∧ cost = 2 * l) ∧
      ((Way.flush, l, cost) ∈ s.ways [t] → l = 1000 ∧ 1000 ≤ cost) ∧ ((Way.drain, l, cost) ∈ s.ways [t] → cost = 0)) ∧
  (∀ (s : State) (key u core : Nat) (t : Team) (g : Grid), s.team? key = some t → s.groupOf t = [t] → s.grid? t.grid = some g →
    t.leaving = .drain (some u) → t.core? = some core →
    (s.tick < u → exec (.drainTimeout key) s = .next s) ∧
    (u ≤ s.tick → s.saveNeed t ≤ s.cloakFree (s.partOf t) → exec (.drainTimeout key) s =
      .next (wakeAll (s.updTeam key fun u => { u with leaving := .save false, cloak := s.saveNeed t }))) ∧
    (u ≤ s.tick → s.cloakFree (s.partOf t) < s.saveNeed t → g.record.restartable = true → exec (.drainTimeout key) s =
      .next (wakeAll ((s.flushTeam t).unfuse t.cores)))) ∧
  (∀ (s : State) (t : Team) (g : Grid), s.grid? t.grid = some g →
    (s.flushTeam t).team? t.key = none ∧ (∀ k, k ≠ t.key → (s.flushTeam t).team? k = s.team? k) ∧
    ((s.flushTeam t).grid? t.grid).map Grid.requeued = some (g.requeued ++ [t.index]) ∧
    ∀ k ∈ (s.flushTeam t).cores, ∀ h ∈ k.hold, h.team ≠ t.key) ∧
  (∀ (s : State) (key core : Nat) (t : Team) (park : Bool), s.team? key = some t → t.leaving = .save park → t.core? = some core →
    let quiet := t.lastCommit + 200 ≤ s.tick ∧ (∀ k ∈ s.cores, ∀ h ∈ k.hold, h.team ≠ key) ∧
      (∀ p ∈ s.pend, p.team = key → ∀ w, t.warpAt p.warp = some w → ∀ l ∈ p.lanes, (w.lane l.lane).life = .finished) ∧
      ∀ c ∈ s.copies, c.team = key → c.midChunk = false
    (¬ quiet → exec (.saveComplete key) s = .next s) ∧
    (quiet → ∃ v u, exec (.saveComplete key) s = .next v ∧ v.team? key = some u ∧ u.leaving = .none ∧
      (park = true → u.place = .parked) ∧ (park = false → t ∈ s.groupOf t → ∃ n, u.place = .ready n) ∧
      (park = false → s.groupOf t = [t] → u.place = .ready (s.part (s.partOf t)).seq) ∧
      u.savedAt = (if park then none else some s.tick) ∧
      (u.scratch, u.tiles, u.rings, u.barriers, u.absent) = (t.scratch, t.tiles, t.rings, t.barriers, t.absent) ∧
      u.warps.map (fun w => (w.id, w.role, w.masks, w.tokens, w.lanes.map fun k => (k.regs, k.hcur, k.life))) =
        t.warps.map (fun w => (w.id, w.role, w.masks, w.tokens, w.lanes.map fun k => (k.regs, k.hcur, k.life))) ∧
      (∀ k ∈ v.cores, ∀ o ∈ k.matq, o.team ≠ key))) ∧
  ∀ (s : State) (key core : Nat) (t : Team), s.team? key = some t → t.core? = some core →
    let spent := (∀ w ∈ t.warps, w.finished = true) ∧ (∀ c ∈ s.copies, c.team ≠ key) ∧ (∀ k ∈ s.cores, ∀ o ∈ k.matq, o.team ≠ key) ∧
      (∀ r ∈ s.resolving, r.team ≠ key) ∧ (∀ k ∈ s.cores, ∀ h ∈ k.hold, h.team ≠ key) ∧ t.lastCommit + 200 ≤ s.tick
    (¬ spent → exec (.teamLeave key) s = .next s) ∧
    (spent → ∃ v, exec (.teamLeave key) s = .next v ∧ v.team? key = none ∧ (∀ k, k ≠ key → v.team? k = (s.team? k).map Team.wake) ∧
      (∀ g, s.grid? t.grid = some g → (v.grid? t.grid).map Grid.remaining = some (g.remaining - 1)) ∧
      (∀ p ∈ v.pend, p.team ≠ key) ∧ ∀ q p, v.queue? q p = s.queue? q p)

/-- R82, R94, R107 to R127, R204, R206 to R208, R237, R238, R470, R490. Which lane differs, which core a strike names and which error
occurs are facts of the run (log 2); corners of checks and injections are log 43, of rollbacks log 44, of errors log 45, of the pair's two
copies log 42, of poison log 24, a team's ECCU record log 32, the time of posting a record log 71, the hashes of the filters log 64; a fault-free check issues in the earliest
cycle that its pipes have free (log 6). -/
def Obligations.ChecksAndErrors : Prop :=
  (∀ (s : State) (team warp : Nat) (slow keep inval : Bool),
    let s1 := s.chosen team warp
    let differs (d : Option (Nat × Bool)) : Instr := .check team warp slow keep d inval
    let pass (i : Iss) (m : Nat) : State := { s1.useSlot i m with env := { slow := slow, keep := keep }, go := true }
    (∀ d o, s.orphanNow team warp = some o → exec (differs d) s = .next (s.trapLane team warp o.1 causeHORPH o.2 0)) ∧
    (∀ d, s.orphanNow team warp = none →
      (s1.fetched = .idle → exec (differs d) s = .next s) ∧
      (∀ i ls, s1.fetched = .away i ls → exec (differs d) s = .next (s1.awaitCode i ls)) ∧
      (∀ i w c ins u, s1.fetched = .page i ∨ s1.fetched = .bad i w c ∨ s1.fetched = .ok i ins u → s1.slotFor i = none →
        exec (differs d) s = .next s) ∧
      (∀ i m, s1.fetched = .page i → s1.slotFor i = some m → exec (differs d) s = .next (pass i m)) ∧
      ∀ i w c m, s1.fetched = .bad i w c → s1.slotFor i = some m → exec (differs d) s = .next (pass i m)) ∧
    ∀ (i : Iss) (ins : Instr) (u : Use1) (m : Nat), s.orphanNow team warp = none → s1.fetched = .ok i ins u → s1.slotFor i = some m →
      s1.warpOf i = some i.warp →
      let old : Warp := { i.warp with checks := ((s.cluster (i.core / 4)).cycle :: i.warp.checks).take 4 }
      ((∀ c ∈ i.team.cores, (s.core c).inj.toNat % 4 ≠ 1) → exec (differs none) s = .next (pass i m)) ∧
      (i.team.cores = [i.core] →
        let n := i.streak i.core
        let becomes (w : Warp) (t : State) : Prop := t.warpOf i = some w ∧
          (t.core i.core).mismatches = (s.core i.core).mismatches + 1 ∧ t.mem = s.mem ∧ t.go = s.go
        let misses (ins' : Instr) : Prop :=
          (i.warp.walk = 0 → n + 1 < 8 → (1 ≤ n → inval = true) →
            ∃ t, exec ins' s = .next t ∧ becomes (i.setStreak i.core (n + 1) old) t) ∧
          (i.warp.walk = 0 → 7 ≤ n ∨ (1 ≤ n ∧ inval = false) →
            ∃ t, exec ins' s = .next t ∧ becomes { i.setStreak i.core 0 old with walk := 64 } t) ∧
          (i.warp.walk ≠ 0 → ∃ t e, exec ins' s = .next t ∧ (t.core i.core).degraded = true ∧ t.errLog.head? = some e ∧
            e.kind = 0x0102 ∧ e.sev = 2 ∧ e.source = i.core)
        ((s.core i.core).inj.toNat % 4 ≠ 1 → ∀ l, i.active.contains l = true → misses (differs (some (l, false)))) ∧
        ((s.core i.core).inj.toNat % 4 = 1 → i.movement = false → writesNoV ((s1.useSlot i m).checkedAs i ins).1 = false →
          i.active.contains ((s.core i.core).inj.toNat / 4 % 32) = true →
          misses (differs none) ∧ (i.warp.walk = 0 → ∃ t e, exec (differs none) s = .next t ∧
            (t.core i.core).inj = (s.core i.core).inj &&& ~~~3 ∧ t.errLog.head? = some e ∧ e.kind = 0x0107 ∧ e.sev = 0))) ∧
      ∀ a b l, i.team.cores = [a, b] → a ≠ b → (s.core a).inj.toNat % 4 ≠ 1 → (s.core b).inj.toNat % 4 ≠ 1 →
        i.active.contains l = true → i.warp.walk2 = 0 → i.streak b = 0 → ∃ t, exec (differs (some (l, true))) s = .next t ∧
          t.warpOf i = some (i.setStreak b 1 old) ∧ (t.core b).mismatches = (s.core b).mismatches + 1 ∧
          { t.core a with slots := (s.core a).slots } = s.core a) ∧
  (∀ (s : State) (i : Iss) (m : Nat), s.slotFor i = some m →
    m ≤ (s.cluster (i.core / 4)).cycle ∧ (s.cluster (i.core / 4)).barred m = false ∧ (∀ k, i.warp.checks[3]? = some k → k ≤ m) ∧
    ∀ p ∈ i.pipes, ∀ x, (s.core p.1).slots.find? (fun x => x.1 == p.2) = some x → x.2 < m) ∧
  (∀ (c : Cluster) (n : Nat),
    (∀ a, c.alarm = some a → (a < n → n ≤ a + 6 → c.barred n = false) ∧ (a + 6 < n → n ≤ a + 70 → (c.barred n = true ↔ (n - a) % 2 = 0))) ∧
    (c.alarm = none ∨ (∃ a, c.alarm = some a ∧ a + 70 < n) → c.floorFrom = none → c.barred n = false) ∧
    ∀ f, c.alarm = none → c.floorFrom = some f → (c.barred n = true ↔ f ≤ n ∧ (n - f) % 2 = 1)) ∧
  (∀ (s : State) (core : Nat),
    ((s.core core).degraded = true → (s.core core).retired = false →
      exec (.coreSelfTest core true) s = .next (s.updCore core fun k => { k with degraded := false, matDegraded := false }) ∧
      ∃ t e, exec (.coreSelfTest core false) s = .next t ∧ (t.core core).retired = true ∧ t.errLog.head? = some e ∧ e.kind = 0x0104 ∧ e.sev = 2) ∧
    ∀ v : Word,
      (v &&& 3 = 0 → exec (.coreInjWrite core v) s = .next (s.updCore core fun k => { k with inj := v &&& ~~~0x8080 })) ∧
      (v &&& 3 = 3 → ∃ t, exec (.coreInjWrite core v) s = .next t ∧ (t.core core).inj &&& 3 = (s.core core).inj &&& 3) ∧
      (v &&& 3 = 1 ∨ v &&& 3 = 2 → ∃ t e, exec (.coreInjWrite core v) s = .next t ∧ (t.core core).inj = v &&& ~~~0x8080 ∧
        t.errLog.head? = some e ∧ e.kind = 0x0106 ∧ e.sev = 0)) ∧
  (∀ (s : State) (cluster : Nat) (cores : BitVec 4), cores ≠ 0 →
    let named (c : Nat) : Prop := c / 4 = cluster ∧ cores.getLsbD (c % 4) = true
    let hit (c : Nat) : Prop := named c ∨ ∃ v ∈ s.teams, c ∈ v.cores ∧ ∃ d ∈ v.cores, named d
    ∃ t e, exec (.strikeReport cluster cores) s = .next t ∧ t.mem = s.mem ∧ t.go = false ∧
      t.errLog.head? = some e ∧ e.kind = 0x0101 ∧ e.sev = 1 ∧
      (∀ k u, s.team? k = some u → (∀ v ∈ s.teams, v.key = k → ∀ c ∈ v.cores, ¬ hit c) → t.team? k = some u.wake) ∧
      (∀ k u, s.team? k = some u → (∃ c ∈ u.cores, hit c) →
        (s.commitsSince u (s.tick - 199) = [] → t.team? k = some u.wake) ∧
        ∀ o, (s.commitsSince u (s.tick - 199)).getLast? = some o → ∃ v, t.team? k = some v ∧
          v.warps = (o.warps.map fun w => w.rolled (u.warpAt w.id)).map Warp.wake ∧ (v.rings, v.barriers, v.absent, v.freed) = (o.rings, o.barriers, o.absent, o.freed) ∧
          ∀ a, (∀ d ∈ s.commitsSince u (s.tick - 199), ∀ c ∈ d.scratch, c.1 ≠ a) → sget (0 : Byte) v.scratch a = sget (0 : Byte) u.scratch a) ∧
      ∀ k u, s.team? k = some u → (∃ c ∈ u.cores, hit c) ∨ (u.place = .gone ∧ ∃ c, named c ∧ ∃ h ∈ (s.core c).hold, h.team = k) → ∀ c ∈ t.cores, ∀ h ∈ c.hold, h.team = k → h.tick + 200 ≤ s.tick) ∧
  (∀ (s : State) (team warp lane back : Nat) (t : Team) (u : Undo) (w : Warp), s.team? team = some t → 2 ≤ t.cores.length →
    (warpCommits warp t (s.commitsSince t (s.tick - 100)))[back]? = some u → findKey Warp.id warp u.warps = some w →
    let r := s.rollBack ((s.teams.filter fun x => x.cores.any t.cores.contains).map Team.key) u.tick
    (w.dual = false → exec (.dualcoreMismatch team warp lane back) s =
      .next (r.updTeam team fun t => t.updWarp warp fun w => { w with dual := true })) ∧
    (w.dual = true → ∀ v x i, r.team? team = some v → v.warpAt warp = some x → issueOf r v x = some i →
      ∃ z e, exec (.dualcoreMismatch team warp lane back) s = .next z ∧ (∀ c ∈ t.cores, (z.core c).degraded = true) ∧
        z.errLog.head? = some e ∧ e.kind = 0x0102)) ∧
  (∀ (s : State) (unit : ErrUnit) (row : Option Word) (addr team : Option Nat),
    let vf := s.errVf unit team addr
    let counted : State := s.attribute vf (s.unitPart unit) fun c => { c with ce := satInc c.ce }
    (unitOk unit = false → exec (.eccCorrected unit row ⟨addr, team⟩) s = .next s) ∧
    (unitOk unit = true → row = none ∨ (∀ n, unit ≠ .channel n) → exec (.eccCorrected unit row ⟨addr, team⟩) s = .next counted) ∧
    (∀ v, vf = some v → (counted.vf v).cnt.ce = satInc (s.vf v).cnt.ce ∧ ∀ q, q ≠ v → counted.vf q = s.vf q) ∧
    ∀ n key, unit = .channel n → row = some key → n < 384 → key.toNat < 2 ^ 25 →
      ∃ t, exec (.eccCorrected unit row ⟨addr, team⟩) s = .next t ∧ t.vfs = counted.vfs ∧
      (t.chan n).estimate key = min 15 ((s.chan n).estimate key + 1) ∧ (t.chan n).total = (s.chan n).total + 1 ∧
      (t.chan n).scattered = (s.chan n).scattered + (if (s.chan n).estimate key = 0 then 1 else 0) ∧
      (∀ k, (s.chan n).estimate k ≤ (t.chan n).estimate k) ∧ (∀ m, m ≠ n → t.chan m = s.chan m) ∧
      ((s.chan n).estimate key = 0 → ∃ e, t.errLog.head? = some e ∧ e.kind = 0x0201 ∧ e.sev = 1) ∧
      ((s.chan n).estimate key = 2 → ∃ e, t.errLog.head? = some e ∧ e.kind = 0x0202 ∧ e.sev = 1) ∧
      ((s.chan n).estimate key ≠ 0 → (s.chan n).estimate key ≠ 2 → t.errLog = s.errLog)) ∧
  (∀ s : State, ∃ t, exec .cbfClear s = .next t ∧ ∀ n, (∀ key, (t.chan n).estimate key = 0) ∧
    (t.chan n).scattered = (s.chan n).scattered ∧ (t.chan n).total = (s.chan n).total) ∧
  (∀ (s : State) (unit : ErrUnit) (team : Option Nat), unitOk unit = true →
    let logged (t : State) (kind : Nat) : Prop := ∃ e, t.errLog.head? = some e ∧ e.kind = kind ∧ e.sev = 2
    (∀ a, ∃ t, exec (.eccUncorrectable .clean a unit team) s = .next t ∧ t.poison = s.poison ∧ t.cores = s.cores ∧ t.mem = s.mem ∧
      logged t 0x0203) ∧
    (∀ a, ∃ t, exec (.eccUncorrectable .line a unit team) s = .next t ∧ (∀ l ∈ s.poison, l ∈ t.poison) ∧ t.mem = s.mem ∧ logged t 0x0203 ∧
      ((∀ c, unit = .core c → ∀ d ∈ (s.core c).dirty, lineOf d.loc ≠ lineOf a) → lineOf a ∈ t.poison) ∧
      ∀ c, unit = .core c → (∃ d ∈ (s.core c).dirty, lineOf d.loc = lineOf a) → lineOf a ∈ (t.core c).poison) ∧
    ∀ key t g, s.team? key = some t → t.place ≠ .gone → s.grid? t.grid = some g →
      (g.record.restartable = true → ∃ v, exec (.eccUncorrectable .team key unit team) s = .next v ∧ v.team? key = none ∧
        (v.grid? t.grid).map Grid.requeued = some (g.requeued ++ [t.index]) ∧ logged v 0x0203) ∧
      (g.record.restartable = false → g.ctx = t.ctx → g.ended = false → ∃ v d, exec (.eccUncorrectable .team key unit team) s = .next v ∧
        (∀ u ∈ v.teams, u.key = key → u.place = .gone) ∧ logged v 0x0203 ∧ v.diags = s.diags ++ [d] ∧ d.vf = t.vf s ∧ d.cause = causeECCU)) ∧
  (∀ (s : State) (r : DiagRec) (rs : List DiagRec), s.diags = r :: rs → s.postDiag.diags = rs ∧ ∃ e, s.postDiag.errLog.head? = some e ∧
    e.kind = 0x0105 ∧ e.sev = 2 ∧ e.tick = s.tick ∧
    e.detail.take 8 = leList 1 r.vf ++ leList 1 r.cause ++ leList 2 0 ++ leList 4 r.serial.toNat) ∧
  (∀ (s : State) (core : Nat), exec (.tagError (.clean core)) s = .next s ∧
    ((∀ t ∈ s.teams, core ∉ t.cores) → ∃ v e, exec (.tagError (.dirty core)) s = .next v ∧ v.mem = s.mem ∧
      v.errLog.head? = some e ∧ e.kind = 0x0203 ∧ e.source = core % 65536) ∧
    ∀ t g, s.teams.filter (fun t => t.cores.contains core) = [t] → s.team? t.key = some t → s.grid? t.grid = some g →
      g.record.restartable = true → ∃ v, exec (.tagError (.dirty core)) s = .next v ∧ v.team? t.key = none ∧
        (v.grid? t.grid).map Grid.requeued = some (g.requeued ++ [t.index])) ∧
  (∀ (s : State) (unit : ErrUnit), (∀ c, unit ≠ .core c) → unitOk unit = true → (∃ p ∈ s.parts, p.num = s.unitPart unit) →
    exec (.tagError (.shared unit)) s = .next ((s.countUe none (s.unitPart unit)).teardown (s.unitPart unit) (unitSource unit))) ∧
  (∀ (s : State) (part unit : Nat), (∃ p ∈ s.parts, p.num = part) →
    ∃ t e, exec (.partitionTeardown part unit) s = .next t ∧ (∀ u ∈ t.teams, t.partOf u = part → u.place = .gone) ∧
      (∀ a, (s.part part).owns a = true → memByte t.mem a = 0) ∧ (∀ c ∈ (s.part part).coreNums, (t.core c).hold = []) ∧
      (t.part part).accepting = false ∧ (t.part part).down = true ∧ t.frozen = true ∧ t.errLog.head? = some e ∧ e.kind = 0x0301 ∧ e.sev = 3 ∧
      ((t.endTeardown part).part part).accepting = decide (7 ≤ s.boot.at_) ∧ ((t.endTeardown part).part part).down = false) ∧
  ∀ (s : State) (part unit : Nat), (∀ p ∈ s.parts, p.num ≠ part) → exec (.partitionTeardown part unit) s = .next s

/-- R112, R126, R213, R214, R254 to R258, R267, R268, R311, R335, R343, R382, R390, R394, R397, R400. A step that is not due changes nothing
(log 2); the order in which effects leave is log 20, one hold entry per hypothesis tag and hall team log 74, cores waiting for one
another's releases log 70, how versions still core-dirty take part in a resolve log 31, ids returned to a pool log 67. -/
def Obligations.HoldAndFills : Prop :=
  let landed (ds : List Dirty) (t : State) : Prop := ∀ d ∈ ds, d.tag = 0 → isPeer d.loc = false →
    (∀ e ∈ ds, e.tag = 0 → e.loc = d.loc → e.val = d.val) → memByte t.mem d.loc = d.val
  (∀ (s : State) (core : Nat), (s.core core).hold = [] → exec (.holdRelease core) s = .next s) ∧
  (∀ (s : State) (core : Nat) (h : Held) (rest : List Held), (s.core core).hold = h :: rest →
    let ins : Instr := .holdRelease core
    let dirty := (s.core core).dirty
    (s.tick < h.tick + 200 → exec ins s = .next s) ∧
    (h.tick + 200 ≤ s.tick → h.eff.systemRelease = true → s.peerDirty core ≠ [] → exec ins s = .next (s.publish core (s.peerDirty core))) ∧
    ((h.eff.systemRelease = true → s.peerDirty core = []) → s.mustStay core h.eff = true → exec ins s = .next s) ∧
    (h.tick + 200 ≤ s.tick → (h.eff.systemRelease = true → s.peerDirty core = []) → s.mustStay core h.eff = false →
      exec ins s = .next (wakeAll ((s.updCore core fun k => { k with hold := rest, stsRel := k.stsRel - 1 }).leaves core h
        ((s.core core).stsRel != 0) |>.ownReleased core)).sweep ∧ ((s.core core).stsSys = false →
      (∀ ctx cells, h.eff = .store ctx 0 cells none → ∃ t, exec ins s = .next t ∧ (t.core core).hold = rest ∧ t.mem = s.mem ∧
        ∀ a b, lastAt cells a = some b → (∃ d ∈ (t.core core).dirty, d.loc = a ∧ d.tag = 0) ∧
          ∀ d ∈ (t.core core).dirty, d.loc = a → d.tag = 0 → d.val = b) ∧
      (∀ ctx cells scp, h.eff = .store ctx 0 cells (some scp) → scp ≠ .core → ∃ t, exec ins s = .next t ∧ (t.core core).hold = rest ∧
        landed dirty t ∧ ∀ d ∈ (t.core core).dirty, ∃ c ∈ cells, c.1 = d.loc) ∧
      (∀ key scp, h.eff = .fence key true scp → ∃ t, exec ins s = .next t ∧ (t.core core).hold = rest ∧
        landed dirty t ∧ (t.core core).dirty = []) ∧
      (h.eff = .cctl none → ∃ t, exec ins s = .next t ∧ (t.core core).hold = rest ∧ (t.core core).dirty = [] ∧
        ((s.cluster (core / 4)).fused = none → landed dirty t) ∧
        ((s.cluster (core / 4)).fused ≠ none → ∀ c, c / 4 = core / 4 → (t.core c).dirty = [])) ∧
      (∀ k cells u, h.eff = .hall k cells none → s.team? k = some u → u.place ≠ .gone → ∃ t v, exec ins s = .next t ∧ t.mem = s.mem ∧
        (t.core core).hold = rest ∧ t.team? k = some v ∧ ∀ a, sget (0 : Byte) v.scratch a = (lastAt cells a).getD (sget (0 : Byte) u.scratch a)) ∧
      (∀ ctx q, h.eff = .atom ctx none none q → (∀ p ∈ q.parts, p.tag = 0 ∧ p.drop = false ∧ p.loc < 2 ^ 48 ∧ p.loc + q.bytes ≤ 2 ^ 48) →
        (∀ k ∈ s.cores, ∀ d ∈ k.dirty, ∀ p ∈ q.parts, d.loc / 128 ≠ p.loc / 128) →
        let r := scratchAtoms q.aop q.bytes (atomGroups q.parts).flatten s.mem
        ∃ t, exec ins s = .next t ∧ (t.core core).hold = rest ∧ t.mem = r.2 ∧
          ∀ p ∈ t.pend, p.key = q.key → ∀ l ∈ p.lanes, ∀ o, r.1.find? (fun o => o.1 == l.lane) = some o → l.val = some o.2) ∧
      (∀ r, h.eff = .resolve r → ∃ t, exec ins s = .next t ∧ (t.core core).hold = rest ∧ t.resolving = s.resolving ++ [r] ∧ t.mem = s.mem) ∧
      ∀ ctx id, h.eff = .node ctx id → ∃ t, exec ins s = .next t ∧ (t.core core).hold = rest ∧ t.mem = s.mem ∧
        (∀ x ∈ (t.ctx ctx).nodes, (x.id = id → x.atDir = true) ∧ ∃ y ∈ (s.ctx ctx).nodes, y.id = x.id) ∧
        ∀ y ∈ (s.ctx ctx).nodes, y.id ≠ id → (∀ z ∈ (s.ctx ctx).nodes, z.id = y.id → z.st ≠ .merged ∧ z.st ≠ .refuted) → ∃ x ∈ (t.ctx ctx).nodes, x.id = y.id))) ∧
  (∀ (s : State) (core : Nat),
    let old : Prop := ∃ u ∈ (s.core core).undo, u.tick + 200 ≤ s.tick
    (old → exec (.undoLogRetire core) s = .next (((s.ctxs.map Ctx.num).foldl State.freeIds
      (s.updCore core fun k => { k with undo := k.undo.filter fun u => decide (s.tick < u.tick + 200) })).takeDue core)) ∧
    (¬ old → exec (.undoLogRetire core) s = .next s) ∧
    (s.dueOn core = [] → ∃ t, exec (.undoLogRetire core) s = .next t ∧ t.mem = s.mem ∧ t.teams = s.teams ∧
      (t.core core).undo = (s.core core).undo.filter (fun u => decide (s.tick < u.tick + 200)) ∧
      (t.core core).hold = (s.core core).hold ∧ ∀ n, n ≠ core → t.core n = s.core n)) ∧
  (∀ (s : State) (core : Nat), ∃ t, exec (.publishTimeout core) s = .next t ∧ t.teams = s.teams ∧
    (∀ d ∈ (t.core core).dirty, d ∈ (s.core core).dirty ∧ s.tick < d.tick + 4096) ∧
    landed ((s.core core).dirty.filter fun d => !(t.core core).dirty.contains d) t) ∧
  (let fills (ins : Instr) (s : State) (p : Pend) : Prop :=
      ∀ u w, s.team? p.team = some u → u.warpAt p.warp = some w → ∃ t v x, exec ins s = .next t ∧ t.team? p.team = some v ∧
        v.warpAt p.warp = some x ∧ (∀ q ∈ t.pend, q.key ≠ p.key) ∧ t.mem = s.mem ∧
        (∀ n, n ≠ p.warp → v.warpAt n = (u.warpAt n).map Warp.wake) ∧
        ∀ l row, srising (w.lane l).regs = true →
          (((w.lane l).cell row).fill ≠ .empty (.access p.key) ∨ (w.lane l).life = .finished → (x.lane l).cell row = (w.lane l).cell row) ∧
          (((w.lane l).cell row).fill = .empty (.access p.key) → (w.lane l).life ≠ .finished → ∀ q, p.lanes.find? (fun q => q.lane == l) = some q →
            (x.lane l).cell row = { val := BitVec.ofNat 32 (q.val.getD 0 / 2 ^ (32 * (row - q.row))), fill := .full });
    (∀ (s : State) (key : Nat) (p : Pend), s.pend.find? (fun p => p.key == key && !p.atomic) = some p →
      ((∃ l ∈ p.lanes, l.val = none) → exec (.loadFill key) s = .next s) ∧
      ((∀ l ∈ p.lanes, l.val ≠ none) → fills (.loadFill key) s p)) ∧
    ∀ (s : State) (key : Nat) (p : Pend), s.pend.find? (fun p => p.key == key && p.atomic) = some p →
      ((∃ l ∈ p.lanes, l.val = none) → exec (.atomicReturn key) s = .next s) ∧
      ((∀ l ∈ p.lanes, l.val ≠ none) → fills (.atomicReturn key) s p))

/-- R110, R117, R198, R221, R226 to R228, R231, R232, R235, R269 to R271, R303 to R306, R423, R427, R431 to R433, R437 to R439, R442. Which
line is written next, and a difference of the row check, are facts of the run, and a step that is not due changes nothing (log 2); poison is
log 24, what a cancelled or rolled-back operation leaves log 28, the instant at which the descriptor is read log 69. -/
def Obligations.EnginesRun : Prop :=
  (∀ (s : State) (cl key : Nat) (rest : List Nat), (s.cluster cl).layq = key :: rest →
    ∃ t more, exec (.layoutCommandStart cl) s = .next t ∧
      t.copies = s.copies.map (fun (c : CopyOp) => if c.key = key then { c with started := true } else c) ∧
      (t.cluster cl).layq = key :: rest ++ more ∧ (more ≠ [] → rest.length + more.length < 16) ∧ (∀ n, n ≠ cl → t.cluster n = s.cluster n) ∧
      (∀ k ∈ more, ∃ c ∈ s.copies, c.key = k ∧ c.kind = .lxf ∧ c.left_ = true ∧ c.core / 4 = cl) ∧
      { t with copies := s.copies, clusters := s.clusters } = s) ∧
  (∀ (s : State) (key : Nat) (op : CopyOp), s.copies.find? (fun c => c.key == key) = some op →
    let spent := op.left_ = true ∧ (∀ j ∈ op.jobs, j.done = true) ∧ s.asked (fun c => c == 6 || c == 7) key = false
    (¬ spent → exec (.copyComplete key) s = .next s) ∧
    (spent → ∃ t, exec (.copyComplete key) s = .next t ∧ (∀ c ∈ t.copies, c.key ≠ key) ∧ (∀ o ∈ t.owned, o.key ≠ key) ∧ t.mem = s.mem ∧
      ∀ u, s.team? op.team = some u → u.place ≠ .gone → ∃ v, t.team? op.team = some v ∧
        v.scratch = u.scratch ∧
        v.warps.map Warp.tokens = u.warps.map fun w => w.tokens.map fun k =>
          if k.ops.contains key then { k with ops := k.ops.filter fun n => n != key } else k)) ∧
  (∀ (s : State) (key line : Nat) (op : CopyOp) (i : Iss) (j : Job), s.copies.find? (fun c => c.key == key) = some op →
    s.opIss op = some i → op.jobs.find? (fun j => j.line == line && !j.done) = some j → s.mayWrite op line = true →
    (∀ off k ks u, s.opAt i op op.dstKind (128 * line) = .own off → s.team? i.team.key = some u →
      u.absent.find? (fun a => a.1 == off / 128) = some (k, key :: ks) →
      (∀ t, s.readLine i op line = .wait t → exec (.lineLand key line) s = .next t) ∧
      (∀ t, s.readLine i op line = .fail t false → exec (.lineLand key line) s = .next (t.endCopy op true)) ∧
      (∀ t, s.readLine i op line = .fail t true → exec (.lineLand key line) s = .next ((t.updTeam i.team.key fun u =>
        { u with poison := (u.poison.filter (· != off / 128)) ++ [off / 128] }).endCopy op true)) ∧
      ∀ r cells, s.readLine i op line = .ready r cells → ∃ t v, exec (.lineLand key line) s = .next t ∧ t.mem = r.mem ∧
        t.team? i.team.key = some v ∧ v.absent = landLine (off / 128) key u.absent ∧
        (∀ a, sget (0 : Byte) v.scratch a = (lastAt (cells.map fun c => (128 * (off / 128) + c.1 % 128, c.2)) a).getD
          (sget (0 : Byte) u.scratch a)) ∧
        ∀ c ∈ t.copies, c.key = key → ∀ j ∈ c.jobs, j.line = line → j.done = true) ∧
    (∀ pl, j.phys = some pl → s.opTag i op = some 0 →
      (∀ o, s.owned.find? (fun o => o.line == pl && sameTag o.ctx o.tag i.team.ctx 0) = some o → o.key = key) →
      (∀ t, s.readLine i op line = .wait t → exec (.destinationLineWrite key line) s = .next t) ∧
      (∀ t, s.readLine i op line = .fail t true → exec (.destinationLineWrite key line) s = .next ((t.poisonLine (some pl)).endCopy op true)) ∧
      (∀ t, s.readLine i op line = .fail t false → exec (.destinationLineWrite key line) s = .next (t.endCopy op true)) ∧
      ∀ r cells, s.readLine i op line = .ready r cells → isPeer (128 * pl) = false →
        ∃ t, exec (.destinationLineWrite key line) s = .next t ∧
          (∀ a, memByte t.mem a = (lastAt (cells.map fun c => (128 * pl + c.1 % 128, c.2)) a).getD (memByte r.mem a)) ∧
          (∀ o ∈ t.owned, ¬ (o.key = key ∧ o.line = pl)) ∧ ∀ c ∈ t.copies, c.key = key → ∀ j ∈ c.jobs, j.line = line → j.done = true)) ∧
  (∀ (s : State) (i : Iss) (op : CopyOp) (line : Nat) (r : State) (cells : List (Nat × Byte)), s.readLine i op line = .ready r cells →
    cells.map Prod.fst = (op.bytesOf line).map Prod.fst ∧ (∀ c ∈ cells, c.1 / 128 = line) ∧
    ((∀ p ∈ op.bytesOf line, p.2 = none) → ∀ c ∈ cells, c.2 = 0)) ∧
  (∀ (d : Dim) (n : Nat), n < d.ext → d.rev = false →
    (n < d.lim → elemAt [d] n = (n * d.dstr, some (n * d.sstr))) ∧ (d.lim ≤ n → elemAt [d] n = (n * d.dstr, none))) ∧
  (∀ (s : State) (core : Nat) (o : MatOp) (rest : List MatOp) (t : Team) (g : Grid), (s.core core).matq = o :: rest →
    s.team? o.team = some t → s.grid? t.grid = some g → o.paired = false →
    (t.leaving.saving = true → exec (.matrixOpStart core) s = .next s ∧ ∀ d, exec (.kBlockComplete core d) s = .next s) ∧
    (t.leaving.saving = false → unfHere t o = false → exec (.matrixOpStart core) s = .next s) ∧
    (t.leaving.saving = false → unfHere t o = true → o.started = false → matOk t g o = false → exec (.matrixOpStart core) s = .next (s.endMat core o statusBADFMT 0)) ∧
    (t.leaving.saving = false → unfHere t o = true → o.started = false → matOk t g o = true → ∃ u v p ps, exec (.matrixOpStart core) s = .next u ∧ (u.core core).matq = p :: ps ∧
      p = { o with started := true, armed := p.armed, pairWait := none
                   desc := if o.unfolded = true ∧ o.nextK = 0 then unfBytes t o else o.desc } ∧ u.team? o.team = some v ∧
      (∀ m n, m < o.m → n < o.n → o.accumulate = false → o.nextK = 0 → v.tileWord o.tile (o.row0 + m) (o.col0 + n) = 0) ∧
      (o.accumulate = true → v.tiles = t.tiles)) ∧
    (t.leaving.saving = false → o.started = true → o.passed = false → o.globalB = false → o.armed = [] → blockPresent t g o t o o.nextK = true →
      let word (m n : Nat) : Word := blockWord t g o t o o.nextK m n
      (o.row0 + o.m ≤ 128 → o.col0 + o.n ≤ 256 → o.cancel = false → ∃ u v, exec (.kBlockComplete core false) s = .next u ∧ u.mem = s.mem ∧
        u.team? o.team = some v ∧ v.scratch = t.scratch ∧
        (∀ m n, m < o.m → n < o.n → v.tileWord o.tile (o.row0 + m) (o.col0 + n) = word m n) ∧
        (∀ e row col, row < 128 → col < 256 →
          ¬ (e = o.tile ∧ o.row0 ≤ row ∧ row < o.row0 + o.m ∧ o.col0 ≤ col ∧ col < o.col0 + o.n) → v.tileWord e row col = t.tileWord e row col) ∧
        (o.nextK + 1 < o.k / 32 → ∃ p ps, (u.core core).matq = p :: ps ∧ p = { o with nextK := o.nextK + 1, fails := 0, pairWait := none }) ∧
        (o.k / 32 ≤ o.nextK + 1 → ∀ p ∈ (u.core core).matq, ¬ (p.team = o.team ∧ p.id = o.id))) ∧
      (o.fails + 1 < 3 → ∃ u p ps, exec (.kBlockComplete core true) s = .next u ∧ (u.core core).matq = p :: ps ∧
        p = { o with fails := o.fails + 1 } ∧ (u.vf (t.vf s)).cnt.rowReplay = satInc (s.vf (t.vf s)).cnt.rowReplay ∧
        (u.team? o.team).map Team.tiles = some t.tiles) ∧
      (3 ≤ o.fails + 1 → ∃ u e, exec (.kBlockComplete core true) s = .next u ∧ (u.core core).matDegraded = true ∧
        u.errLog.head? = some e ∧ e.kind = 0x0103 ∧ e.sev = 2 ∧ ∀ p ∈ (u.core core).matq, ¬ (p.team = o.team ∧ p.id = o.id)))) ∧
  (∀ (s : State) (core upper : Nat) (o : MatOp) (rest : List MatOp) (t : Team) (g : Grid), (s.core core).matq = o :: rest →
    s.team? o.team = some t → t.key = o.team → s.grid? t.grid = some g → t.place = .on core (some upper) → (s.core upper).matq = [] →
    (∀ u ∈ s.teams, ∀ c, u.place = .on c (some upper) → u = t) → upper ≠ core → o.paired = false → o.started = true → o.passed = false →
    o.globalB = false → t.leaving.saving = false → blockPresent t g o t o o.nextK = true →
    exec (.kBlockComplete upper false) s = .next s ∧
    (o.fails + 1 < 3 → ∃ u p ps, exec (.kBlockComplete upper true) s = .next u ∧ (u.core core).matq = p :: ps ∧ p = { o with fails := o.fails + 1 }) ∧
    (3 ≤ o.fails + 1 → ∃ u e, exec (.kBlockComplete upper true) s = .next u ∧ (u.core upper).matDegraded = true ∧
      u.errLog.head? = some e ∧ e.kind = 0x0103 ∧ e.source = sourceOfCore upper ∧ ∀ p ∈ (u.core core).matq, ¬ (p.team = o.team ∧ p.id = o.id))) ∧
  (∀ (s : State) (core c : Nat) (o x : MatOp) (rest : List MatOp) (t u : Team) (g h : Grid), (s.core core).matq = o :: rest →
    s.team? o.team = some t → s.grid? t.grid = some g → s.pairTeam t = some u → s.otherHalf o = some (c, x) → s.team? x.team = some u →
    s.grid? u.grid = some h → o.paired = true → o.started = false → g.record.paired = true → t.pairFails = 0 →
    t.leaving.saving = false → u.leaving.saving = false → unfHere t o = true → unfHere u x = true →
    let status (ok : Bool) : Nat := if ok then statusPAIRFAIL else statusBADFMT
    let good := matOk t g o = true ∧ matOk u h x = true ∧ halvesAgree g h o x = true ∧ halfFits t o = true
    (¬ good → o.nextK = 0 → exec (.matrixOpStart core) s =
      .next ((s.endMat c x (status (matOk u h x)) 0).endMat core o (status (matOk t g o)) 0)) ∧
    (good → (s.core c).matq.head? = some x → ∃ v, exec (.matrixOpStart core) s = .next v ∧
      (∃ p ∈ (v.core core).matq, p.team = o.team ∧ p.id = o.id ∧ p.started = true) ∧
      ∃ p ∈ (v.core c).matq, p.team = x.team ∧ p.id = x.id ∧ p.started = true)) ∧
  (∀ (t : Team) (g : Grid) (o : MatOp) (j m n : Nat), (slotElem (o.slotA g)).int = true →
    blockWord t g o t o j m n = BitVec.ofInt 32 ((t.tileWord o.tile (o.row0 + m) (o.col0 + n)).toInt +
      ((List.range 32).map fun i =>
        ((mulFV (aValue t g o m (32 * j + i)) (bValue t g o (32 * j + i) n)).1).toInt).sum)) ∧
  (∀ (s : State) (core status block : Nat) (o : MatOp) (u : Team) (w : Warp), s.team? o.team = some u → u.warpAt o.warp = some w →
    ∃ v x, (s.endMat core o status block).team? o.team = some v ∧ v.warpAt o.warp = some x ∧
      ∀ l row, srising (w.lane l).regs = true → (w.lane l).life ≠ .finished → ((w.lane l).cell row).fill = .empty (.engine o.id) →
        ((x.lane l).cell row).val = handleValue status o.id ∧
        ((x.lane l).cell row).fill = if mmafStatus status o.id then .failed (mmafInfo status o.id block) else .full) ∧
  ∀ (s : State) (core k : Nat) (o : MatOp) (rest : List MatOp) (t : Team) (g : Grid), (s.core core).matq = o :: rest →
    s.team? o.team = some t → s.grid? t.grid = some g → o.pairWait = some k →
    let saving := t.leaving.saving = true ∨ (o.paired = true ∧ ∃ u, s.pairTeam t = some u ∧ u.leaving.saving = true)
    (saving ∨ (s.cluster (core / 4)).kcyc < k + 1000 * g.record.pairCycles → exec (.pairWatchdog core) s = .next s) ∧
    (¬ saving → k + 1000 * g.record.pairCycles ≤ (s.cluster (core / 4)).kcyc → exec (.pairWatchdog core) s =
      .next ((s.failPartner o).endMat core o statusPAIRFAIL o.nextK))

/-- R59 to R62, R161, R249 to R251, R273 to R277, R396, R400, R418, R421, R455. Rests on the model's choices of logs 2 (a row
that is not due, or names nothing, changes nothing), 13 (the event ring's context), 29 (the answer is an operand, and a row
with none is a fault), 30, 31, 32, 37 (a last evaluation at a WAITC's timeout), 66 (the ring), 67 (the corners of ids) and
71 (the record is posted later). -/
def Obligations.FaultsAndResolves : Prop :=
  (∀ (s : State) (vf serial : Nat) (pl : Plug) (e : FaultEntry),
    (s.vf vf).faults.find? (fun e => e.serial == serial && !e.posted) = some e →
    let gives (u : State) : Prop := exec (.faultEntry vf serial pl) s = .next u
    ((s.vf vf).plugin = none → gives (s.postFault vf e) ∧ ∃ t, gives t ∧
      (e.stage = 2 → t.outbox = .stage2 vf serial e.page e.kind :: s.outbox) ∧
      ∀ f ∈ (t.vf vf).faults, f.serial = serial → f.posted = true ∧
        (e.stage ≠ 2 → (s.vf vf).evtBase = 0 → f.repost = some (s.tick + 1000000))) ∧
    (∀ p, (s.vf vf).plugin = some p → p.disabled = true → p.expired = false → gives (s.postFault vf e)) ∧
    (∀ p, (s.vf vf).plugin = some p → p.expired = true →
      let c := (s.callPlugin vf p [2, vf, serial, e.kind, e.stage, e.va] (plugWrites pl)).1.updVf vf fun v => { v with
        plugin := v.plugin.map fun q => { q with expired := false } }
      gives ((c.retryFault vf serial).wakeVf vf)) ∧
    ∀ p ws, (s.vf vf).plugin = some p → p.disabled = false → p.expired = false →
      let c := s.callPlugin vf p [2, vf, serial, e.kind, e.stage, e.va] ws
      let retried (u : State) : Prop := gives ((u.retryFault vf serial).wakeVf vf)
      (c.2 = true ↔ ∀ w ∈ ws, plugDataAt vf ≤ w.1 ∧ w.1 < plugDataAt vf + p.dataBytes) ∧
      (pl = .ecall 0x4F4E5250 0 ws → c.2 = true → retried c.1) ∧
      (pl = .ecall 0x4F4E5250 1 ws → c.2 = true → gives ((c.1.killFault vf serial).wakeVf vf)) ∧
      (pl = .ecall 0x4F4E5250 2 ws → c.2 = true → gives (c.1.postFault vf e)) ∧
      (pl = .exception ws ∨ (pl = .none ∧ ws = []) → retried (c.1.pluginFault vf)) ∧
      ∀ a7 a0, c.2 = false ∨ a7 ≠ 0x4F4E5250 ∨ a0 < 0 ∨ 2 < a0 → pl = .ecall a7 a0 ws → retried (c.1.pluginFault vf)) ∧
  (∀ (s : State) (vf serial : Nat), s.copies = [] →
    let t := s.retryFault vf serial
    (t.vf vf).faults = (s.vf vf).faults.filter (fun e => e.serial != serial) ∧ t.mem = s.mem ∧
    ∀ u ∈ t.teams, t.vfTeam vf u = true → ∀ w ∈ u.warps, ∀ k ∈ w.lanes, k.onFault serial = false) ∧
  (∀ (s : State) (vf serial d : Nat) (e : FaultEntry), (s.vf vf).faults.find? (fun e => e.serial == serial) = some e →
    e.repost = some d →
    (d ≤ s.tick → exec (.pageFaultRepost vf serial) s = .next (s.postFault vf e)) ∧
    (s.tick < d → exec (.pageFaultRepost vf serial) s = .next s)) ∧
  (∀ (s : State) (vf kind queue gate value : Nat) (detail : List Byte),
    let v := s.vf vf
    let t := s.post vf kind queue gate value detail
    (v.evtBase = 0 ∨ v.evtTail - v.evtHead = 128 → t = s.updVf vf fun v => { v with evtLost := satInc v.evtLost }) ∧
    (v.evtBase ≠ 0 → v.evtTail - v.evtHead ≠ 128 → ∀ c u, s.ringCtx vf = some c →
      s.devWrite c (v.evtBase.toNat + 32 * (v.evtTail.toNat % 128)) (eventBytes s.tick kind queue gate value detail) = some u →
      t = u.updVf vf fun v => { v with evtTail := v.evtTail + 1 })) ∧
  (∀ (s : State) (vf : Nat) (p : Plugin), (s.vf vf).plugin = some p → p.disabled = false →
    ∃ t, exec (.pluginBudgetExpiry vf) s = .next t ∧ (t.vf vf).plugin = some { p with
      faults := p.faults + 1, disabled := decide (16 ≤ p.faults + 1), expired := true }) ∧
  (∀ (s : State) (key : Nat) (r : Resolve), s.resolving.find? (fun r => r.key == key && !r.applied) = some r →
    let c := s.ctx r.ctx
    let ins : Instr := .resolvePoint key
    let oldest := (s.resolving.find? fun q => q.ctx == r.ctx && !q.applied).map Resolve.key = some key
    let applied (t : State) (status : Nat) : Prop := ∀ q ∈ t.resolving, q.key = key → q.applied = true ∧ q.status = status
    (¬ oldest → exec ins s = .next s) ∧
    (oldest → c.resolvable r.id = false → exec ins s = .next (s.markApplied key statusFAULT) ∧ applied (s.markApplied key statusFAULT) 2) ∧
    (oldest → c.resolvable r.id = true → r.confirm = true → ∀ n v, c.node? r.id = some n → n.parent = 0 → (∀ k ∈ s.cores, k.dirty = []) →
      s.vers.filter (fun w => w.ctx == r.ctx && w.id == r.id) = [v] →
      ∃ t x, exec ins s = .next t ∧ applied t 0 ∧ (∀ w ∈ t.vers, ¬ (w.ctx = r.ctx ∧ w.id = r.id)) ∧
        (∀ a, isPeer a = false → memByte t.mem a = (lastAt v.cells a).getD (memByte s.mem a)) ∧
        (t.ctx r.ctx).node? r.id = some x ∧ x.st = .resolving ∧ x.fate = some true) ∧
    (oldest → c.resolvable r.id = true → r.confirm = false → ∃ t x, exec ins s = .next t ∧ applied t 0 ∧ t.mem = s.mem ∧
      (∀ w ∈ t.vers, w.ctx = r.ctx → c.under r.id 256 w.id = false) ∧
      (∀ w ∈ s.vers, w.ctx ≠ r.ctx ∨ c.under r.id 256 w.id = false → w ∈ t.vers) ∧
      (∀ k ∈ t.cores, ∀ d ∈ k.dirty, d.ctx = r.ctx → c.under r.id 256 d.tag = false) ∧
      (∀ n ∈ c.nodes, n.atDir = true → c.under r.id 256 n.id = true →
        ∃ y ∈ (t.ctx r.ctx).nodes, y.id = n.id ∧ y.st = .resolving ∧ y.fate = some false) ∧
      (∀ n ∈ c.nodes, c.under r.id 256 n.id = false → n ∈ (t.ctx r.ctx).nodes) ∧
      (t.ctx r.ctx).node? r.id = some x ∧ x.st = .resolving ∧ x.fate = some false)) ∧
  (∀ (s : State) (key : Nat) (r : Resolve), s.resolving.find? (fun r => r.key == key && r.applied) = some r →
    ∃ t, exec (.resolveComplete key) s = .next t ∧ (∀ q ∈ t.resolving, q.key ≠ key) ∧ t.mem = s.mem ∧
      (∀ n, r.status = statusOK → r.confirm = true → (s.ctx r.ctx).node? r.id = some n → n.st = .resolving → n.fate = some true → s.holds r.ctx r.id = true →
        ∃ x, (t.ctx r.ctx).node? r.id = some x ∧ x.st = .merged) ∧
      ∀ u w, s.team? r.team = some u → u.warpAt r.warp = some w → ∃ v x, t.team? r.team = some v ∧ v.warpAt r.warp = some x ∧
        ∀ l row, srising (w.lane l).regs = true → (w.lane l).life ≠ .finished → ((w.lane l).cell row).fill = .empty (.engine (6 * 2 ^ 24 + r.serial)) → r.serial < 2 ^ 24 →
          (x.lane l).cell row = { val := handleValue r.status (6 * 2 ^ 24 + r.serial), fill := .full }) ∧
  (∀ (s : State) (team warp lane : Nat) (i : Iss), s.laneIss team warp lane 0 = some i → lane < i.warp.lanes.length →
    let k := i.warp.lane lane
    let orphan := k.life = .live ∧ k.handler = none ∧ i.team.core? ≠ none ∧ k.hcur ≠ 0 ∧ (s.ctx i.team.ctx).stateOf k.hcur.toNat = .refuted
    (¬ orphan → exec (.orphanTrap team warp lane) s = .next s) ∧
    (orphan → undoFull s i = true → exec (.orphanTrap team warp lane) s = .next s) ∧
    (orphan → undoFull s i = false → i.grid.record.trapEntry ≠ 0 → ∃ t x, exec (.orphanTrap team warp lane) s = .next t ∧
      t.warpOf i = some x ∧ (x.lane lane).pc = BitVec.ofNat 32 i.grid.record.trapEntry ∧ (x.lane lane).handler ≠ none ∧ t.mem = s.mem ∧
      ∀ l, l ≠ lane → l < i.warp.lanes.length → (x.lane l).alike (i.warp.lane l))) ∧
  (∀ (s : State) (team bar f : Nat) (t : Team) (g : Grid), s.team? team = some t → s.grid? t.grid = some g →
    (t.bar bar).firstWait = some f → t.savedAt = none → t.place ≠ .gone →
    let limit := if g.record.dogTicks = 0 then 10000000 else g.record.dogTicks
    (s.tick < f + (t.bar bar).paused + limit → exec (.barrierWatchdog team bar) s = .next s) ∧
    (f + (t.bar bar).paused + limit ≤ s.tick → g.ctx = t.ctx → g.ended = false → ∃ v d, exec (.barrierWatchdog team bar) s = .next v ∧
      (∀ u ∈ v.teams, u.grid = g.key → u.place = .gone) ∧
      v.diags = s.diags ++ [d] ∧ d.cause = causeBARTMO ∧ d.vf = (s.ctx t.ctx).vf ∧ v.errLog = s.errLog ∧
      ∀ k u, s.team? k = some u → u.place ≠ .gone → (∀ w ∈ s.teams, w.key = k → ∀ h ∈ s.grids, h.key = w.grid → h.ctx ≠ t.ctx) →
        v.team? k = some u)) ∧
  (∀ (s : State) (key : Nat) (w : WaitC) (i : Iss), s.waitcs.find? (fun w => w.key == key) = some w →
    s.watcher w.team w.warp w.lane = some i →
    let r := s.condBits i w.lines w.lane w.hcur w.conds 0
    let holds := modeHolds w.all (usedBits w.conds) r.2
    let filled (ins : Instr) (n : Nat) : Prop := ∃ t v x, exec ins s = .next t ∧ t.team? w.team = some v ∧ v.warpAt w.warp = some x ∧
      (∀ y ∈ t.waitcs, y.key ≠ key) ∧ ∀ l row, srising (i.warp.lane l).regs = true →
        (((i.warp.lane l).cell row).fill = .empty (.waitc key) → (i.warp.lane l).life ≠ .finished → (x.lane l).cell row = { val := BitVec.ofNat 32 n }) ∧
        (((i.warp.lane l).cell row).fill ≠ .empty (.waitc key) ∨ (i.warp.lane l).life = .finished → (x.lane l).cell row = (i.warp.lane l).cell row)
    let absent := w.conds.any (s.watchAbsent i w.lane)
    (absent = true → exec (.waitcEvaluate key) s = .next s) ∧
    (absent = false → holds = true → filled (.waitcEvaluate key) r.2) ∧
    (absent = false → holds = false → ∃ t, exec (.waitcEvaluate key) s = .next t ∧ t.teams = r.1.teams ∧
      ∀ y ∈ t.waitcs, y.key = key → y.lastEval = s.tick) ∧
    ∀ d, w.deadline = some d →
      (s.tick < d → exec (.waitcTimeout key) s = .next s) ∧
      (d ≤ s.tick → filled (.waitcTimeout key) (if holds then r.2 else r.2 + 128))) ∧
  ∀ (used got : Nat), modeHolds true used got = decide (used = 0 ∨ got = used) ∧ modeHolds false used got = decide (used = 0 ∨ got ≠ 0)

/-- R24 to R33, R40 to R42, R49, R52, R117, R269, R439. Rests on the model's choices of logs 2 (what a flit's payload says, and
what a row that is not due or names nothing does), 47 and 48 (receivers, lost requests), 49 (the servo), 58 and 59 (acknowledgements;
PAGE names the peer), 60 (causes, reservations) and 73 (loads across lines, of poisoned lines, and lost accesses of application
cores). -/
def Obligations.LinksAndClock : Prop :=
  let clean (s : State) : Prop := ∀ k ∈ s.cores, k.dirty = []
  let written (s t : State) (cells : List (Nat × Byte)) : Prop := ∀ x, memByte t.mem x = (lastAt cells x).getD (memByte s.mem x)
  (∀ (seq ack cls : Nat) (m : PeerMsg), seq < 4096 → ack < 2 ^ 16 → cls < 256 →
    let b := flitBytes seq ack cls m
    b.length = 256 ∧ fieldAt b 0 2 = seq ∧ fieldAt b 2 2 = ack ∧ fieldAt b 4 1 = cls ∧ fieldAt b 5 3 = 0 ∧
    fieldAt b 252 4 = (crc32 (b.take 252)).toNat) ∧
  (∀ (s : State) (link : Nat) (l : Link) (flit : List Byte) (m : PeerMsg), s.link? link = some l → l.carries = true →
    flit.length = 256 →
    let seq := fieldAt flit 0 2 % 4096
    let ack := fieldAt flit 2 2
    let cls := fieldAt flit 4 1
    let good := fieldAt flit 252 4 = (crc32 (flit.take 252)).toNat
    let ins : Instr := .flitReceive link flit m
    let idle (u : State) (retry : Bool) : State := u.emit (.flit link (flitBytes l.txSeq (l.ackField retry) 0 .none))
    let refused : State := idle (s.updLink link fun l => { l with nack := true }) true
    (¬ good → exec ins s = .next refused) ∧
    (good → seq ≠ l.rxSeq → sub12 seq l.rxSeq < 2048 → exec ins s = .next (if l.nack then s else refused)) ∧
    (good → seq ≠ l.rxSeq → 2048 ≤ sub12 seq l.rxSeq → exec ins s = .next (idle s false)) ∧
    (good → seq = l.rxSeq →
      let s1 := s.updLink link fun l => { l with
        rxSeq := if cls = 0 then l.rxSeq else (l.rxSeq + 1) % 4096, heard := l.heard || cls != 0, nack := false
        protoErr := if 8 < cls then l.protoErr + 1 else l.protoErr }
      let s2 := if 8 < cls then s1
        else if ack / 2 ^ 13 % 2 = 1 then s1.retry link (ack % 4096)
        else if ack / 2 ^ 12 % 2 = 1 then s1.ackLink link (ack % 4096) else s1
      let s3 := if cls = 0 then s2 else s2.sendIdle link false
      let ends (v : State) : Prop := exec ins s = .next (wakeAll v)
      let bad (locs : List Nat) : Bool := locs.any fun x => s.poison.contains (lineOf x)
      (m = .none ∨ 8 < cls → ends s3) ∧
      let free : Prop := s.reqHeld s.reqs m = false
      (inClass cls m = true → s.reqHeld s.reqs m = true → ends { s3 with reqs := s3.reqs ++ [(cls, m)] }) ∧
      (∀ src tag a n, m = .read src tag a n → cls = 1 → free → clean s → ends (s3.respond src 2 (lineOf a) (.data tag
        (if s.servable a n && !bad [a] then memBytes s.mem a n else [])
        (if !s.servable a n then .denied else if bad [a] then .poisoned else .ok)))) ∧
      (∀ src tag cells, m = .write src tag cells → cls = 3 ∨ cls = 6 ∨ cls = 7 →
        let dst := lineOf (((cells.head?).map Prod.fst).getD 0)
        (free → (∀ c ∈ cells, s.servable c.1 1 = true) → clean s →
          ∃ v : State, ends (v.respond src 8 dst (.done tag .ok)) ∧ written s v cells ∧ v.links = s3.links ∧ v.outbox = s3.outbox) ∧
        (free → (∃ c ∈ cells, s.servable c.1 1 = false) → ends (s3.respond src 8 dst (.done tag .denied)))) ∧
      (∀ src tag n aop ps, m = .atom src tag n aop ps → cls = 4 →
        let dst := lineOf (((ps.head?).map Prod.fst).getD 0)
        let all := ps.foldl (fun (q : (Nat → Byte) × List Byte) p =>
          let old := (List.range n).map fun j => q.1 (p.1 + j)
          (fun y => (lastAt (layAt p.1 (leList n (atomNew aop n (leNum old) p.2.1 p.2.2))) y).getD (q.1 y), q.2 ++ old)) (memByte s.mem, [])
        (free → (∀ p ∈ ps, s.servable p.1 n = true) → bad (ps.map Prod.fst) = false → clean s →
          ∃ v : State, ends (v.respond src 5 dst (.data tag all.2 .ok)) ∧ (∀ y, memByte v.mem y = all.1 y) ∧ v.links = s3.links ∧ v.outbox = s3.outbox) ∧
        (free → (∃ p ∈ ps, s.servable p.1 n = false) → ends (s3.respond src 5 dst (.data tag [] .denied))) ∧
        (free → (∀ p ∈ ps, s.servable p.1 n = true) → bad (ps.map Prod.fst) = true → ends (s3.respond src 5 dst (.data tag [] .poisoned)))) ∧
      (∀ tag bytes e, m = .data tag bytes e → cls = 2 ∨ cls = 5 → ends (s3.answered cls tag bytes e)) ∧
      ∀ tag e, m = .done tag e → cls = 8 → ends (s3.answered cls tag [] e))) ∧
  (∀ (s : State) (q : Nat × PeerMsg), s.reqs = [q] →
    (s.reqHeld [] q.2 = true → s.serveHeld.reqs = [q] ∧ s.serveHeld.mem = s.mem) ∧
    (s.reqHeld [] q.2 = false → s.serveHeld = ({ s with reqs := [] } : State).act q.1 q.2)) ∧
  (∀ (s : State) (older : List (Nat × PeerMsg)) (m : PeerMsg), s.reqHeld older m = true ↔
    ∃ l ∈ requestLines m, (∃ o ∈ s.owned, o.line = l ∧ sameTag o.ctx o.tag 0 0 = true) ∨ ∃ r ∈ older, l ∈ requestLines r.2) ∧
  (∀ (s : State) (tag key core team warp : Nat) (a : Ask) (bytes : List Byte), s.asks.find? (fun x => x.tag == tag && x.cls == 1) = some a →
    (∀ n, a.who = .hart n → (s.answered 2 tag bytes .ok).harts = updKey Hart.num n (fun h => h.answered (some bytes)) s.harts) ∧
    (∀ grid, a.who = .code grid → (s.answered 2 tag bytes .ok).grids = (s.updGrid grid fun g => { g with lines := putLine g.lines a.line bytes }).grids) ∧
    (a.who = .thread core team warp key → (s.answered 2 tag bytes .ok).pend = s.pend.map fun p => if p.key = key then
      { p with lanes := p.lanes.map fun l => if a.serves l then { l with val := some (lineValue p l bytes) } else l } else p) ∧
    ∀ x ∈ (s.answered 2 tag bytes .ok).asks, x.tag ≠ tag) ∧
  (∀ (s : State) (src cls line : Nat) (m : PeerMsg) (p : Peer), s.peers.find? (fun p => p.ident == src) = some p →
    let f : Flit := { seq := 0, cls := cls, peer := p.num, line := line, msg := m }
    s.respond src cls line m = s.sendFlit f ∧
    ((∀ w ∈ s.stranded, w.peer ≠ p.num) → ∀ l, s.linkFor f = some l → s.link? l.num = some l →
      l.carries = true ∧ l.buf.length < 64 ∧
      (s.sendFlit f).link? l.num = some { l with buf := l.buf ++ [{ f with seq := l.txSeq }], txSeq := (l.txSeq + 1) % 4096 } ∧
      (s.sendFlit f).outbox = .flit l.num (flitBytes l.txSeq (l.ackField false) cls m) :: s.outbox) ∧
    ((∃ w ∈ s.stranded, w.peer = p.num) ∨ s.linkFor f = none → (s.sendFlit f).links = s.links ∧
      ∃ w ∈ (s.sendFlit f).stranded, w.peer = p.num ∧ w.flits.getLast? = some f)) ∧
  (∀ (l : Link) (f : Flit) (rest : List Flit) (seq : Nat), l.buf = f :: rest →
    let n := (sub12 seq f.seq + 1) % 4096
    (1 ≤ n → n ≤ l.buf.length → l.acked seq = { l with buf := l.buf.drop n, fails := 0 }) ∧
    (n = 0 ∨ l.buf.length < n → l.acked seq = l)) ∧
  (∀ (s : State) (link seq : Nat) (l : Link), s.link? link = some l → s.stranded = [] →
    let a := l.acked (seq % 4096)
    let resent (b : List Flit) : List Out := (b.map fun f => Out.flit link (flitBytes f.seq (l.ackField false) f.cls f.msg)).reverse ++ s.outbox
    (l.carries = true →
      (a.buf = [] → ∃ t, exec (.retryRequest link seq) s = .next t ∧ t.link? link = some a ∧ t.outbox = s.outbox) ∧
      (a.buf ≠ [] → a.fails + 1 < 8 → ∃ t, exec (.retryRequest link seq) s = .next t ∧
        t.link? link = some { a with fails := a.fails + 1 } ∧ t.outbox = resent a.buf) ∧
      (a.buf ≠ [] → 8 ≤ a.fails + 1 → ∃ t, exec (.retryRequest link seq) s = .next t ∧
        t.link? link = some { a with fails := a.fails + 1, retrainAt := some s.tick } ∧ t.outbox = s.outbox) ∧
      exec (.linkRetrainComplete link) s = .next s) ∧
    (l.carries = false → exec (.retryRequest link seq) s = .next s ∧ ∃ t, exec (.linkRetrainComplete link) s = .next t ∧
      t.link? link = some { l with up := true, retrainAt := none, fails := 0 } ∧ t.outbox = resent l.buf)) ∧
  (∀ (s : State) (link r : Nat) (l : Link), s.link? link = some l → l.retrainAt = some r → link < 16 →
    (s.tick < r + 1000000 → exec (.linkDown link) s = .next s) ∧
    (r + 1000000 ≤ s.tick → ∃ t x e, exec (.linkDown link) s = .next t ∧ t.link? link = some x ∧ x.up = false ∧ x.buf = [] ∧
      t.errLog.head? = some e ∧ e.kind = 0x0701 ∧ e.sev = 1 ∧ t.mem = s.mem ∧
      ((∀ y ∈ s.links, y.num < 16 ∧ (y.num ≠ link → y.carries = false)) →
        ∀ f ∈ l.buf, ∃ w ∈ t.stranded, w.peer = f.peer ∧ f ∈ w.flits))) ∧
  (∀ (s : State) (peer : Nat) (w : Stranded), s.stranded.find? (fun w => w.peer == peer) = some w →
    (s.upLinks peer ≠ [] ∨ (∀ d, w.since = some d → s.tick < d + 10000000) → exec (.peerUnreach peer) s = .next s) ∧
    ∀ d f tag a, s.upLinks peer = [] → w.since = some d → d + 10000000 ≤ s.tick → w.flits = [f] → requestTag f.msg = some tag →
      s.asks.find? (fun a => a.tag == tag) = some a →
      ∃ (u : State) (e : Event), exec (.peerUnreach peer) s = .next (wakeAll (u.failAsk a .denied)) ∧ (∀ x ∈ u.stranded, x.peer ≠ peer) ∧
        (∀ x ∈ u.asks, x.tag ≠ a.tag) ∧ u.errLog.head? = some e ∧ e.kind = 0x0702 ∧ e.sev = 2 ∧ u.teams = s.teams ∧ u.mem = s.mem ∧
        u.copies = s.copies) ∧
  (∀ (s : State) (a : Ask) (key : Nat),
    (∀ n h, a.who = .hart n → s.hart? n = some h →
      (a.cls = 1 ∨ a.cls = 4 → (s.failAsk a .denied).hart? n = some (h.answered none)) ∧
      (a.cls = 3 → h.status = .started → (s.failAsk a .denied).hart? n = some (({ h with await := none } : Hart).trapped 7 (128 * a.line)))) ∧
    (∀ core op u, a.who = .copy core key → s.copies.find? (fun c => c.key == key) = some op → s.team? op.team = some u → u.place ≠ .gone →
      ∃ v, (s.failAsk a .denied).team? op.team = some v ∧ (∀ c ∈ (s.failAsk a .denied).copies, c.key ≠ key) ∧
        v.warps.map Warp.tokens = u.warps.map fun x => x.tokens.map fun k =>
          if k.ops.contains key then { ops := k.ops.filter fun n => n != key, err := true } else k) ∧
    (∀ core team warp p l w, a.who = .thread core team warp key → a.cls = 1 → s.pend.find? (fun p => p.key == key) = some p →
      p.lanes.filter a.serves = [l] → (s.team? team).bind (fun t => t.warpAt warp) = some w → (w.lane l.lane).life = .live →
      ∃ u : State, s.failAsk a .denied = u.trapLane team warp l.lane causePAGE (BitVec.ofNat 32 (l.lane + 256 * a.peer)) (128 * a.line) ∧
        u.teams = s.teams ∧ u.mem = s.mem)) ∧
  (∀ (s : State) (ethernet : Bool) (domain seq : Nat) (m : PtpMsg),
    let ins : Instr := .ptpMessage ⟨ethernet, domain⟩ seq m
    (s.ptp.running = false ∨ domain ≠ s.ptp.domain ∨ ethernet ≠ s.ptp.ethernet ∨ m = .announce ∨ m = .other ∨ m = .sync false →
      exec ins s = .next s) ∧
    (s.ptp.running = true → domain = s.ptp.domain → ethernet = s.ptp.ethernet →
      (m = .sync true → exec ins s =
        .next { s with ptp := { s.ptp with t1 := none, t2 := some s.tick, t3 := none, t4 := none, seq := seq } }) ∧
      (∀ o, m = .followUp o → s.ptp.t2 ≠ none → seq = s.ptp.seq → exec ins s =
        .next { s with ptp := { s.ptp with t1 := some o, t3 := some s.tick }, outbox := .delayReq seq :: s.outbox }) ∧
      (∀ r, m = .delayResp r → s.ptp.t3 ≠ none → seq = s.ptp.seq → ∃ t, exec ins s = .next t ∧
        -200000 ≤ t.ptp.adj ∧ t.ptp.adj ≤ 200000 ∧ t.ptp.t2 = none ∧ (s.ptp.locked = true → t.ptp.locked = true) ∧ t.tick = s.tick))) ∧
  ∀ (s : State) (hart : Nat) (acc : AppAcc) (keep : Bool) (next : Nat),
    let ins : Instr := .applicationCoreAccess hart ⟨acc, keep, next⟩
    ((∀ h, s.hart? hart = some h → h.status ≠ .started) → exec ins s = .next s) ∧
    ∀ h, s.hart? hart = some h → h.status = .started →
      let waits := h.await ≠ none ∨ h.calling = true ∨ ∃ t ∈ h.fence, t ∈ s.hartAsks hart
      let traps (c : Nat × Nat) : Prop := ∃ t x, exec ins s = .next t ∧ t.mem = s.mem ∧ t.hart? hart = some x ∧
        x = { h.trapped c.1 c.2 with tlb := x.tlb }
      let owned (ps : List (Nat × List (Nat × Nat) × Option HartTlb)) : Prop := ∃ p ∈ ps, ∃ w ∈ s.owned, w.line = lineOf p.1 ∧ sameTag w.ctx w.tag 0 0 = true
      let plain (ps : List (Nat × List (Nat × Nat) × Option HartTlb)) : Prop := ¬ owned ps ∧ ∀ p ∈ ps, p.2.1 = []
      let near (p : Nat × List (Nat × Nat) × Option HartTlb) : Prop := isPeer p.1 = false ∧ s.poison.contains (lineOf p.1) = false
      let done (t : State) (y : Hart) : Prop := exec ins s = .next t ∧ ∃ x, t.hart? hart = some x ∧ x = { y.goTo next with tlb := x.tlb }
      (waits → exec ins s = .next s) ∧
      (¬ waits → acc = .fence → exec ins s = .next (s.updHart hart fun h => { h with fence := s.hartAsks hart, pc := BitVec.ofNat 64 next })) ∧
      (∀ k va n, atpMode h.roots.1 = 0 → atpMode h.roots.2 = 0 → va + n ≤ 0x00C000000000 → (∀ j < n, s.torn (va + j) = false) →
        s.hartRange h k va n = .ok ((List.range n).map fun j => (va + j, [], none))) ∧
      (¬ waits → ∀ va n signed dst, acc = .load va n signed dst →
        (∀ c, s.hartRange h .read va n = .error c → traps c) ∧
        ∀ ps, s.hartRange h .read va n = .ok ps →
          (owned ps → exec ins s = .next s) ∧
          (plain ps → (∀ p ∈ ps, near p) →
            ∃ t, done t (h.put dst (loadedAs n signed dst (leNum (ps.map fun p => memByte s.mem p.1)))) ∧ t.mem = s.mem) ∧
          (plain ps → (∀ p ∈ ps, isPeer p.1 = false) → (∃ p ∈ ps, s.poison.contains (lineOf p.1) = true) → traps (5, va)) ∧
          ∀ p, plain ps → ps.head? = some p → isPeer p.1 = true →
            ((∃ q ∈ ps, lineOf q.1 ≠ lineOf p.1) → traps (4, va)) ∧
            ((∀ q ∈ ps, lineOf q.1 = lineOf p.1) → ∃ t x, exec ins s = .next t ∧ t.mem = s.mem ∧ t.hart? hart = some x ∧
              x = { h with tlb := x.tlb, await := some { addr := p.1, bytes := n, signed := signed, dst := dst, next := next, atomic := false } } ∧
              ∃ a ∈ t.asks, a.who = .hart hart ∧ a.cls = 1 ∧ a.line = lineOf p.1)) ∧
      (¬ waits → ∀ va bs, acc = .store va bs →
        (∀ c, s.hartRange h .write va bs.length = .error c → traps c) ∧
        ∀ ps, s.hartRange h .write va bs.length = .ok ps →
          (owned ps → exec ins s = .next s) ∧
          (plain ps → (∀ p ∈ ps, isPeer p.1 = false) → clean s → ∃ t, done t h ∧ written s t ((ps.map Prod.fst).zip bs) ∧
            ∀ r ∈ t.resv, ∀ p ∈ ps, r.2 ≠ lineOf p.1)) ∧
      (¬ waits → ∀ aop va n x rd, acc = .atomic aop va n x rd → n ≤ 8 → va % n = 0 → ∀ ps p, s.hartRange h .atomic va n = .ok ps → ps.head? = some p →
        plain ps → near p → clean s →
          let old := leNum (memBytes s.mem p.1 n)
          ∃ t, done t (h.put (.x rd) (loadedAs n true (.x rd) old)) ∧ written s t (layAt p.1 (leList n (atomNew aop n old x 0)))) ∧
      (¬ waits → ∀ va n rd, acc = .reserve va n rd → n ≤ 8 → va % n = 0 → ∀ ps p, s.hartRange h .read va n = .ok ps → ps.head? = some p →
        plain ps → near p → clean s → ∃ t, done t (h.put (.x rd) (loadedAs n true (.x rd) (leNum (memBytes s.mem p.1 n)))) ∧
          t.mem = s.mem ∧ ∀ l, (hart, l) ∈ t.resv ↔ l = lineOf p.1) ∧
      ¬ waits → ∀ va bs rd, acc = .conditional va bs rd → bs.length ≤ 8 → va % bs.length = 0 → ∀ ps p, s.hartRange h .write va bs.length = .ok ps →
        ps.head? = some p → plain ps → isPeer p.1 = false → clean s →
          let ok : Prop := (hart, lineOf p.1) ∈ s.resv
          ∃ t, (ok → done t (h.put (.x rd) 0) ∧ written s t (layAt p.1 bs)) ∧ (¬ ok → done t (h.put (.x rd) 1) ∧ t.mem = s.mem) ∧
            ∀ r ∈ t.resv, r.1 ≠ hart
end

