-- ==== Sys2Proof/Laws/Memory.lean ====
section
/-! SUPPORT. Laws of sparse maps and of memory: reads after writes, and that every operation that writes memory keeps its
canonical form. -/
namespace Sys2Proof.Machine

/-! ## Sparse maps -/

/-- Removal is a filter. -/
theorem serase_eq_filter (l : List (Nat × α)) (a : Nat) : serase l a = l.filter fun c => c.1 != a := by
  induction l with
  | nil => rfl
  | cons c t ih =>
    obtain ⟨k, v⟩ := c
    by_cases h : k = a <;> simp [serase, h, ih]

/-- A removed key reads as the default. -/
theorem sget_serase_self (d : α) (l : List (Nat × α)) (a : Nat) : sget d (serase l a) a = d := by
  induction l with
  | nil => rfl
  | cons c t ih =>
    obtain ⟨k, v⟩ := c
    by_cases h : k = a <;> simp [serase, sget, h, ih]

/-- Removal changes no other key. -/
theorem sget_serase_ne (d : α) (l : List (Nat × α)) {a b : Nat} (h : b ≠ a) : sget d (serase l a) b = sget d l b := by
  induction l with
  | nil => rfl
  | cons c t ih =>
    obtain ⟨k, v⟩ := c
    by_cases hk : k = a
    · subst hk; simp [serase, sget, ih, Ne.symm h]
    · by_cases hb : k = b
      · subst hb; simp [serase, sget, hk]
      · simp [serase, sget, hk, hb, ih]

/-- Insertion changes no other key. -/
theorem sget_sinsert_ne (d : α) (l : List (Nat × α)) (x : α) {a b : Nat} (h : b ≠ a) :
    sget d (sinsert l a x) b = sget d l b := by
  induction l with
  | nil => simp [sinsert, sget, Ne.symm h]
  | cons c t ih =>
    obtain ⟨k, v⟩ := c
    by_cases hk : a < k
    · simp [sinsert, sget, hk, Ne.symm h]
    · by_cases hb : k = b
      · subst hb; simp [sinsert, sget, hk]
      · simp [sinsert, sget, hk, hb, ih]

/-- An inserted key that was not listed reads as inserted. -/
theorem sget_sinsert_self (d : α) (l : List (Nat × α)) (x : α) {a : Nat} (h : ∀ c ∈ l, c.1 ≠ a) :
    sget d (sinsert l a x) a = x := by
  induction l with
  | nil => simp [sinsert, sget]
  | cons c t ih =>
    obtain ⟨k, v⟩ := c
    have hk : k ≠ a := h (k, v) (by simp)
    by_cases hl : a < k
    · simp [sinsert, sget, hl]
    · simp [sinsert, sget, hl, hk, ih fun c hc => h c (by simp [hc])]

/-- The write law of sparse maps: the key written reads as written, every other as before. -/
theorem sget_sset [DecidableEq α] (d : α) (l : List (Nat × α)) (a b : Nat) (x : α) :
    sget d (sset d l a x) b = if b = a then x else sget d l b := by
  unfold sset
  split <;> by_cases hb : b = a
  · subst hb; simp_all [sget_serase_self]
  · simp [hb, sget_serase_ne d l hb]
  · subst hb
    simp only [if_true]
    exact sget_sinsert_self d _ x fun c hc => by
      rw [serase_eq_filter] at hc
      simpa using (List.mem_filter.mp hc).2
  · simp [hb, sget_sinsert_ne d _ x hb, sget_serase_ne d l hb]

/-- The last write to a key in a list of writes comes from its tail, else from what came before. -/
theorem foldl_last (ws : List (Nat × α)) (b : Nat) : ∀ o : Option α,
    ws.foldl (fun o c => if c.1 = b then some c.2 else o) o =
      (ws.foldl (fun o c => if c.1 = b then some c.2 else o) none).or o := by
  induction ws with
  | nil => intro o; simp
  | cons w ws ih =>
    intro o
    simp only [List.foldl_cons]
    rw [ih, ih (if w.1 = b then some w.2 else none)]
    by_cases h : w.1 = b <;> simp [h]

/-- After several writes a key reads as the last one wrote it, else as before. -/
theorem sget_ssetAll [DecidableEq α] (d : α) (ws : List (Nat × α)) : ∀ (l : List (Nat × α)) (b : Nat),
    sget d (ssetAll d l ws) b = (ws.foldl (fun o c => if c.1 = b then some c.2 else o) none).getD (sget d l b) := by
  induction ws with
  | nil => intro l b; simp [ssetAll]
  | cons w ws ih =>
    intro l b
    obtain ⟨a, x⟩ := w
    rw [ssetAll, ih, List.foldl_cons, foldl_last ws b (if a = b then some x else none), sget_sset]
    by_cases h : a = b
    · subst h; cases ws.foldl (fun o c => if c.1 = a then some c.2 else o) none <;> simp
    · cases ws.foldl (fun o c => if c.1 = b then some c.2 else o) none <;> simp [h, Ne.symm h]

/-! ## The canonical form -/

/-- The keys of a list rise strictly. -/
theorem srising_iff (l : List (Nat × α)) : srising l = true ↔ l.Pairwise fun a b => a.1 < b.1 := by
  induction l with
  | nil => simp [srising]
  | cons c t ih =>
    obtain ⟨k, v⟩ := c
    cases t with
    | nil => simp [srising]
    | cons e t =>
      obtain ⟨j, w⟩ := e
      rw [srising, Bool.and_eq_true, ih, List.pairwise_cons (l := (j, w) :: t)]
      refine and_congr_left fun h => ⟨fun hk c hc => ?_, fun hk => by simpa using hk (j, w) (by simp)⟩
      rcases List.mem_cons.mp hc with rfl | hc
      · simpa using hk
      · exact Nat.lt_trans (by simpa using hk) ((List.pairwise_cons.mp h).1 c hc)

/-- The canonical form: keys rise and no entry is the default. -/
theorem swf_iff [DecidableEq α] (d : α) (l : List (Nat × α)) :
    swf d l = true ↔ (l.Pairwise fun a b => a.1 < b.1) ∧ ∀ c ∈ l, c.2 ≠ d := by
  simp [swf, srising_iff, List.all_eq_true]

/-- What is inserted into rising keys keeps them rising. -/
theorem pairwise_sinsert (l : List (Nat × α)) (a : Nat) (x : α) (h : l.Pairwise fun a b => a.1 < b.1) (hn : ∀ c ∈ l, c.1 ≠ a) :
    (sinsert l a x).Pairwise (fun a b => a.1 < b.1) ∧ ∀ c ∈ sinsert l a x, c = (a, x) ∨ c ∈ l := by
  induction l with
  | nil => simp [sinsert]
  | cons c t ih =>
    obtain ⟨k, v⟩ := c
    obtain ⟨h1, h2⟩ := List.pairwise_cons.mp h
    by_cases hk : a < k
    · refine ⟨?_, by simp [sinsert, hk]⟩
      rw [sinsert, if_pos hk, List.pairwise_cons]
      refine ⟨fun c hc => ?_, h⟩
      rcases List.mem_cons.mp hc with rfl | hc
      · exact hk
      · exact Nat.lt_trans hk (h1 c hc)
    · obtain ⟨i1, i2⟩ := ih h2 fun c hc => hn c (by simp [hc])
      rw [sinsert, if_neg hk]
      refine ⟨List.pairwise_cons.mpr ⟨fun c hc => ?_, i1⟩, fun c hc => ?_⟩
      · rcases i2 c hc with rfl | hc
        · have : k ≠ a := hn (k, v) (by simp)
          simp only; omega
        · exact h1 c hc
      · rcases List.mem_cons.mp hc with rfl | hc
        · simp
        · rcases i2 c hc with h | h <;> simp [h]

/-- A filter of a canonical list is canonical. -/
theorem swf_filter [DecidableEq α] (d : α) (l : List (Nat × α)) (p : Nat × α → Bool) (h : swf d l = true) :
    swf d (l.filter p) = true := by
  rw [swf_iff] at *
  exact ⟨h.1.filter p, fun c hc => h.2 c (List.mem_filter.mp hc).1⟩

/-- A write keeps the canonical form. -/
theorem swf_sset [DecidableEq α] (d : α) (l : List (Nat × α)) (a : Nat) (x : α) (h : swf d l = true) :
    swf d (sset d l a x) = true := by
  have he : swf d (serase l a) = true := by rw [serase_eq_filter]; exact swf_filter d l _ h
  unfold sset
  split
  · exact he
  · rename_i hx
    rw [swf_iff] at *
    obtain ⟨p1, p2⟩ := pairwise_sinsert (serase l a) a x he.1 fun c hc => by
      rw [serase_eq_filter] at hc; simpa using (List.mem_filter.mp hc).2
    refine ⟨p1, fun c hc => ?_⟩
    rcases p2 c hc with rfl | hc
    · exact hx
    · exact he.2 c hc

/-- Several writes keep the canonical form. -/
theorem swf_ssetAll [DecidableEq α] (d : α) (ws : List (Nat × α)) : ∀ l : List (Nat × α), swf d l = true →
    swf d (ssetAll d l ws) = true := by
  induction ws with
  | nil => exact fun l h => h
  | cons w ws ih => exact fun l h => ih _ (swf_sset d l w.1 w.2 h)

/-- Two canonical lists that read alike are equal. -/
theorem swf_ext [DecidableEq α] (d : α) : ∀ l m : List (Nat × α), swf d l = true → swf d m = true →
    (∀ a, sget d l a = sget d m a) → l = m := by
  have none_of : ∀ (l : List (Nat × α)) (a : Nat), (∀ c ∈ l, a < c.1) → sget d l a = d := by
    intro l a h
    induction l with
    | nil => rfl
    | cons c t ih =>
      obtain ⟨k, v⟩ := c
      have : k ≠ a := by have := h (k, v) (by simp); simp only at this; omega
      simp [sget, this, ih fun c hc => h c (by simp [hc])]
  intro l
  induction l with
  | nil =>
    intro m _ hm hs
    cases m with
    | nil => rfl
    | cons c t =>
      obtain ⟨k, v⟩ := c
      have := hs k
      simp only [sget, if_true] at this
      exact absurd this.symm (((swf_iff d _).mp hm).2 (k, v) (by simp))
  | cons c t ih =>
    obtain ⟨k, v⟩ := c
    intro m hl hm hs
    have hl' := (swf_iff d _).mp hl
    have hm' := (swf_iff d _).mp hm
    obtain ⟨l1, l2⟩ := List.pairwise_cons.mp hl'.1
    cases m with
    | nil =>
      have := hs k
      simp only [sget, if_true] at this
      exact absurd this (hl'.2 (k, v) (by simp))
    | cons e u =>
      obtain ⟨j, w⟩ := e
      obtain ⟨m1, m2⟩ := List.pairwise_cons.mp hm'.1
      have hkj : k = j := by
        rcases Nat.lt_trichotomy k j with h | h | h
        · have := hs k
          rw [none_of ((j, w) :: u) k fun c hc => by
            rcases List.mem_cons.mp hc with rfl | hc
            · exact h
            · exact Nat.lt_trans h (m1 c hc)] at this
          simp only [sget, if_true] at this
          exact absurd this (hl'.2 (k, v) (by simp))
        · exact h
        · have := hs j
          rw [none_of ((k, v) :: t) j fun c hc => by
            rcases List.mem_cons.mp hc with rfl | hc
            · exact h
            · exact Nat.lt_trans h (l1 c hc)] at this
          simp only [sget, if_true] at this
          exact absurd this.symm (hm'.2 (j, w) (by simp))
      subst hkj
      have hv : v = w := by simpa [sget] using hs k
      subst hv
      rw [ih u ((swf_iff d _).mpr ⟨l2, fun c hc => hl'.2 c (by simp [hc])⟩)
        ((swf_iff d _).mpr ⟨m2, fun c hc => hm'.2 c (by simp [hc])⟩) fun a => ?_]
      by_cases ha : k = a
      · subst ha; rw [none_of t k l1, none_of u k m1]
      · simpa [sget, ha] using hs a

/-! ## Memory -/

/-- The last byte written to a location decides what it reads as. -/
theorem memByte_ssetAll (m : List Host.Cell) (ws : List (Nat × Byte)) (a : Nat) :
    memByte (ssetAll (0 : Byte) m ws) a = (lastAt ws a).getD (memByte m a) := sget_ssetAll _ ws m a

/-- The byte written reads back, every other byte reads as before. -/
theorem memByte_sset (m : List Host.Cell) (a b : Nat) (x : Byte) :
    memByte (sset (0 : Byte) m a x) b = if b = a then x else memByte m b := sget_sset _ m a b x

/-- The memory of the reset state is canonical. -/
theorem reset_memOk : State.reset.memOk := rfl

/-- A fold of steps that each keep the form keeps it. -/
theorem memOk_foldl (f : State → β → State) (h : ∀ s b, s.memOk → (f s b).memOk) (l : List β) :
    ∀ s : State, s.memOk → (l.foldl f s).memOk := by
  induction l with
  | nil => exact fun s hs => hs
  | cons b l ih => exact fun s hs => ih _ (h s b hs)

theorem memOk_writeLoc (s : State) (a : Nat) (b : Byte) (h : s.memOk) : (s.writeLoc a b).memOk := by
  unfold State.writeLoc
  split
  · exact h
  · exact swf_sset _ _ _ _ h

theorem memOk_writeTagged (s : State) (ctx tag a : Nat) (b : Byte) (h : s.memOk) : (s.writeTagged ctx tag a b).memOk := by
  unfold State.writeTagged
  split
  · exact memOk_writeLoc s a b h
  · exact h

theorem memOk_writeAll (s : State) (ctx tag : Nat) (cells : List (Nat × Byte)) (h : s.memOk) : (s.writeAll ctx tag cells).memOk :=
  memOk_foldl _ (fun s c hs => memOk_writeTagged s ctx tag c.1 c.2 hs) cells s h

theorem memOk_useAll (s : State) (us : List Use1) (h : s.memOk) : (s.useAll us).memOk := by
  suffices hm : ∀ (ps : List (Nat × Nat)) (m : List Host.Cell), Memory.wf m = true →
      Memory.wf (ps.foldl (fun m p => sset (0 : Byte) m p.1 (memByte m p.1 ||| BitVec.ofNat 8 p.2)) m) = true from hm _ _ h
  intro ps
  induction ps with
  | nil => exact fun m hm => hm
  | cons p ps ih => exact fun m hm => ih _ (swf_sset _ _ _ _ hm)

/-- A flit sent leaves memory alone. -/
theorem sendFlit_mem (s : State) (f : Flit) : (s.sendFlit f).mem = s.mem := by
  unfold State.sendFlit
  split <;> rfl

/-- A request to a peer leaves memory alone. -/
theorem ask_mem (s : State) (cls line : Nat) (who : Asker) (lanes : List Nat) (m : Nat → PeerMsg) :
    (s.ask cls line who lanes m).mem = s.mem := sendFlit_mem _ _

/-- Steps that each leave memory alone do so together. -/
theorem foldl_mem (f : State → β → State) (h : ∀ s b, (f s b).mem = s.mem) (l : List β) : ∀ s : State, (l.foldl f s).mem = s.mem := by
  induction l with
  | nil => exact fun s => rfl
  | cons b l ih => exact fun s => (ih _).trans (h s b)

theorem askLines_mem (s : State) (who : Asker) (locs : List Nat) : (s.askLines who locs).mem = s.mem :=
  foldl_mem _ (fun s _ => ask_mem s ..) _ s

theorem sendWrites_mem (s : State) (cls : Nat) (who : Asker) (cells : List (Nat × Byte)) :
    (s.sendWrites cls who cells).mem = s.mem := foldl_mem _ (fun s _ => ask_mem s ..) _ s

theorem poisonLine_mem (s : State) (l : Option Nat) : (s.poisonLine l).mem = s.mem := by
  unfold State.poisonLine
  split
  · split <;> rfl
  · rfl

theorem memOk_commitBytes (s : State) (cls : Nat) (who : Asker) (cells : List (Nat × Byte)) (h : s.memOk) :
    (s.commitBytes cls who cells).memOk := by
  unfold State.commitBytes State.memOk
  rw [sendWrites_mem]
  exact memOk_writeAll _ _ _ _ h

theorem memOk_writeOut (s : State) (core : Nat) (ks : List DirtyLine) (h : s.memOk) : (s.writeOut core ks).memOk := by
  unfold State.writeOut State.memOk
  simp only
  rw [foldl_mem _ (fun s l => poisonLine_mem s (some l))]
  refine (congrArg (fun m => Memory.wf m = true) (foldl_mem _ (fun s o => sendWrites_mem s ..) _ _)).mpr ?_
  exact memOk_foldl _ (fun s d hs => memOk_writeTagged s _ _ _ _ hs) _ _ h

theorem memOk_publish (s : State) (core : Nat) (ks : List DirtyLine) (h : s.memOk) : (s.publish core ks).memOk :=
  memOk_foldl _ (fun s c hs => memOk_writeOut s c _ hs) _ _ h

theorem memOk_publishAll (s : State) (core : Nat) (h : s.memOk) : (s.publishAll core).memOk := memOk_publish s core _ h

theorem memOk_forceCore (s : State) (core : Nat) (ls : List Nat) (h : s.memOk) : (s.forceCore core ls).memOk :=
  memOk_publish s core _ h

theorem memOk_forceOthers (s : State) (me : Option Nat) (locs : List Nat) (h : s.memOk) : (s.forceOthers me locs).memOk := by
  unfold State.forceOthers
  refine memOk_foldl _ (fun s k hs => ?_) _ _ h
  split
  · exact memOk_forceCore s _ _ hs
  · exact hs

theorem memOk_devRead (s t : State) (ctx va n : Nat) (bs : List Byte) (h : s.memOk) (hr : s.devRead ctx va n = some (t, bs)) :
    t.memOk := by
  unfold State.devRead at hr
  split at hr
  · simp at hr
  · rename_i us _
    obtain ⟨rfl, -⟩ := Prod.mk.injEq .. ▸ Option.some.inj hr
    exact (congrArg (fun m => Memory.wf m = true) (askLines_mem _ _ _)).mpr (memOk_useAll _ _ (memOk_forceOthers _ _ _ h))

theorem memOk_devWrite (s t : State) (ctx va : Nat) (bs : List Byte) (h : s.memOk) (hw : s.devWrite ctx va bs = some t) :
    t.memOk := by
  unfold State.devWrite at hw
  split at hw
  · simp at hw
  · obtain rfl := Option.some.inj hw
    exact memOk_commitBytes _ _ _ _ (memOk_useAll _ _ (memOk_forceOthers _ _ _ h))

theorem memOk_physWrite (s : State) (who : Asker) (a : Nat) (bs : List Byte) (h : s.memOk) : (s.physWrite who a bs).memOk :=
  memOk_commitBytes _ _ _ _ (memOk_forceOthers _ _ _ h)

theorem memOk_physRead (s : State) (a n : Nat) (h : s.memOk) : (s.physRead a n).1.memOk := memOk_forceOthers _ _ _ h

theorem memOk_atomAt (s : State) (ctx : Nat) (aop : Aop) (n : Nat) (p : AtomLane) (h : s.memOk) : (s.atomAt ctx aop n p).1.memOk := by
  unfold State.atomAt
  simp only
  split
  · exact h
  · exact memOk_writeAll _ _ _ _ h

theorem memOk_atomLanes (ctx : Nat) (aop : Aop) (n : Nat) (ps : List AtomLane) : ∀ s : State, s.memOk →
    (s.atomLanes ctx aop n ps).1.memOk := by
  induction ps with
  | nil => exact fun s h => h
  | cons p ps ih => exact fun s h => ih _ (memOk_atomAt s ctx aop n p h)

theorem memOk_atomAll (s : State) (ctx : Nat) (aop : Aop) (n : Nat) (ps : List AtomLane) (h : s.memOk) :
    (s.atomAll ctx aop n ps).1.memOk := by
  unfold State.atomAll
  suffices hm : ∀ (gs : List (List AtomLane)) (r : State × List (Nat × Nat)), r.1.memOk →
      (gs.foldl (fun r g => let q := r.1.atomLanes ctx aop n g; (q.1, r.2 ++ q.2)) r).1.memOk from hm _ _ h
  intro gs
  induction gs with
  | nil => exact fun r hr => hr
  | cons g gs ih => exact fun r hr => ih _ (memOk_atomLanes ctx aop n g _ hr)

/-- The memory that a teardown leaves is canonical. -/
theorem memOk_wipe (s : State) (part : Nat) (h : s.memOk) : (s.wipe part).memOk := swf_filter _ _ _ h

end Sys2Proof.Machine
end

