-- ==== Sys2Proof/Laws/State.lean ====
section
/-! SUPPORT. What each plain update of the state does to each field, one lemma per field per update, so that no
proof unfolds a record update. -/
namespace Sys2Proof.Machine

/-! ## updTeam -/

section
variable (s : State) (k : Nat) (f : Team → Team)
@[simp] theorem State.updTeam_tick : (s.updTeam k f).tick = s.tick := rfl
@[simp] theorem State.updTeam_mem : (s.updTeam k f).mem = s.mem := rfl
@[simp] theorem State.updTeam_poison : (s.updTeam k f).poison = s.poison := rfl
@[simp] theorem State.updTeam_vers : (s.updTeam k f).vers = s.vers := rfl
@[simp] theorem State.updTeam_owned : (s.updTeam k f).owned = s.owned := rfl
@[simp] theorem State.updTeam_tlb : (s.updTeam k f).tlb = s.tlb := rfl
@[simp] theorem State.updTeam_teams : (s.updTeam k f).teams = updKey Team.key k f s.teams := rfl
@[simp] theorem State.updTeam_grids : (s.updTeam k f).grids = s.grids := rfl
@[simp] theorem State.updTeam_ctxs : (s.updTeam k f).ctxs = s.ctxs := rfl
@[simp] theorem State.updTeam_cores : (s.updTeam k f).cores = s.cores := rfl
@[simp] theorem State.updTeam_clusters : (s.updTeam k f).clusters = s.clusters := rfl
@[simp] theorem State.updTeam_parts : (s.updTeam k f).parts = s.parts := rfl
@[simp] theorem State.updTeam_vfs : (s.updTeam k f).vfs = s.vfs := rfl
@[simp] theorem State.updTeam_queues : (s.updTeam k f).queues = s.queues := rfl
@[simp] theorem State.updTeam_pend : (s.updTeam k f).pend = s.pend := rfl
@[simp] theorem State.updTeam_waitcs : (s.updTeam k f).waitcs = s.waitcs := rfl
@[simp] theorem State.updTeam_copies : (s.updTeam k f).copies = s.copies := rfl
@[simp] theorem State.updTeam_resolving : (s.updTeam k f).resolving = s.resolving := rfl
@[simp] theorem State.updTeam_chans : (s.updTeam k f).chans = s.chans := rfl
@[simp] theorem State.updTeam_peers : (s.updTeam k f).peers = s.peers := rfl
@[simp] theorem State.updTeam_links : (s.updTeam k f).links = s.links := rfl
@[simp] theorem State.updTeam_asks : (s.updTeam k f).asks = s.asks := rfl
@[simp] theorem State.updTeam_stranded : (s.updTeam k f).stranded = s.stranded := rfl
@[simp] theorem State.updTeam_boot : (s.updTeam k f).boot = s.boot := rfl
@[simp] theorem State.updTeam_bankA : (s.updTeam k f).bankA = s.bankA := rfl
@[simp] theorem State.updTeam_bankB : (s.updTeam k f).bankB = s.bankB := rfl
@[simp] theorem State.updTeam_fuses : (s.updTeam k f).fuses = s.fuses := rfl
@[simp] theorem State.updTeam_stored : (s.updTeam k f).stored = s.stored := rfl
@[simp] theorem State.updTeam_meas : (s.updTeam k f).meas = s.meas := rfl
@[simp] theorem State.updTeam_chain : (s.updTeam k f).chain = s.chain := rfl
@[simp] theorem State.updTeam_ptp : (s.updTeam k f).ptp = s.ptp := rfl
@[simp] theorem State.updTeam_ports : (s.updTeam k f).ports = s.ports := rfl
@[simp] theorem State.updTeam_harts : (s.updTeam k f).harts = s.harts := rfl
@[simp] theorem State.updTeam_fwCores : (s.updTeam k f).fwCores = s.fwCores := rfl
@[simp] theorem State.updTeam_ctrl : (s.updTeam k f).ctrl = s.ctrl := rfl
@[simp] theorem State.updTeam_fabric : (s.updTeam k f).fabric = s.fabric := rfl
@[simp] theorem State.updTeam_lines : (s.updTeam k f).lines = s.lines := rfl
@[simp] theorem State.updTeam_sensors : (s.updTeam k f).sensors = s.sensors := rfl
@[simp] theorem State.updTeam_polledAt : (s.updTeam k f).polledAt = s.polledAt := rfl
@[simp] theorem State.updTeam_stages : (s.updTeam k f).stages = s.stages := rfl
@[simp] theorem State.updTeam_c4 : (s.updTeam k f).c4 = s.c4 := rfl
@[simp] theorem State.updTeam_clearedAt : (s.updTeam k f).clearedAt = s.clearedAt := rfl
@[simp] theorem State.updTeam_ckpt : (s.updTeam k f).ckpt = s.ckpt := rfl
@[simp] theorem State.updTeam_images : (s.updTeam k f).images = s.images := rfl
@[simp] theorem State.updTeam_errLog : (s.updTeam k f).errLog = s.errLog := rfl
@[simp] theorem State.updTeam_blackBox : (s.updTeam k f).blackBox = s.blackBox := rfl
@[simp] theorem State.updTeam_evSeq : (s.updTeam k f).evSeq = s.evSeq := rfl
@[simp] theorem State.updTeam_frozen : (s.updTeam k f).frozen = s.frozen := rfl
@[simp] theorem State.updTeam_inputs : (s.updTeam k f).inputs = s.inputs := rfl
@[simp] theorem State.updTeam_sel : (s.updTeam k f).sel = s.sel := rfl
@[simp] theorem State.updTeam_go : (s.updTeam k f).go = s.go := rfl
@[simp] theorem State.updTeam_ext : (s.updTeam k f).ext = s.ext := rfl
@[simp] theorem State.updTeam_env : (s.updTeam k f).env = s.env := rfl
@[simp] theorem State.updTeam_nonce : (s.updTeam k f).nonce = s.nonce := rfl
@[simp] theorem State.updTeam_pace : (s.updTeam k f).pace = s.pace := rfl
@[simp] theorem State.updTeam_nextKey : (s.updTeam k f).nextKey = s.nextKey := rfl
@[simp] theorem State.updTeam_outbox : (s.updTeam k f).outbox = s.outbox := rfl
end

/-! ## updGrid -/

section
variable (s : State) (k : Nat) (f : Grid → Grid)
@[simp] theorem State.updGrid_tick : (s.updGrid k f).tick = s.tick := rfl
@[simp] theorem State.updGrid_mem : (s.updGrid k f).mem = s.mem := rfl
@[simp] theorem State.updGrid_poison : (s.updGrid k f).poison = s.poison := rfl
@[simp] theorem State.updGrid_vers : (s.updGrid k f).vers = s.vers := rfl
@[simp] theorem State.updGrid_owned : (s.updGrid k f).owned = s.owned := rfl
@[simp] theorem State.updGrid_tlb : (s.updGrid k f).tlb = s.tlb := rfl
@[simp] theorem State.updGrid_teams : (s.updGrid k f).teams = s.teams := rfl
@[simp] theorem State.updGrid_grids : (s.updGrid k f).grids = updKey Grid.key k f s.grids := rfl
@[simp] theorem State.updGrid_ctxs : (s.updGrid k f).ctxs = s.ctxs := rfl
@[simp] theorem State.updGrid_cores : (s.updGrid k f).cores = s.cores := rfl
@[simp] theorem State.updGrid_clusters : (s.updGrid k f).clusters = s.clusters := rfl
@[simp] theorem State.updGrid_parts : (s.updGrid k f).parts = s.parts := rfl
@[simp] theorem State.updGrid_vfs : (s.updGrid k f).vfs = s.vfs := rfl
@[simp] theorem State.updGrid_queues : (s.updGrid k f).queues = s.queues := rfl
@[simp] theorem State.updGrid_pend : (s.updGrid k f).pend = s.pend := rfl
@[simp] theorem State.updGrid_waitcs : (s.updGrid k f).waitcs = s.waitcs := rfl
@[simp] theorem State.updGrid_copies : (s.updGrid k f).copies = s.copies := rfl
@[simp] theorem State.updGrid_resolving : (s.updGrid k f).resolving = s.resolving := rfl
@[simp] theorem State.updGrid_chans : (s.updGrid k f).chans = s.chans := rfl
@[simp] theorem State.updGrid_peers : (s.updGrid k f).peers = s.peers := rfl
@[simp] theorem State.updGrid_links : (s.updGrid k f).links = s.links := rfl
@[simp] theorem State.updGrid_asks : (s.updGrid k f).asks = s.asks := rfl
@[simp] theorem State.updGrid_stranded : (s.updGrid k f).stranded = s.stranded := rfl
@[simp] theorem State.updGrid_boot : (s.updGrid k f).boot = s.boot := rfl
@[simp] theorem State.updGrid_bankA : (s.updGrid k f).bankA = s.bankA := rfl
@[simp] theorem State.updGrid_bankB : (s.updGrid k f).bankB = s.bankB := rfl
@[simp] theorem State.updGrid_fuses : (s.updGrid k f).fuses = s.fuses := rfl
@[simp] theorem State.updGrid_stored : (s.updGrid k f).stored = s.stored := rfl
@[simp] theorem State.updGrid_meas : (s.updGrid k f).meas = s.meas := rfl
@[simp] theorem State.updGrid_chain : (s.updGrid k f).chain = s.chain := rfl
@[simp] theorem State.updGrid_ptp : (s.updGrid k f).ptp = s.ptp := rfl
@[simp] theorem State.updGrid_ports : (s.updGrid k f).ports = s.ports := rfl
@[simp] theorem State.updGrid_harts : (s.updGrid k f).harts = s.harts := rfl
@[simp] theorem State.updGrid_fwCores : (s.updGrid k f).fwCores = s.fwCores := rfl
@[simp] theorem State.updGrid_ctrl : (s.updGrid k f).ctrl = s.ctrl := rfl
@[simp] theorem State.updGrid_fabric : (s.updGrid k f).fabric = s.fabric := rfl
@[simp] theorem State.updGrid_lines : (s.updGrid k f).lines = s.lines := rfl
@[simp] theorem State.updGrid_sensors : (s.updGrid k f).sensors = s.sensors := rfl
@[simp] theorem State.updGrid_polledAt : (s.updGrid k f).polledAt = s.polledAt := rfl
@[simp] theorem State.updGrid_stages : (s.updGrid k f).stages = s.stages := rfl
@[simp] theorem State.updGrid_c4 : (s.updGrid k f).c4 = s.c4 := rfl
@[simp] theorem State.updGrid_clearedAt : (s.updGrid k f).clearedAt = s.clearedAt := rfl
@[simp] theorem State.updGrid_ckpt : (s.updGrid k f).ckpt = s.ckpt := rfl
@[simp] theorem State.updGrid_images : (s.updGrid k f).images = s.images := rfl
@[simp] theorem State.updGrid_errLog : (s.updGrid k f).errLog = s.errLog := rfl
@[simp] theorem State.updGrid_blackBox : (s.updGrid k f).blackBox = s.blackBox := rfl
@[simp] theorem State.updGrid_evSeq : (s.updGrid k f).evSeq = s.evSeq := rfl
@[simp] theorem State.updGrid_frozen : (s.updGrid k f).frozen = s.frozen := rfl
@[simp] theorem State.updGrid_inputs : (s.updGrid k f).inputs = s.inputs := rfl
@[simp] theorem State.updGrid_sel : (s.updGrid k f).sel = s.sel := rfl
@[simp] theorem State.updGrid_go : (s.updGrid k f).go = s.go := rfl
@[simp] theorem State.updGrid_ext : (s.updGrid k f).ext = s.ext := rfl
@[simp] theorem State.updGrid_env : (s.updGrid k f).env = s.env := rfl
@[simp] theorem State.updGrid_nonce : (s.updGrid k f).nonce = s.nonce := rfl
@[simp] theorem State.updGrid_pace : (s.updGrid k f).pace = s.pace := rfl
@[simp] theorem State.updGrid_nextKey : (s.updGrid k f).nextKey = s.nextKey := rfl
@[simp] theorem State.updGrid_outbox : (s.updGrid k f).outbox = s.outbox := rfl
end

/-! ## updCtx -/

section
variable (s : State) (n : Nat) (f : Ctx → Ctx)
@[simp] theorem State.updCtx_tick : (s.updCtx n f).tick = s.tick := rfl
@[simp] theorem State.updCtx_mem : (s.updCtx n f).mem = s.mem := rfl
@[simp] theorem State.updCtx_poison : (s.updCtx n f).poison = s.poison := rfl
@[simp] theorem State.updCtx_vers : (s.updCtx n f).vers = s.vers := rfl
@[simp] theorem State.updCtx_owned : (s.updCtx n f).owned = s.owned := rfl
@[simp] theorem State.updCtx_tlb : (s.updCtx n f).tlb = s.tlb := rfl
@[simp] theorem State.updCtx_teams : (s.updCtx n f).teams = s.teams := rfl
@[simp] theorem State.updCtx_grids : (s.updCtx n f).grids = s.grids := rfl
@[simp] theorem State.updCtx_ctxs : (s.updCtx n f).ctxs = updOr Ctx.num n { num := n, vf := 0 } f s.ctxs := rfl
@[simp] theorem State.updCtx_cores : (s.updCtx n f).cores = s.cores := rfl
@[simp] theorem State.updCtx_clusters : (s.updCtx n f).clusters = s.clusters := rfl
@[simp] theorem State.updCtx_parts : (s.updCtx n f).parts = s.parts := rfl
@[simp] theorem State.updCtx_vfs : (s.updCtx n f).vfs = s.vfs := rfl
@[simp] theorem State.updCtx_queues : (s.updCtx n f).queues = s.queues := rfl
@[simp] theorem State.updCtx_pend : (s.updCtx n f).pend = s.pend := rfl
@[simp] theorem State.updCtx_waitcs : (s.updCtx n f).waitcs = s.waitcs := rfl
@[simp] theorem State.updCtx_copies : (s.updCtx n f).copies = s.copies := rfl
@[simp] theorem State.updCtx_resolving : (s.updCtx n f).resolving = s.resolving := rfl
@[simp] theorem State.updCtx_chans : (s.updCtx n f).chans = s.chans := rfl
@[simp] theorem State.updCtx_peers : (s.updCtx n f).peers = s.peers := rfl
@[simp] theorem State.updCtx_links : (s.updCtx n f).links = s.links := rfl
@[simp] theorem State.updCtx_asks : (s.updCtx n f).asks = s.asks := rfl
@[simp] theorem State.updCtx_stranded : (s.updCtx n f).stranded = s.stranded := rfl
@[simp] theorem State.updCtx_boot : (s.updCtx n f).boot = s.boot := rfl
@[simp] theorem State.updCtx_bankA : (s.updCtx n f).bankA = s.bankA := rfl
@[simp] theorem State.updCtx_bankB : (s.updCtx n f).bankB = s.bankB := rfl
@[simp] theorem State.updCtx_fuses : (s.updCtx n f).fuses = s.fuses := rfl
@[simp] theorem State.updCtx_stored : (s.updCtx n f).stored = s.stored := rfl
@[simp] theorem State.updCtx_meas : (s.updCtx n f).meas = s.meas := rfl
@[simp] theorem State.updCtx_chain : (s.updCtx n f).chain = s.chain := rfl
@[simp] theorem State.updCtx_ptp : (s.updCtx n f).ptp = s.ptp := rfl
@[simp] theorem State.updCtx_ports : (s.updCtx n f).ports = s.ports := rfl
@[simp] theorem State.updCtx_harts : (s.updCtx n f).harts = s.harts := rfl
@[simp] theorem State.updCtx_fwCores : (s.updCtx n f).fwCores = s.fwCores := rfl
@[simp] theorem State.updCtx_ctrl : (s.updCtx n f).ctrl = s.ctrl := rfl
@[simp] theorem State.updCtx_fabric : (s.updCtx n f).fabric = s.fabric := rfl
@[simp] theorem State.updCtx_lines : (s.updCtx n f).lines = s.lines := rfl
@[simp] theorem State.updCtx_sensors : (s.updCtx n f).sensors = s.sensors := rfl
@[simp] theorem State.updCtx_polledAt : (s.updCtx n f).polledAt = s.polledAt := rfl
@[simp] theorem State.updCtx_stages : (s.updCtx n f).stages = s.stages := rfl
@[simp] theorem State.updCtx_c4 : (s.updCtx n f).c4 = s.c4 := rfl
@[simp] theorem State.updCtx_clearedAt : (s.updCtx n f).clearedAt = s.clearedAt := rfl
@[simp] theorem State.updCtx_ckpt : (s.updCtx n f).ckpt = s.ckpt := rfl
@[simp] theorem State.updCtx_images : (s.updCtx n f).images = s.images := rfl
@[simp] theorem State.updCtx_errLog : (s.updCtx n f).errLog = s.errLog := rfl
@[simp] theorem State.updCtx_blackBox : (s.updCtx n f).blackBox = s.blackBox := rfl
@[simp] theorem State.updCtx_evSeq : (s.updCtx n f).evSeq = s.evSeq := rfl
@[simp] theorem State.updCtx_frozen : (s.updCtx n f).frozen = s.frozen := rfl
@[simp] theorem State.updCtx_inputs : (s.updCtx n f).inputs = s.inputs := rfl
@[simp] theorem State.updCtx_sel : (s.updCtx n f).sel = s.sel := rfl
@[simp] theorem State.updCtx_go : (s.updCtx n f).go = s.go := rfl
@[simp] theorem State.updCtx_ext : (s.updCtx n f).ext = s.ext := rfl
@[simp] theorem State.updCtx_env : (s.updCtx n f).env = s.env := rfl
@[simp] theorem State.updCtx_nonce : (s.updCtx n f).nonce = s.nonce := rfl
@[simp] theorem State.updCtx_pace : (s.updCtx n f).pace = s.pace := rfl
@[simp] theorem State.updCtx_nextKey : (s.updCtx n f).nextKey = s.nextKey := rfl
@[simp] theorem State.updCtx_outbox : (s.updCtx n f).outbox = s.outbox := rfl
end

/-! ## updCore -/

section
variable (s : State) (n : Nat) (f : Core → Core)
@[simp] theorem State.updCore_tick : (s.updCore n f).tick = s.tick := rfl
@[simp] theorem State.updCore_mem : (s.updCore n f).mem = s.mem := rfl
@[simp] theorem State.updCore_poison : (s.updCore n f).poison = s.poison := rfl
@[simp] theorem State.updCore_vers : (s.updCore n f).vers = s.vers := rfl
@[simp] theorem State.updCore_owned : (s.updCore n f).owned = s.owned := rfl
@[simp] theorem State.updCore_tlb : (s.updCore n f).tlb = s.tlb := rfl
@[simp] theorem State.updCore_teams : (s.updCore n f).teams = s.teams := rfl
@[simp] theorem State.updCore_grids : (s.updCore n f).grids = s.grids := rfl
@[simp] theorem State.updCore_ctxs : (s.updCore n f).ctxs = s.ctxs := rfl
@[simp] theorem State.updCore_cores : (s.updCore n f).cores = updOr Core.num n { num := n } f s.cores := rfl
@[simp] theorem State.updCore_clusters : (s.updCore n f).clusters = s.clusters := rfl
@[simp] theorem State.updCore_parts : (s.updCore n f).parts = s.parts := rfl
@[simp] theorem State.updCore_vfs : (s.updCore n f).vfs = s.vfs := rfl
@[simp] theorem State.updCore_queues : (s.updCore n f).queues = s.queues := rfl
@[simp] theorem State.updCore_pend : (s.updCore n f).pend = s.pend := rfl
@[simp] theorem State.updCore_waitcs : (s.updCore n f).waitcs = s.waitcs := rfl
@[simp] theorem State.updCore_copies : (s.updCore n f).copies = s.copies := rfl
@[simp] theorem State.updCore_resolving : (s.updCore n f).resolving = s.resolving := rfl
@[simp] theorem State.updCore_chans : (s.updCore n f).chans = s.chans := rfl
@[simp] theorem State.updCore_peers : (s.updCore n f).peers = s.peers := rfl
@[simp] theorem State.updCore_links : (s.updCore n f).links = s.links := rfl
@[simp] theorem State.updCore_asks : (s.updCore n f).asks = s.asks := rfl
@[simp] theorem State.updCore_stranded : (s.updCore n f).stranded = s.stranded := rfl
@[simp] theorem State.updCore_boot : (s.updCore n f).boot = s.boot := rfl
@[simp] theorem State.updCore_bankA : (s.updCore n f).bankA = s.bankA := rfl
@[simp] theorem State.updCore_bankB : (s.updCore n f).bankB = s.bankB := rfl
@[simp] theorem State.updCore_fuses : (s.updCore n f).fuses = s.fuses := rfl
@[simp] theorem State.updCore_stored : (s.updCore n f).stored = s.stored := rfl
@[simp] theorem State.updCore_meas : (s.updCore n f).meas = s.meas := rfl
@[simp] theorem State.updCore_chain : (s.updCore n f).chain = s.chain := rfl
@[simp] theorem State.updCore_ptp : (s.updCore n f).ptp = s.ptp := rfl
@[simp] theorem State.updCore_ports : (s.updCore n f).ports = s.ports := rfl
@[simp] theorem State.updCore_harts : (s.updCore n f).harts = s.harts := rfl
@[simp] theorem State.updCore_fwCores : (s.updCore n f).fwCores = s.fwCores := rfl
@[simp] theorem State.updCore_ctrl : (s.updCore n f).ctrl = s.ctrl := rfl
@[simp] theorem State.updCore_fabric : (s.updCore n f).fabric = s.fabric := rfl
@[simp] theorem State.updCore_lines : (s.updCore n f).lines = s.lines := rfl
@[simp] theorem State.updCore_sensors : (s.updCore n f).sensors = s.sensors := rfl
@[simp] theorem State.updCore_polledAt : (s.updCore n f).polledAt = s.polledAt := rfl
@[simp] theorem State.updCore_stages : (s.updCore n f).stages = s.stages := rfl
@[simp] theorem State.updCore_c4 : (s.updCore n f).c4 = s.c4 := rfl
@[simp] theorem State.updCore_clearedAt : (s.updCore n f).clearedAt = s.clearedAt := rfl
@[simp] theorem State.updCore_ckpt : (s.updCore n f).ckpt = s.ckpt := rfl
@[simp] theorem State.updCore_images : (s.updCore n f).images = s.images := rfl
@[simp] theorem State.updCore_errLog : (s.updCore n f).errLog = s.errLog := rfl
@[simp] theorem State.updCore_blackBox : (s.updCore n f).blackBox = s.blackBox := rfl
@[simp] theorem State.updCore_evSeq : (s.updCore n f).evSeq = s.evSeq := rfl
@[simp] theorem State.updCore_frozen : (s.updCore n f).frozen = s.frozen := rfl
@[simp] theorem State.updCore_inputs : (s.updCore n f).inputs = s.inputs := rfl
@[simp] theorem State.updCore_sel : (s.updCore n f).sel = s.sel := rfl
@[simp] theorem State.updCore_go : (s.updCore n f).go = s.go := rfl
@[simp] theorem State.updCore_ext : (s.updCore n f).ext = s.ext := rfl
@[simp] theorem State.updCore_env : (s.updCore n f).env = s.env := rfl
@[simp] theorem State.updCore_nonce : (s.updCore n f).nonce = s.nonce := rfl
@[simp] theorem State.updCore_pace : (s.updCore n f).pace = s.pace := rfl
@[simp] theorem State.updCore_nextKey : (s.updCore n f).nextKey = s.nextKey := rfl
@[simp] theorem State.updCore_outbox : (s.updCore n f).outbox = s.outbox := rfl
end

/-! ## updCluster -/

section
variable (s : State) (n : Nat) (f : Cluster → Cluster)
@[simp] theorem State.updCluster_tick : (s.updCluster n f).tick = s.tick := rfl
@[simp] theorem State.updCluster_mem : (s.updCluster n f).mem = s.mem := rfl
@[simp] theorem State.updCluster_poison : (s.updCluster n f).poison = s.poison := rfl
@[simp] theorem State.updCluster_vers : (s.updCluster n f).vers = s.vers := rfl
@[simp] theorem State.updCluster_owned : (s.updCluster n f).owned = s.owned := rfl
@[simp] theorem State.updCluster_tlb : (s.updCluster n f).tlb = s.tlb := rfl
@[simp] theorem State.updCluster_teams : (s.updCluster n f).teams = s.teams := rfl
@[simp] theorem State.updCluster_grids : (s.updCluster n f).grids = s.grids := rfl
@[simp] theorem State.updCluster_ctxs : (s.updCluster n f).ctxs = s.ctxs := rfl
@[simp] theorem State.updCluster_cores : (s.updCluster n f).cores = s.cores := rfl
@[simp] theorem State.updCluster_clusters : (s.updCluster n f).clusters = updOr Cluster.num n { num := n } f s.clusters := rfl
@[simp] theorem State.updCluster_parts : (s.updCluster n f).parts = s.parts := rfl
@[simp] theorem State.updCluster_vfs : (s.updCluster n f).vfs = s.vfs := rfl
@[simp] theorem State.updCluster_queues : (s.updCluster n f).queues = s.queues := rfl
@[simp] theorem State.updCluster_pend : (s.updCluster n f).pend = s.pend := rfl
@[simp] theorem State.updCluster_waitcs : (s.updCluster n f).waitcs = s.waitcs := rfl
@[simp] theorem State.updCluster_copies : (s.updCluster n f).copies = s.copies := rfl
@[simp] theorem State.updCluster_resolving : (s.updCluster n f).resolving = s.resolving := rfl
@[simp] theorem State.updCluster_chans : (s.updCluster n f).chans = s.chans := rfl
@[simp] theorem State.updCluster_peers : (s.updCluster n f).peers = s.peers := rfl
@[simp] theorem State.updCluster_links : (s.updCluster n f).links = s.links := rfl
@[simp] theorem State.updCluster_asks : (s.updCluster n f).asks = s.asks := rfl
@[simp] theorem State.updCluster_stranded : (s.updCluster n f).stranded = s.stranded := rfl
@[simp] theorem State.updCluster_boot : (s.updCluster n f).boot = s.boot := rfl
@[simp] theorem State.updCluster_bankA : (s.updCluster n f).bankA = s.bankA := rfl
@[simp] theorem State.updCluster_bankB : (s.updCluster n f).bankB = s.bankB := rfl
@[simp] theorem State.updCluster_fuses : (s.updCluster n f).fuses = s.fuses := rfl
@[simp] theorem State.updCluster_stored : (s.updCluster n f).stored = s.stored := rfl
@[simp] theorem State.updCluster_meas : (s.updCluster n f).meas = s.meas := rfl
@[simp] theorem State.updCluster_chain : (s.updCluster n f).chain = s.chain := rfl
@[simp] theorem State.updCluster_ptp : (s.updCluster n f).ptp = s.ptp := rfl
@[simp] theorem State.updCluster_ports : (s.updCluster n f).ports = s.ports := rfl
@[simp] theorem State.updCluster_harts : (s.updCluster n f).harts = s.harts := rfl
@[simp] theorem State.updCluster_fwCores : (s.updCluster n f).fwCores = s.fwCores := rfl
@[simp] theorem State.updCluster_ctrl : (s.updCluster n f).ctrl = s.ctrl := rfl
@[simp] theorem State.updCluster_fabric : (s.updCluster n f).fabric = s.fabric := rfl
@[simp] theorem State.updCluster_lines : (s.updCluster n f).lines = s.lines := rfl
@[simp] theorem State.updCluster_sensors : (s.updCluster n f).sensors = s.sensors := rfl
@[simp] theorem State.updCluster_polledAt : (s.updCluster n f).polledAt = s.polledAt := rfl
@[simp] theorem State.updCluster_stages : (s.updCluster n f).stages = s.stages := rfl
@[simp] theorem State.updCluster_c4 : (s.updCluster n f).c4 = s.c4 := rfl
@[simp] theorem State.updCluster_clearedAt : (s.updCluster n f).clearedAt = s.clearedAt := rfl
@[simp] theorem State.updCluster_ckpt : (s.updCluster n f).ckpt = s.ckpt := rfl
@[simp] theorem State.updCluster_images : (s.updCluster n f).images = s.images := rfl
@[simp] theorem State.updCluster_errLog : (s.updCluster n f).errLog = s.errLog := rfl
@[simp] theorem State.updCluster_blackBox : (s.updCluster n f).blackBox = s.blackBox := rfl
@[simp] theorem State.updCluster_evSeq : (s.updCluster n f).evSeq = s.evSeq := rfl
@[simp] theorem State.updCluster_frozen : (s.updCluster n f).frozen = s.frozen := rfl
@[simp] theorem State.updCluster_inputs : (s.updCluster n f).inputs = s.inputs := rfl
@[simp] theorem State.updCluster_sel : (s.updCluster n f).sel = s.sel := rfl
@[simp] theorem State.updCluster_go : (s.updCluster n f).go = s.go := rfl
@[simp] theorem State.updCluster_ext : (s.updCluster n f).ext = s.ext := rfl
@[simp] theorem State.updCluster_env : (s.updCluster n f).env = s.env := rfl
@[simp] theorem State.updCluster_nonce : (s.updCluster n f).nonce = s.nonce := rfl
@[simp] theorem State.updCluster_pace : (s.updCluster n f).pace = s.pace := rfl
@[simp] theorem State.updCluster_nextKey : (s.updCluster n f).nextKey = s.nextKey := rfl
@[simp] theorem State.updCluster_outbox : (s.updCluster n f).outbox = s.outbox := rfl
end

/-! ## updPart -/

section
variable (s : State) (n : Nat) (f : Part → Part)
@[simp] theorem State.updPart_tick : (s.updPart n f).tick = s.tick := rfl
@[simp] theorem State.updPart_mem : (s.updPart n f).mem = s.mem := rfl
@[simp] theorem State.updPart_poison : (s.updPart n f).poison = s.poison := rfl
@[simp] theorem State.updPart_vers : (s.updPart n f).vers = s.vers := rfl
@[simp] theorem State.updPart_owned : (s.updPart n f).owned = s.owned := rfl
@[simp] theorem State.updPart_tlb : (s.updPart n f).tlb = s.tlb := rfl
@[simp] theorem State.updPart_teams : (s.updPart n f).teams = s.teams := rfl
@[simp] theorem State.updPart_grids : (s.updPart n f).grids = s.grids := rfl
@[simp] theorem State.updPart_ctxs : (s.updPart n f).ctxs = s.ctxs := rfl
@[simp] theorem State.updPart_cores : (s.updPart n f).cores = s.cores := rfl
@[simp] theorem State.updPart_clusters : (s.updPart n f).clusters = s.clusters := rfl
@[simp] theorem State.updPart_parts : (s.updPart n f).parts = updOr Part.num n { num := n } f s.parts := rfl
@[simp] theorem State.updPart_vfs : (s.updPart n f).vfs = s.vfs := rfl
@[simp] theorem State.updPart_queues : (s.updPart n f).queues = s.queues := rfl
@[simp] theorem State.updPart_pend : (s.updPart n f).pend = s.pend := rfl
@[simp] theorem State.updPart_waitcs : (s.updPart n f).waitcs = s.waitcs := rfl
@[simp] theorem State.updPart_copies : (s.updPart n f).copies = s.copies := rfl
@[simp] theorem State.updPart_resolving : (s.updPart n f).resolving = s.resolving := rfl
@[simp] theorem State.updPart_chans : (s.updPart n f).chans = s.chans := rfl
@[simp] theorem State.updPart_peers : (s.updPart n f).peers = s.peers := rfl
@[simp] theorem State.updPart_links : (s.updPart n f).links = s.links := rfl
@[simp] theorem State.updPart_asks : (s.updPart n f).asks = s.asks := rfl
@[simp] theorem State.updPart_stranded : (s.updPart n f).stranded = s.stranded := rfl
@[simp] theorem State.updPart_boot : (s.updPart n f).boot = s.boot := rfl
@[simp] theorem State.updPart_bankA : (s.updPart n f).bankA = s.bankA := rfl
@[simp] theorem State.updPart_bankB : (s.updPart n f).bankB = s.bankB := rfl
@[simp] theorem State.updPart_fuses : (s.updPart n f).fuses = s.fuses := rfl
@[simp] theorem State.updPart_stored : (s.updPart n f).stored = s.stored := rfl
@[simp] theorem State.updPart_meas : (s.updPart n f).meas = s.meas := rfl
@[simp] theorem State.updPart_chain : (s.updPart n f).chain = s.chain := rfl
@[simp] theorem State.updPart_ptp : (s.updPart n f).ptp = s.ptp := rfl
@[simp] theorem State.updPart_ports : (s.updPart n f).ports = s.ports := rfl
@[simp] theorem State.updPart_harts : (s.updPart n f).harts = s.harts := rfl
@[simp] theorem State.updPart_fwCores : (s.updPart n f).fwCores = s.fwCores := rfl
@[simp] theorem State.updPart_ctrl : (s.updPart n f).ctrl = s.ctrl := rfl
@[simp] theorem State.updPart_fabric : (s.updPart n f).fabric = s.fabric := rfl
@[simp] theorem State.updPart_lines : (s.updPart n f).lines = s.lines := rfl
@[simp] theorem State.updPart_sensors : (s.updPart n f).sensors = s.sensors := rfl
@[simp] theorem State.updPart_polledAt : (s.updPart n f).polledAt = s.polledAt := rfl
@[simp] theorem State.updPart_stages : (s.updPart n f).stages = s.stages := rfl
@[simp] theorem State.updPart_c4 : (s.updPart n f).c4 = s.c4 := rfl
@[simp] theorem State.updPart_clearedAt : (s.updPart n f).clearedAt = s.clearedAt := rfl
@[simp] theorem State.updPart_ckpt : (s.updPart n f).ckpt = s.ckpt := rfl
@[simp] theorem State.updPart_images : (s.updPart n f).images = s.images := rfl
@[simp] theorem State.updPart_errLog : (s.updPart n f).errLog = s.errLog := rfl
@[simp] theorem State.updPart_blackBox : (s.updPart n f).blackBox = s.blackBox := rfl
@[simp] theorem State.updPart_evSeq : (s.updPart n f).evSeq = s.evSeq := rfl
@[simp] theorem State.updPart_frozen : (s.updPart n f).frozen = s.frozen := rfl
@[simp] theorem State.updPart_inputs : (s.updPart n f).inputs = s.inputs := rfl
@[simp] theorem State.updPart_sel : (s.updPart n f).sel = s.sel := rfl
@[simp] theorem State.updPart_go : (s.updPart n f).go = s.go := rfl
@[simp] theorem State.updPart_ext : (s.updPart n f).ext = s.ext := rfl
@[simp] theorem State.updPart_env : (s.updPart n f).env = s.env := rfl
@[simp] theorem State.updPart_nonce : (s.updPart n f).nonce = s.nonce := rfl
@[simp] theorem State.updPart_pace : (s.updPart n f).pace = s.pace := rfl
@[simp] theorem State.updPart_nextKey : (s.updPart n f).nextKey = s.nextKey := rfl
@[simp] theorem State.updPart_outbox : (s.updPart n f).outbox = s.outbox := rfl
end

/-! ## updVf -/

section
variable (s : State) (n : Nat) (f : Vf → Vf)
@[simp] theorem State.updVf_tick : (s.updVf n f).tick = s.tick := rfl
@[simp] theorem State.updVf_mem : (s.updVf n f).mem = s.mem := rfl
@[simp] theorem State.updVf_poison : (s.updVf n f).poison = s.poison := rfl
@[simp] theorem State.updVf_vers : (s.updVf n f).vers = s.vers := rfl
@[simp] theorem State.updVf_owned : (s.updVf n f).owned = s.owned := rfl
@[simp] theorem State.updVf_tlb : (s.updVf n f).tlb = s.tlb := rfl
@[simp] theorem State.updVf_teams : (s.updVf n f).teams = s.teams := rfl
@[simp] theorem State.updVf_grids : (s.updVf n f).grids = s.grids := rfl
@[simp] theorem State.updVf_ctxs : (s.updVf n f).ctxs = s.ctxs := rfl
@[simp] theorem State.updVf_cores : (s.updVf n f).cores = s.cores := rfl
@[simp] theorem State.updVf_clusters : (s.updVf n f).clusters = s.clusters := rfl
@[simp] theorem State.updVf_parts : (s.updVf n f).parts = s.parts := rfl
@[simp] theorem State.updVf_vfs : (s.updVf n f).vfs = updOr Vf.num n { num := n } f s.vfs := rfl
@[simp] theorem State.updVf_queues : (s.updVf n f).queues = s.queues := rfl
@[simp] theorem State.updVf_pend : (s.updVf n f).pend = s.pend := rfl
@[simp] theorem State.updVf_waitcs : (s.updVf n f).waitcs = s.waitcs := rfl
@[simp] theorem State.updVf_copies : (s.updVf n f).copies = s.copies := rfl
@[simp] theorem State.updVf_resolving : (s.updVf n f).resolving = s.resolving := rfl
@[simp] theorem State.updVf_chans : (s.updVf n f).chans = s.chans := rfl
@[simp] theorem State.updVf_peers : (s.updVf n f).peers = s.peers := rfl
@[simp] theorem State.updVf_links : (s.updVf n f).links = s.links := rfl
@[simp] theorem State.updVf_asks : (s.updVf n f).asks = s.asks := rfl
@[simp] theorem State.updVf_stranded : (s.updVf n f).stranded = s.stranded := rfl
@[simp] theorem State.updVf_boot : (s.updVf n f).boot = s.boot := rfl
@[simp] theorem State.updVf_bankA : (s.updVf n f).bankA = s.bankA := rfl
@[simp] theorem State.updVf_bankB : (s.updVf n f).bankB = s.bankB := rfl
@[simp] theorem State.updVf_fuses : (s.updVf n f).fuses = s.fuses := rfl
@[simp] theorem State.updVf_stored : (s.updVf n f).stored = s.stored := rfl
@[simp] theorem State.updVf_meas : (s.updVf n f).meas = s.meas := rfl
@[simp] theorem State.updVf_chain : (s.updVf n f).chain = s.chain := rfl
@[simp] theorem State.updVf_ptp : (s.updVf n f).ptp = s.ptp := rfl
@[simp] theorem State.updVf_ports : (s.updVf n f).ports = s.ports := rfl
@[simp] theorem State.updVf_harts : (s.updVf n f).harts = s.harts := rfl
@[simp] theorem State.updVf_fwCores : (s.updVf n f).fwCores = s.fwCores := rfl
@[simp] theorem State.updVf_ctrl : (s.updVf n f).ctrl = s.ctrl := rfl
@[simp] theorem State.updVf_fabric : (s.updVf n f).fabric = s.fabric := rfl
@[simp] theorem State.updVf_lines : (s.updVf n f).lines = s.lines := rfl
@[simp] theorem State.updVf_sensors : (s.updVf n f).sensors = s.sensors := rfl
@[simp] theorem State.updVf_polledAt : (s.updVf n f).polledAt = s.polledAt := rfl
@[simp] theorem State.updVf_stages : (s.updVf n f).stages = s.stages := rfl
@[simp] theorem State.updVf_c4 : (s.updVf n f).c4 = s.c4 := rfl
@[simp] theorem State.updVf_clearedAt : (s.updVf n f).clearedAt = s.clearedAt := rfl
@[simp] theorem State.updVf_ckpt : (s.updVf n f).ckpt = s.ckpt := rfl
@[simp] theorem State.updVf_images : (s.updVf n f).images = s.images := rfl
@[simp] theorem State.updVf_errLog : (s.updVf n f).errLog = s.errLog := rfl
@[simp] theorem State.updVf_blackBox : (s.updVf n f).blackBox = s.blackBox := rfl
@[simp] theorem State.updVf_evSeq : (s.updVf n f).evSeq = s.evSeq := rfl
@[simp] theorem State.updVf_frozen : (s.updVf n f).frozen = s.frozen := rfl
@[simp] theorem State.updVf_inputs : (s.updVf n f).inputs = s.inputs := rfl
@[simp] theorem State.updVf_sel : (s.updVf n f).sel = s.sel := rfl
@[simp] theorem State.updVf_go : (s.updVf n f).go = s.go := rfl
@[simp] theorem State.updVf_ext : (s.updVf n f).ext = s.ext := rfl
@[simp] theorem State.updVf_env : (s.updVf n f).env = s.env := rfl
@[simp] theorem State.updVf_nonce : (s.updVf n f).nonce = s.nonce := rfl
@[simp] theorem State.updVf_pace : (s.updVf n f).pace = s.pace := rfl
@[simp] theorem State.updVf_nextKey : (s.updVf n f).nextKey = s.nextKey := rfl
@[simp] theorem State.updVf_outbox : (s.updVf n f).outbox = s.outbox := rfl
end

/-! ## updQueue -/

section
variable (s : State) (v q : Nat) (f : Queue → Queue)
@[simp] theorem State.updQueue_tick : (s.updQueue v q f).tick = s.tick := rfl
@[simp] theorem State.updQueue_mem : (s.updQueue v q f).mem = s.mem := rfl
@[simp] theorem State.updQueue_poison : (s.updQueue v q f).poison = s.poison := rfl
@[simp] theorem State.updQueue_vers : (s.updQueue v q f).vers = s.vers := rfl
@[simp] theorem State.updQueue_owned : (s.updQueue v q f).owned = s.owned := rfl
@[simp] theorem State.updQueue_tlb : (s.updQueue v q f).tlb = s.tlb := rfl
@[simp] theorem State.updQueue_teams : (s.updQueue v q f).teams = s.teams := rfl
@[simp] theorem State.updQueue_grids : (s.updQueue v q f).grids = s.grids := rfl
@[simp] theorem State.updQueue_ctxs : (s.updQueue v q f).ctxs = s.ctxs := rfl
@[simp] theorem State.updQueue_cores : (s.updQueue v q f).cores = s.cores := rfl
@[simp] theorem State.updQueue_clusters : (s.updQueue v q f).clusters = s.clusters := rfl
@[simp] theorem State.updQueue_parts : (s.updQueue v q f).parts = s.parts := rfl
@[simp] theorem State.updQueue_vfs : (s.updQueue v q f).vfs = s.vfs := rfl
@[simp] theorem State.updQueue_queues : (s.updQueue v q f).queues = s.queues.map fun x => if x.vf = v ∧ x.num = q then f x else x := rfl
@[simp] theorem State.updQueue_pend : (s.updQueue v q f).pend = s.pend := rfl
@[simp] theorem State.updQueue_waitcs : (s.updQueue v q f).waitcs = s.waitcs := rfl
@[simp] theorem State.updQueue_copies : (s.updQueue v q f).copies = s.copies := rfl
@[simp] theorem State.updQueue_resolving : (s.updQueue v q f).resolving = s.resolving := rfl
@[simp] theorem State.updQueue_chans : (s.updQueue v q f).chans = s.chans := rfl
@[simp] theorem State.updQueue_peers : (s.updQueue v q f).peers = s.peers := rfl
@[simp] theorem State.updQueue_links : (s.updQueue v q f).links = s.links := rfl
@[simp] theorem State.updQueue_asks : (s.updQueue v q f).asks = s.asks := rfl
@[simp] theorem State.updQueue_stranded : (s.updQueue v q f).stranded = s.stranded := rfl
@[simp] theorem State.updQueue_boot : (s.updQueue v q f).boot = s.boot := rfl
@[simp] theorem State.updQueue_bankA : (s.updQueue v q f).bankA = s.bankA := rfl
@[simp] theorem State.updQueue_bankB : (s.updQueue v q f).bankB = s.bankB := rfl
@[simp] theorem State.updQueue_fuses : (s.updQueue v q f).fuses = s.fuses := rfl
@[simp] theorem State.updQueue_stored : (s.updQueue v q f).stored = s.stored := rfl
@[simp] theorem State.updQueue_meas : (s.updQueue v q f).meas = s.meas := rfl
@[simp] theorem State.updQueue_chain : (s.updQueue v q f).chain = s.chain := rfl
@[simp] theorem State.updQueue_ptp : (s.updQueue v q f).ptp = s.ptp := rfl
@[simp] theorem State.updQueue_ports : (s.updQueue v q f).ports = s.ports := rfl
@[simp] theorem State.updQueue_harts : (s.updQueue v q f).harts = s.harts := rfl
@[simp] theorem State.updQueue_fwCores : (s.updQueue v q f).fwCores = s.fwCores := rfl
@[simp] theorem State.updQueue_ctrl : (s.updQueue v q f).ctrl = s.ctrl := rfl
@[simp] theorem State.updQueue_fabric : (s.updQueue v q f).fabric = s.fabric := rfl
@[simp] theorem State.updQueue_lines : (s.updQueue v q f).lines = s.lines := rfl
@[simp] theorem State.updQueue_sensors : (s.updQueue v q f).sensors = s.sensors := rfl
@[simp] theorem State.updQueue_polledAt : (s.updQueue v q f).polledAt = s.polledAt := rfl
@[simp] theorem State.updQueue_stages : (s.updQueue v q f).stages = s.stages := rfl
@[simp] theorem State.updQueue_c4 : (s.updQueue v q f).c4 = s.c4 := rfl
@[simp] theorem State.updQueue_clearedAt : (s.updQueue v q f).clearedAt = s.clearedAt := rfl
@[simp] theorem State.updQueue_ckpt : (s.updQueue v q f).ckpt = s.ckpt := rfl
@[simp] theorem State.updQueue_images : (s.updQueue v q f).images = s.images := rfl
@[simp] theorem State.updQueue_errLog : (s.updQueue v q f).errLog = s.errLog := rfl
@[simp] theorem State.updQueue_blackBox : (s.updQueue v q f).blackBox = s.blackBox := rfl
@[simp] theorem State.updQueue_evSeq : (s.updQueue v q f).evSeq = s.evSeq := rfl
@[simp] theorem State.updQueue_frozen : (s.updQueue v q f).frozen = s.frozen := rfl
@[simp] theorem State.updQueue_inputs : (s.updQueue v q f).inputs = s.inputs := rfl
@[simp] theorem State.updQueue_sel : (s.updQueue v q f).sel = s.sel := rfl
@[simp] theorem State.updQueue_go : (s.updQueue v q f).go = s.go := rfl
@[simp] theorem State.updQueue_ext : (s.updQueue v q f).ext = s.ext := rfl
@[simp] theorem State.updQueue_env : (s.updQueue v q f).env = s.env := rfl
@[simp] theorem State.updQueue_nonce : (s.updQueue v q f).nonce = s.nonce := rfl
@[simp] theorem State.updQueue_pace : (s.updQueue v q f).pace = s.pace := rfl
@[simp] theorem State.updQueue_nextKey : (s.updQueue v q f).nextKey = s.nextKey := rfl
@[simp] theorem State.updQueue_outbox : (s.updQueue v q f).outbox = s.outbox := rfl
end

/-! ## takeKey -/

section
variable (s : State)
@[simp] theorem State.takeKey_tick : (s.takeKey).tick = s.tick := rfl
@[simp] theorem State.takeKey_mem : (s.takeKey).mem = s.mem := rfl
@[simp] theorem State.takeKey_poison : (s.takeKey).poison = s.poison := rfl
@[simp] theorem State.takeKey_vers : (s.takeKey).vers = s.vers := rfl
@[simp] theorem State.takeKey_owned : (s.takeKey).owned = s.owned := rfl
@[simp] theorem State.takeKey_tlb : (s.takeKey).tlb = s.tlb := rfl
@[simp] theorem State.takeKey_teams : (s.takeKey).teams = s.teams := rfl
@[simp] theorem State.takeKey_grids : (s.takeKey).grids = s.grids := rfl
@[simp] theorem State.takeKey_ctxs : (s.takeKey).ctxs = s.ctxs := rfl
@[simp] theorem State.takeKey_cores : (s.takeKey).cores = s.cores := rfl
@[simp] theorem State.takeKey_clusters : (s.takeKey).clusters = s.clusters := rfl
@[simp] theorem State.takeKey_parts : (s.takeKey).parts = s.parts := rfl
@[simp] theorem State.takeKey_vfs : (s.takeKey).vfs = s.vfs := rfl
@[simp] theorem State.takeKey_queues : (s.takeKey).queues = s.queues := rfl
@[simp] theorem State.takeKey_pend : (s.takeKey).pend = s.pend := rfl
@[simp] theorem State.takeKey_waitcs : (s.takeKey).waitcs = s.waitcs := rfl
@[simp] theorem State.takeKey_copies : (s.takeKey).copies = s.copies := rfl
@[simp] theorem State.takeKey_resolving : (s.takeKey).resolving = s.resolving := rfl
@[simp] theorem State.takeKey_chans : (s.takeKey).chans = s.chans := rfl
@[simp] theorem State.takeKey_peers : (s.takeKey).peers = s.peers := rfl
@[simp] theorem State.takeKey_links : (s.takeKey).links = s.links := rfl
@[simp] theorem State.takeKey_asks : (s.takeKey).asks = s.asks := rfl
@[simp] theorem State.takeKey_stranded : (s.takeKey).stranded = s.stranded := rfl
@[simp] theorem State.takeKey_boot : (s.takeKey).boot = s.boot := rfl
@[simp] theorem State.takeKey_bankA : (s.takeKey).bankA = s.bankA := rfl
@[simp] theorem State.takeKey_bankB : (s.takeKey).bankB = s.bankB := rfl
@[simp] theorem State.takeKey_fuses : (s.takeKey).fuses = s.fuses := rfl
@[simp] theorem State.takeKey_stored : (s.takeKey).stored = s.stored := rfl
@[simp] theorem State.takeKey_meas : (s.takeKey).meas = s.meas := rfl
@[simp] theorem State.takeKey_chain : (s.takeKey).chain = s.chain := rfl
@[simp] theorem State.takeKey_ptp : (s.takeKey).ptp = s.ptp := rfl
@[simp] theorem State.takeKey_ports : (s.takeKey).ports = s.ports := rfl
@[simp] theorem State.takeKey_harts : (s.takeKey).harts = s.harts := rfl
@[simp] theorem State.takeKey_fwCores : (s.takeKey).fwCores = s.fwCores := rfl
@[simp] theorem State.takeKey_ctrl : (s.takeKey).ctrl = s.ctrl := rfl
@[simp] theorem State.takeKey_fabric : (s.takeKey).fabric = s.fabric := rfl
@[simp] theorem State.takeKey_lines : (s.takeKey).lines = s.lines := rfl
@[simp] theorem State.takeKey_sensors : (s.takeKey).sensors = s.sensors := rfl
@[simp] theorem State.takeKey_polledAt : (s.takeKey).polledAt = s.polledAt := rfl
@[simp] theorem State.takeKey_stages : (s.takeKey).stages = s.stages := rfl
@[simp] theorem State.takeKey_c4 : (s.takeKey).c4 = s.c4 := rfl
@[simp] theorem State.takeKey_clearedAt : (s.takeKey).clearedAt = s.clearedAt := rfl
@[simp] theorem State.takeKey_ckpt : (s.takeKey).ckpt = s.ckpt := rfl
@[simp] theorem State.takeKey_images : (s.takeKey).images = s.images := rfl
@[simp] theorem State.takeKey_errLog : (s.takeKey).errLog = s.errLog := rfl
@[simp] theorem State.takeKey_blackBox : (s.takeKey).blackBox = s.blackBox := rfl
@[simp] theorem State.takeKey_evSeq : (s.takeKey).evSeq = s.evSeq := rfl
@[simp] theorem State.takeKey_frozen : (s.takeKey).frozen = s.frozen := rfl
@[simp] theorem State.takeKey_inputs : (s.takeKey).inputs = s.inputs := rfl
@[simp] theorem State.takeKey_sel : (s.takeKey).sel = s.sel := rfl
@[simp] theorem State.takeKey_go : (s.takeKey).go = s.go := rfl
@[simp] theorem State.takeKey_ext : (s.takeKey).ext = s.ext := rfl
@[simp] theorem State.takeKey_env : (s.takeKey).env = s.env := rfl
@[simp] theorem State.takeKey_nonce : (s.takeKey).nonce = s.nonce := rfl
@[simp] theorem State.takeKey_pace : (s.takeKey).pace = s.pace := rfl
@[simp] theorem State.takeKey_nextKey : (s.takeKey).nextKey = s.nextKey + 1 := rfl
@[simp] theorem State.takeKey_outbox : (s.takeKey).outbox = s.outbox := rfl
end

/-! ## takeNonce -/

section
variable (s : State)
@[simp] theorem State.takeNonce_tick : (s.takeNonce).tick = s.tick := rfl
@[simp] theorem State.takeNonce_mem : (s.takeNonce).mem = s.mem := rfl
@[simp] theorem State.takeNonce_poison : (s.takeNonce).poison = s.poison := rfl
@[simp] theorem State.takeNonce_vers : (s.takeNonce).vers = s.vers := rfl
@[simp] theorem State.takeNonce_owned : (s.takeNonce).owned = s.owned := rfl
@[simp] theorem State.takeNonce_tlb : (s.takeNonce).tlb = s.tlb := rfl
@[simp] theorem State.takeNonce_teams : (s.takeNonce).teams = s.teams := rfl
@[simp] theorem State.takeNonce_grids : (s.takeNonce).grids = s.grids := rfl
@[simp] theorem State.takeNonce_ctxs : (s.takeNonce).ctxs = s.ctxs := rfl
@[simp] theorem State.takeNonce_cores : (s.takeNonce).cores = s.cores := rfl
@[simp] theorem State.takeNonce_clusters : (s.takeNonce).clusters = s.clusters := rfl
@[simp] theorem State.takeNonce_parts : (s.takeNonce).parts = s.parts := rfl
@[simp] theorem State.takeNonce_vfs : (s.takeNonce).vfs = s.vfs := rfl
@[simp] theorem State.takeNonce_queues : (s.takeNonce).queues = s.queues := rfl
@[simp] theorem State.takeNonce_pend : (s.takeNonce).pend = s.pend := rfl
@[simp] theorem State.takeNonce_waitcs : (s.takeNonce).waitcs = s.waitcs := rfl
@[simp] theorem State.takeNonce_copies : (s.takeNonce).copies = s.copies := rfl
@[simp] theorem State.takeNonce_resolving : (s.takeNonce).resolving = s.resolving := rfl
@[simp] theorem State.takeNonce_chans : (s.takeNonce).chans = s.chans := rfl
@[simp] theorem State.takeNonce_peers : (s.takeNonce).peers = s.peers := rfl
@[simp] theorem State.takeNonce_links : (s.takeNonce).links = s.links := rfl
@[simp] theorem State.takeNonce_asks : (s.takeNonce).asks = s.asks := rfl
@[simp] theorem State.takeNonce_stranded : (s.takeNonce).stranded = s.stranded := rfl
@[simp] theorem State.takeNonce_boot : (s.takeNonce).boot = s.boot := rfl
@[simp] theorem State.takeNonce_bankA : (s.takeNonce).bankA = s.bankA := rfl
@[simp] theorem State.takeNonce_bankB : (s.takeNonce).bankB = s.bankB := rfl
@[simp] theorem State.takeNonce_fuses : (s.takeNonce).fuses = s.fuses := rfl
@[simp] theorem State.takeNonce_stored : (s.takeNonce).stored = s.stored := rfl
@[simp] theorem State.takeNonce_meas : (s.takeNonce).meas = s.meas := rfl
@[simp] theorem State.takeNonce_chain : (s.takeNonce).chain = s.chain := rfl
@[simp] theorem State.takeNonce_ptp : (s.takeNonce).ptp = s.ptp := rfl
@[simp] theorem State.takeNonce_ports : (s.takeNonce).ports = s.ports := rfl
@[simp] theorem State.takeNonce_harts : (s.takeNonce).harts = s.harts := rfl
@[simp] theorem State.takeNonce_fwCores : (s.takeNonce).fwCores = s.fwCores := rfl
@[simp] theorem State.takeNonce_ctrl : (s.takeNonce).ctrl = s.ctrl := rfl
@[simp] theorem State.takeNonce_fabric : (s.takeNonce).fabric = s.fabric := rfl
@[simp] theorem State.takeNonce_lines : (s.takeNonce).lines = s.lines := rfl
@[simp] theorem State.takeNonce_sensors : (s.takeNonce).sensors = s.sensors := rfl
@[simp] theorem State.takeNonce_polledAt : (s.takeNonce).polledAt = s.polledAt := rfl
@[simp] theorem State.takeNonce_stages : (s.takeNonce).stages = s.stages := rfl
@[simp] theorem State.takeNonce_c4 : (s.takeNonce).c4 = s.c4 := rfl
@[simp] theorem State.takeNonce_clearedAt : (s.takeNonce).clearedAt = s.clearedAt := rfl
@[simp] theorem State.takeNonce_ckpt : (s.takeNonce).ckpt = s.ckpt := rfl
@[simp] theorem State.takeNonce_images : (s.takeNonce).images = s.images := rfl
@[simp] theorem State.takeNonce_errLog : (s.takeNonce).errLog = s.errLog := rfl
@[simp] theorem State.takeNonce_blackBox : (s.takeNonce).blackBox = s.blackBox := rfl
@[simp] theorem State.takeNonce_evSeq : (s.takeNonce).evSeq = s.evSeq := rfl
@[simp] theorem State.takeNonce_frozen : (s.takeNonce).frozen = s.frozen := rfl
@[simp] theorem State.takeNonce_inputs : (s.takeNonce).inputs = s.inputs := rfl
@[simp] theorem State.takeNonce_sel : (s.takeNonce).sel = s.sel := rfl
@[simp] theorem State.takeNonce_go : (s.takeNonce).go = s.go := rfl
@[simp] theorem State.takeNonce_ext : (s.takeNonce).ext = s.ext := rfl
@[simp] theorem State.takeNonce_env : (s.takeNonce).env = s.env := rfl
@[simp] theorem State.takeNonce_nonce : (s.takeNonce).nonce = s.nonce + 1 := rfl
@[simp] theorem State.takeNonce_pace : (s.takeNonce).pace = s.pace := rfl
@[simp] theorem State.takeNonce_nextKey : (s.takeNonce).nextKey = s.nextKey := rfl
@[simp] theorem State.takeNonce_outbox : (s.takeNonce).outbox = s.outbox := rfl
end

/-! ## takeNonces -/

section
variable (s : State) (n : Nat)
@[simp] theorem State.takeNonces_tick : (s.takeNonces n).tick = s.tick := rfl
@[simp] theorem State.takeNonces_mem : (s.takeNonces n).mem = s.mem := rfl
@[simp] theorem State.takeNonces_poison : (s.takeNonces n).poison = s.poison := rfl
@[simp] theorem State.takeNonces_vers : (s.takeNonces n).vers = s.vers := rfl
@[simp] theorem State.takeNonces_owned : (s.takeNonces n).owned = s.owned := rfl
@[simp] theorem State.takeNonces_tlb : (s.takeNonces n).tlb = s.tlb := rfl
@[simp] theorem State.takeNonces_teams : (s.takeNonces n).teams = s.teams := rfl
@[simp] theorem State.takeNonces_grids : (s.takeNonces n).grids = s.grids := rfl
@[simp] theorem State.takeNonces_ctxs : (s.takeNonces n).ctxs = s.ctxs := rfl
@[simp] theorem State.takeNonces_cores : (s.takeNonces n).cores = s.cores := rfl
@[simp] theorem State.takeNonces_clusters : (s.takeNonces n).clusters = s.clusters := rfl
@[simp] theorem State.takeNonces_parts : (s.takeNonces n).parts = s.parts := rfl
@[simp] theorem State.takeNonces_vfs : (s.takeNonces n).vfs = s.vfs := rfl
@[simp] theorem State.takeNonces_queues : (s.takeNonces n).queues = s.queues := rfl
@[simp] theorem State.takeNonces_pend : (s.takeNonces n).pend = s.pend := rfl
@[simp] theorem State.takeNonces_waitcs : (s.takeNonces n).waitcs = s.waitcs := rfl
@[simp] theorem State.takeNonces_copies : (s.takeNonces n).copies = s.copies := rfl
@[simp] theorem State.takeNonces_resolving : (s.takeNonces n).resolving = s.resolving := rfl
@[simp] theorem State.takeNonces_chans : (s.takeNonces n).chans = s.chans := rfl
@[simp] theorem State.takeNonces_peers : (s.takeNonces n).peers = s.peers := rfl
@[simp] theorem State.takeNonces_links : (s.takeNonces n).links = s.links := rfl
@[simp] theorem State.takeNonces_asks : (s.takeNonces n).asks = s.asks := rfl
@[simp] theorem State.takeNonces_stranded : (s.takeNonces n).stranded = s.stranded := rfl
@[simp] theorem State.takeNonces_boot : (s.takeNonces n).boot = s.boot := rfl
@[simp] theorem State.takeNonces_bankA : (s.takeNonces n).bankA = s.bankA := rfl
@[simp] theorem State.takeNonces_bankB : (s.takeNonces n).bankB = s.bankB := rfl
@[simp] theorem State.takeNonces_fuses : (s.takeNonces n).fuses = s.fuses := rfl
@[simp] theorem State.takeNonces_stored : (s.takeNonces n).stored = s.stored := rfl
@[simp] theorem State.takeNonces_meas : (s.takeNonces n).meas = s.meas := rfl
@[simp] theorem State.takeNonces_chain : (s.takeNonces n).chain = s.chain := rfl
@[simp] theorem State.takeNonces_ptp : (s.takeNonces n).ptp = s.ptp := rfl
@[simp] theorem State.takeNonces_ports : (s.takeNonces n).ports = s.ports := rfl
@[simp] theorem State.takeNonces_harts : (s.takeNonces n).harts = s.harts := rfl
@[simp] theorem State.takeNonces_fwCores : (s.takeNonces n).fwCores = s.fwCores := rfl
@[simp] theorem State.takeNonces_ctrl : (s.takeNonces n).ctrl = s.ctrl := rfl
@[simp] theorem State.takeNonces_fabric : (s.takeNonces n).fabric = s.fabric := rfl
@[simp] theorem State.takeNonces_lines : (s.takeNonces n).lines = s.lines := rfl
@[simp] theorem State.takeNonces_sensors : (s.takeNonces n).sensors = s.sensors := rfl
@[simp] theorem State.takeNonces_polledAt : (s.takeNonces n).polledAt = s.polledAt := rfl
@[simp] theorem State.takeNonces_stages : (s.takeNonces n).stages = s.stages := rfl
@[simp] theorem State.takeNonces_c4 : (s.takeNonces n).c4 = s.c4 := rfl
@[simp] theorem State.takeNonces_clearedAt : (s.takeNonces n).clearedAt = s.clearedAt := rfl
@[simp] theorem State.takeNonces_ckpt : (s.takeNonces n).ckpt = s.ckpt := rfl
@[simp] theorem State.takeNonces_images : (s.takeNonces n).images = s.images := rfl
@[simp] theorem State.takeNonces_errLog : (s.takeNonces n).errLog = s.errLog := rfl
@[simp] theorem State.takeNonces_blackBox : (s.takeNonces n).blackBox = s.blackBox := rfl
@[simp] theorem State.takeNonces_evSeq : (s.takeNonces n).evSeq = s.evSeq := rfl
@[simp] theorem State.takeNonces_frozen : (s.takeNonces n).frozen = s.frozen := rfl
@[simp] theorem State.takeNonces_inputs : (s.takeNonces n).inputs = s.inputs := rfl
@[simp] theorem State.takeNonces_sel : (s.takeNonces n).sel = s.sel := rfl
@[simp] theorem State.takeNonces_go : (s.takeNonces n).go = s.go := rfl
@[simp] theorem State.takeNonces_ext : (s.takeNonces n).ext = s.ext := rfl
@[simp] theorem State.takeNonces_env : (s.takeNonces n).env = s.env := rfl
@[simp] theorem State.takeNonces_nonce : (s.takeNonces n).nonce = s.nonce + n := rfl
@[simp] theorem State.takeNonces_pace : (s.takeNonces n).pace = s.pace := rfl
@[simp] theorem State.takeNonces_nextKey : (s.takeNonces n).nextKey = s.nextKey := rfl
@[simp] theorem State.takeNonces_outbox : (s.takeNonces n).outbox = s.outbox := rfl
end

/-! ## emit -/

section
variable (s : State) (o : Out)
@[simp] theorem State.emit_tick : (s.emit o).tick = s.tick := rfl
@[simp] theorem State.emit_mem : (s.emit o).mem = s.mem := rfl
@[simp] theorem State.emit_poison : (s.emit o).poison = s.poison := rfl
@[simp] theorem State.emit_vers : (s.emit o).vers = s.vers := rfl
@[simp] theorem State.emit_owned : (s.emit o).owned = s.owned := rfl
@[simp] theorem State.emit_tlb : (s.emit o).tlb = s.tlb := rfl
@[simp] theorem State.emit_teams : (s.emit o).teams = s.teams := rfl
@[simp] theorem State.emit_grids : (s.emit o).grids = s.grids := rfl
@[simp] theorem State.emit_ctxs : (s.emit o).ctxs = s.ctxs := rfl
@[simp] theorem State.emit_cores : (s.emit o).cores = s.cores := rfl
@[simp] theorem State.emit_clusters : (s.emit o).clusters = s.clusters := rfl
@[simp] theorem State.emit_parts : (s.emit o).parts = s.parts := rfl
@[simp] theorem State.emit_vfs : (s.emit o).vfs = s.vfs := rfl
@[simp] theorem State.emit_queues : (s.emit o).queues = s.queues := rfl
@[simp] theorem State.emit_pend : (s.emit o).pend = s.pend := rfl
@[simp] theorem State.emit_waitcs : (s.emit o).waitcs = s.waitcs := rfl
@[simp] theorem State.emit_copies : (s.emit o).copies = s.copies := rfl
@[simp] theorem State.emit_resolving : (s.emit o).resolving = s.resolving := rfl
@[simp] theorem State.emit_chans : (s.emit o).chans = s.chans := rfl
@[simp] theorem State.emit_peers : (s.emit o).peers = s.peers := rfl
@[simp] theorem State.emit_links : (s.emit o).links = s.links := rfl
@[simp] theorem State.emit_asks : (s.emit o).asks = s.asks := rfl
@[simp] theorem State.emit_stranded : (s.emit o).stranded = s.stranded := rfl
@[simp] theorem State.emit_boot : (s.emit o).boot = s.boot := rfl
@[simp] theorem State.emit_bankA : (s.emit o).bankA = s.bankA := rfl
@[simp] theorem State.emit_bankB : (s.emit o).bankB = s.bankB := rfl
@[simp] theorem State.emit_fuses : (s.emit o).fuses = s.fuses := rfl
@[simp] theorem State.emit_stored : (s.emit o).stored = s.stored := rfl
@[simp] theorem State.emit_meas : (s.emit o).meas = s.meas := rfl
@[simp] theorem State.emit_chain : (s.emit o).chain = s.chain := rfl
@[simp] theorem State.emit_ptp : (s.emit o).ptp = s.ptp := rfl
@[simp] theorem State.emit_ports : (s.emit o).ports = s.ports := rfl
@[simp] theorem State.emit_harts : (s.emit o).harts = s.harts := rfl
@[simp] theorem State.emit_fwCores : (s.emit o).fwCores = s.fwCores := rfl
@[simp] theorem State.emit_ctrl : (s.emit o).ctrl = s.ctrl := rfl
@[simp] theorem State.emit_fabric : (s.emit o).fabric = s.fabric := rfl
@[simp] theorem State.emit_lines : (s.emit o).lines = s.lines := rfl
@[simp] theorem State.emit_sensors : (s.emit o).sensors = s.sensors := rfl
@[simp] theorem State.emit_polledAt : (s.emit o).polledAt = s.polledAt := rfl
@[simp] theorem State.emit_stages : (s.emit o).stages = s.stages := rfl
@[simp] theorem State.emit_c4 : (s.emit o).c4 = s.c4 := rfl
@[simp] theorem State.emit_clearedAt : (s.emit o).clearedAt = s.clearedAt := rfl
@[simp] theorem State.emit_ckpt : (s.emit o).ckpt = s.ckpt := rfl
@[simp] theorem State.emit_images : (s.emit o).images = s.images := rfl
@[simp] theorem State.emit_errLog : (s.emit o).errLog = s.errLog := rfl
@[simp] theorem State.emit_blackBox : (s.emit o).blackBox = s.blackBox := rfl
@[simp] theorem State.emit_evSeq : (s.emit o).evSeq = s.evSeq := rfl
@[simp] theorem State.emit_frozen : (s.emit o).frozen = s.frozen := rfl
@[simp] theorem State.emit_inputs : (s.emit o).inputs = s.inputs := rfl
@[simp] theorem State.emit_sel : (s.emit o).sel = s.sel := rfl
@[simp] theorem State.emit_go : (s.emit o).go = s.go := rfl
@[simp] theorem State.emit_ext : (s.emit o).ext = s.ext := rfl
@[simp] theorem State.emit_env : (s.emit o).env = s.env := rfl
@[simp] theorem State.emit_nonce : (s.emit o).nonce = s.nonce := rfl
@[simp] theorem State.emit_pace : (s.emit o).pace = s.pace := rfl
@[simp] theorem State.emit_nextKey : (s.emit o).nextKey = s.nextKey := rfl
@[simp] theorem State.emit_outbox : (s.emit o).outbox = o :: s.outbox := rfl
end

end Sys2Proof.Machine
end

