-- ==== Sys2Proof/Laws/Lanes.lean ====
section
/-! SUPPORT. Laws of keyed lists, lanes and register files. -/
namespace Sys2Proof.Machine

/-! ## Keyed lists -/

theorem findKey_key {key : α → Nat} {n : Nat} {l : List α} {x : α} (h : findKey key n l = some x) : key x = n := by
  have := List.find?_some h
  simpa using this

theorem findKey_updKey_ne (key : α → Nat) (n m : Nat) (f : α → α) (hf : ∀ x, key (f x) = key x) (h : m ≠ n) (l : List α) :
    findKey key m (updKey key n f l) = findKey key m l := by
  unfold findKey updKey
  induction l with
  | nil => rfl
  | cons x xs ih =>
    simp only [List.map_cons, List.find?_cons]
    by_cases hx : key x = n
    · have h1 : (n == m) = false := by simpa using h.symm
      simp only [hx, if_true, hf, h1, ih]
    · simp only [hx, if_false]; cases key x == m <;> simp [ih]

theorem findKey_updKey_eq (key : α → Nat) (n : Nat) (f : α → α) (hf : ∀ x, key (f x) = key x) (l : List α) :
    findKey key n (updKey key n f l) = (findKey key n l).map f := by
  unfold findKey updKey
  induction l with
  | nil => rfl
  | cons x xs ih =>
    simp only [List.map_cons, List.find?_cons]
    by_cases hx : key x = n
    · simp [hx, hf]
    · have h : (key x == n) = false := by simpa using hx
      simp only [hx, if_false, h, ih]

theorem findKey_append (key : α → Nat) (n : Nat) (l r : List α) :
    findKey key n (l ++ r) = (findKey key n l).or (findKey key n r) := by
  unfold findKey; exact List.find?_append

theorem findKey_isSome_iff (key : α → Nat) (n : Nat) (l : List α) :
    (findKey key n l).isSome = l.any fun x => key x == n := by
  unfold findKey
  induction l with
  | nil => rfl
  | cons x xs ih => cases h : key x == n <;> simp_all

theorem findKey_updOr_eq (key : α → Nat) (n : Nat) (d : α) (f : α → α) (hf : ∀ x, key (f x) = key x) (hd : key d = n) (l : List α) :
    findKey key n (updOr key n d f l) = some (f ((findKey key n l).getD d)) := by
  unfold updOr
  rw [← findKey_isSome_iff]
  cases h : findKey key n l with
  | some x => simp only [Option.isSome_some, if_true, findKey_updKey_eq key n f hf, h]; rfl
  | none =>
    have hk : findKey key n [f d] = some (f d) := by simp [findKey, hf, hd]
    simp only [Option.isSome_none, Bool.false_eq_true, if_false, findKey_append, h, hk]; rfl

theorem findKey_updOr_ne (key : α → Nat) (n m : Nat) (d : α) (f : α → α) (hf : ∀ x, key (f x) = key x) (hd : key d = n) (h : m ≠ n)
    (l : List α) : findKey key m (updOr key n d f l) = findKey key m l := by
  unfold updOr
  split
  · exact findKey_updKey_ne key n m f hf h l
  · rw [findKey_append]
    have : findKey key m [f d] = none := by
      have : (key d == m) = false := by rw [hd]; simpa using fun e => h e.symm
      simp [findKey, hf, this]
    simp [this]

/-! ## Lanes of a warp -/

theorem mapLanes_length (ls : List Nat) (f : Nat → Lane → Lane) (n : Nat) (xs : List Lane) :
    (mapLanes ls f n xs).length = xs.length := by
  induction xs generalizing n with
  | nil => rfl
  | cons x xs ih => simp [mapLanes, ih]

theorem mapLanes_getElem? (ls : List Nat) (f : Nat → Lane → Lane) (n : Nat) (xs : List Lane) (j : Nat) :
    (mapLanes ls f n xs)[j]? = xs[j]?.map fun x => if ls.contains (n + j) then f (n + j) x else x := by
  induction xs generalizing n j with
  | nil => simp [mapLanes]
  | cons x xs ih =>
    cases j with
    | zero => simp [mapLanes]
    | succ j => simp only [mapLanes, List.getElem?_cons_succ, ih]; rw [show n + 1 + j = n + (j + 1) by omega]

theorem updLanes_length (w : Warp) (ls : List Nat) (f : Nat → Lane → Lane) :
    (w.updLanes ls f).lanes.length = w.lanes.length := mapLanes_length ..

/-- A lane of a warp after an update of several lanes. -/
theorem updLanes_lane (w : Warp) (ls : List Nat) (f : Nat → Lane → Lane) {l : Nat} (h : l < w.lanes.length) :
    (w.updLanes ls f).lane l = if ls.contains l then f l (w.lane l) else w.lane l := by
  unfold Warp.lane Warp.updLanes
  simp only [mapLanes_getElem?, Nat.zero_add]
  rw [List.getElem?_eq_getElem h]
  rfl

/-- The lanes of the warp after a plain instruction (R316, R317). -/
theorem next_lane (i : Iss) (n : Nat) (f : Nat → Lane → Lane) {l : Nat} (h : l < i.warp.lanes.length) :
    (i.next n f).lane l = laneAfter i n f l (i.warp.lane l) := by
  unfold Iss.next laneAfter
  rw [updLanes_lane _ _ _ (by rw [updLanes_length]; exact h), updLanes_lane _ _ _ h]

theorem next_length (i : Iss) (n : Nat) (f : Nat → Lane → Lane) : (i.next n f).lanes.length = i.warp.lanes.length := by
  simp [Iss.next, updLanes_length]

/-! ## Agreement but for ages -/

theorem Lane.alike_refl (a : Lane) : a.alike a := rfl
theorem Lane.alike_trans {a b c : Lane} (h : a.alike b) (k : b.alike c) : a.alike c := Eq.trans h k
theorem Lane.alike_books (a : Lane) (n : Nat) (m : Bool) : Lane.alike { a with age := n, mid := m } a := rfl

theorem ageLanes_spec (e : List Nat) (n : Nat) (xs : List Lane) :
    (ageLanes e n xs).length = xs.length ∧
    ∀ j : Nat, Lane.alike ((ageLanes e n xs)[j]?.getD {}) (xs[j]?.getD {}) := by
  induction xs generalizing n with
  | nil => exact ⟨rfl, fun _ => rfl⟩
  | cons x xs ih =>
    refine ⟨by simp [ageLanes, (ih (n + 1)).1], fun j => ?_⟩
    cases j with
    | zero => simp only [ageLanes, List.getElem?_cons_zero, Option.getD_some]; (repeat' split) <;> rfl
    | succ j => simpa [ageLanes] using (ih (n + 1)).2 j

theorem joinAges_length (ls : List Lane) : (joinAges ls).length = ls.length := by simp [joinAges]

theorem joinAges_alike (ls : List Lane) (j : Nat) : Lane.alike ((joinAges ls)[j]?.getD {}) (ls[j]?.getD {}) := by
  by_cases h : j < ls.length
  · have hr : (List.range ls.length)[j]? = some j := by simp [h]
    unfold joinAges
    simp only [List.getElem?_map, hr, Option.map_some, Option.getD_some, List.getElem?_eq_getElem h]
    split <;> rfl
  · rw [List.getElem?_eq_none (by rw [joinAges_length]; omega), List.getElem?_eq_none (by omega)]
    rfl

/-- Steps that change the promotion queue alone change it alone together. -/
theorem foldl_promo (f : Warp → Nat → Warp) (h : ∀ v n, ∃ q, f v n = { v with promo := q }) (xs : List Nat) :
    ∀ w, ∃ q, xs.foldl f w = { w with promo := q } := by
  induction xs with
  | nil => exact fun w => ⟨w.promo, rfl⟩
  | cons x xs ih =>
    intro w
    obtain ⟨q, e⟩ := h w x
    obtain ⟨p, e'⟩ := ih (f w x)
    exact ⟨p, by rw [List.foldl_cons, e', e]⟩

/-- The promotion queue is all that promotion changes. -/
theorem promote_eq (w : Warp) (n : Nat) : ∃ q, w.promote n = { w with promo := q } := by
  refine foldl_promo _ (fun v i => ?_) _ w
  cases v.lanes[i]? with
  | none => exact ⟨_, rfl⟩
  | some l => dsimp only; split <;> exact ⟨_, rfl⟩

/-- A movement program's lane after an issue, up to its bookkeeping. -/
theorem endMid_alike (ls : List Lane) (j : Nat) :
    Lane.alike ((ls.map fun l => { l with mid := false })[j]?.getD {}) (ls[j]?.getD {}) := by
  rw [List.getElem?_map]
  cases ls[j]? <;> rfl

/-- What an issue moves in its warp: ages and the promotion queues. -/
theorem afterIssue_alike (w : Warp) (e : List Nat) (tr : Bool) (n : Nat) (s : List (Nat × Word × List Nat × Nat)) (k k2 : Nat)
    (d : Bool) : ({ w.afterIssue e tr n with streak := s, walk := k, walk2 := k2, dual := d } : Warp).alike w := by
  unfold Warp.afterIssue
  split
  · exact ⟨rfl, by simp, fun l _ => endMid_alike _ l⟩
  · obtain ⟨q, hq⟩ := promote_eq (Warp.rejoin (Warp.leaveQueue
      { w with lanes := joinAges (ageLanes e 0 w.lanes), promo := headRun e tr w.promo })) n
    simp only [hq]
    refine ⟨rfl, by simp [Warp.rejoin, Warp.leaveQueue, joinAges_length, (ageLanes_spec e 0 w.lanes).1], fun l _ => ?_⟩
    exact Lane.alike_trans (joinAges_alike _ l) ((ageLanes_spec e 0 w.lanes).2 l)

/-! ## Registers (R308, R309, R330) -/

/-- A register read after a write (R330). -/
theorem reg_setReg (k : Lane) (a b : Nat) (v : Word) : (k.setReg a v).reg b = if a = b then v else k.reg b := by
  unfold Lane.setReg Lane.setCell Lane.reg Lane.cell
  simp only [sget_sset, eq_comm (a := b) (b := a)]
  split <;> rfl

/-- A cell read after a write. -/
theorem cell_setCell (k : Lane) (a b : Nat) (c : Cell) : (k.setCell a c).cell b = if a = b then c else k.cell b := by
  unfold Lane.setCell Lane.cell
  simp only [sget_sset, eq_comm (a := b) (b := a)]

end Sys2Proof.Machine
end

