-- ==== Sys2Proof/Laws/Commit.lean ====
section
/-! SUPPORT. What a commit does, once (R188, R213): the issuing warp becomes the warp given, up to the bookkeeping of
an issue, and nothing else differs; and what the tests of an instruction do when they pass. -/
namespace Sys2Proof.Machine

theorem Core.alike_refl (a : Core) : a.alike a := rfl
theorem Core.alike_trans {a b c : Core} (h : a.alike b) (k : b.alike c) : a.alike c := Eq.trans h k

/-- A core after an update of a core. -/
theorem core_updCore (s : State) (n m : Nat) (f : Core → Core) (hf : ∀ k, (f k).num = k.num) :
    (s.updCore n f).core m = if m = n then f (s.core n) else s.core m := by
  unfold State.updCore State.core
  by_cases h : m = n
  · subst h; simp only [if_true]; rw [findKey_updOr_eq Core.num m { num := m } f hf rfl]; rfl
  · simp only [h, if_false]; rw [findKey_updOr_ne Core.num n m { num := n } f hf rfl h]

/-- Entering the undo log changes nothing but the undo logs. -/
theorem pushUndo_spec (s : State) (t : Team) (u : Undo) :
    ∃ cs, pushUndo s t u = { s with cores := cs } ∧ ∀ n, (State.core { s with cores := cs } n).alike (s.core n) := by
  unfold pushUndo
  suffices h : ∀ (xs : List Nat) (cs : List Core), (∀ n, (State.core { s with cores := cs } n).alike (s.core n)) →
      ∃ ds, xs.foldl (fun s c => s.updCore c fun k => { k with undo := u :: k.undo }) { s with cores := cs } =
        { s with cores := ds } ∧ ∀ n, (State.core { s with cores := ds } n).alike (s.core n) from
    h _ s.cores fun n => Core.alike_refl _
  intro xs
  induction xs with
  | nil => exact fun cs b => ⟨cs, rfl, b⟩
  | cons x xs ih =>
    intro cs b
    refine ih _ fun n => ?_
    have h := core_updCore { s with cores := cs } x n (fun k => { k with undo := u :: k.undo }) fun _ => rfl
    show Core.alike ((State.updCore { s with cores := cs } x fun k => { k with undo := u :: k.undo }).core n) _
    rw [h]
    split
    · rename_i h; subst h; exact Core.alike_trans (b := State.core { s with cores := cs } n) rfl (b n)
    · exact b n

/-- The issue of a warp is of its team and of it. -/
theorem issueOf_parts {s : State} {t : Team} {w : Warp} {i : Iss} (h : issueOf s t w = some i) : i.team = t ∧ i.warp = w := by
  grind [issueOf]

/-- The issue names the team and the warp that the state holds under its keys. -/
theorem issue_found {s : State} {i : Iss} (h : s.issue = some i) :
    s.team? i.team.key = some i.team ∧ i.team.warpAt i.warp.id = some i.warp := by
  obtain ⟨k, n, t, w, ht, hw, h⟩ : ∃ k n t w, s.team? k = some t ∧ t.warpAt n = some w ∧ issueOf s t w = some i := by
    grind [State.issue]
  obtain ⟨e, e'⟩ := issueOf_parts h
  rw [e, e']
  exact ⟨findKey_key ht ▸ ht, findKey_key hw ▸ hw⟩

/-- The warp of a commit, with the bookkeeping of its issue (R108, R188). -/
def Warp.issued (w : Warp) (s : State) (i : Iss) (tr : Bool) : Warp :=
  { w.afterIssue i.entry tr (fairnOf s i.core) with
    streak := w.streak.filter fun k => !(k.2.2.1.any i.entry.contains), walk := w.walk - 1, walk2 := w.walk2 - 1, dual := false }

theorem issued_alike (w : Warp) (s : State) (i : Iss) (tr : Bool) : (w.issued s i tr).alike w := afterIssue_alike ..

/-- The warp after a commit, exactly. -/
theorem commit_spec (s : State) (i : Iss) (w : Warp) (tr : Bool) (sc : List (Nat × Byte)) (ti : List (Nat × Word))
    (ht : s.team? i.team.key = some i.team) (hw : i.team.warpAt i.warp.id = some i.warp) (hid : w.id = i.warp.id) :
    onlyWarp s (commit s i w tr sc ti) i ∧
    (commit s i w tr sc ti).warpOf i =
      some (w.issued s i tr) := by
  have hid' : (w.issued s i tr).id = i.warp.id := by
    rw [← hid]
    show ((w.issued s i tr).withBooks w).id = w.id
    rw [(issued_alike w s i tr).1]
  obtain ⟨cs, p1, p2⟩ := pushUndo_spec s i.team (undoOf s i.team sc ti)
  unfold commit
  change onlyWarp s (State.updTeam (pushUndo s i.team (undoOf s i.team sc ti)) i.team.key fun t =>
    { t.updWarp i.warp.id (fun _ => w.issued s i tr) with lastCommit := s.tick }) i ∧ State.warpOf (State.updTeam
      (pushUndo s i.team (undoOf s i.team sc ti)) i.team.key fun t =>
        { t.updWarp i.warp.id (fun _ => w.issued s i tr) with lastCommit := s.tick }) i = some (w.issued s i tr)
  generalize hx : w.issued s i tr = x at *
  simp only [p1]
  have hf : ∀ t : Team, Team.key { t.updWarp i.warp.id (fun _ => x) with lastCommit := s.tick } = t.key := fun _ => rfl
  have hfound : ∀ k, (State.updTeam { s with cores := cs } i.team.key fun t =>
      { t.updWarp i.warp.id (fun _ => x) with lastCommit := s.tick }).team? k =
      if k = i.team.key then some { i.team.updWarp i.warp.id (fun _ => x) with lastCommit := s.tick } else s.team? k := by
    intro k
    unfold State.team? State.updTeam
    by_cases hk : k = i.team.key
    · subst hk
      have h : findKey Team.key i.team.key s.teams = some i.team := ht
      refine (findKey_updKey_eq Team.key i.team.key _ hf s.teams).trans ?_
      rw [h]; simp
    · simp only [hk, if_false]
      exact findKey_updKey_ne Team.key _ _ _ hf hk _
  have hwx : findKey Warp.id i.warp.id (updKey Warp.id i.warp.id (fun _ => x) i.team.warps) = some x ∧
      ∀ v, v ≠ i.warp.id → findKey Warp.id v (updKey Warp.id i.warp.id (fun _ => x) i.team.warps) = findKey Warp.id v i.team.warps := by
    have hw' : findKey Warp.id i.warp.id i.team.warps = some i.warp := hw
    have hc : updKey Warp.id i.warp.id (fun _ => x) i.team.warps =
        updKey Warp.id i.warp.id (fun z => if z.id = i.warp.id then x else z) i.team.warps := by
      unfold updKey; apply List.map_congr_left; intro z _; split <;> simp_all
    have hf : ∀ z : Warp, Warp.id (if z.id = i.warp.id then x else z) = z.id := by
      intro z; split <;> simp_all
    refine ⟨?_, fun v hv => ?_⟩
    · rw [hc, findKey_updKey_eq _ _ _ hf, hw']; simp
    · rw [hc]; exact findKey_updKey_ne _ _ _ _ hf hv _
  refine ⟨⟨?_, ?_, ?_, ?_⟩, ?_⟩
  · rfl
  · intro n; exact p2 n
  · intro k hk; rw [hfound, if_neg hk]
  · exact ⟨{ i.team.updWarp i.warp.id (fun _ => x) with lastCommit := s.tick }, by rw [hfound, if_pos rfl], rfl, hwx.2⟩
  · unfold State.warpOf
    rw [hfound, if_pos rfl]
    exact hwx.1

theorem commit_committed (s : State) (i : Iss) (w : Warp) (tr : Bool) (sc : List (Nat × Byte)) (ti : List (Nat × Word))
    (hi : s.issue = some i) (hid : w.id = i.warp.id) : committed s (commit s i w tr sc ti) i w := by
  obtain ⟨ht, hw⟩ := issue_found hi
  obtain ⟨a, b⟩ := commit_spec s i w tr sc ti ht hw hid
  exact ⟨a, _, b, issued_alike ..⟩

/-- A commit of a warp that differs from the issuing one in its lanes only. -/
theorem commit_lanesBecome (s : State) (i : Iss) (w : Warp) (g : Nat → Lane → Lane) (tr : Bool) (sc : List (Nat × Byte))
    (ti : List (Nat × Word)) (hi : s.issue = some i) (hw : { w with lanes := i.warp.lanes } = i.warp)
    (hl : w.lanes.length = i.warp.lanes.length) (h : ∀ l, l < i.warp.lanes.length → w.lane l = g l (i.warp.lane l)) :
    lanesBecome s (commit s i w tr sc ti) i g := by
  have hid : w.id = i.warp.id := by rw [← hw]
  obtain ⟨a, x, hx, e, hxl, hxa⟩ := commit_committed s i w tr sc ti hi hid
  refine ⟨a, x, hx, ?_, hxl.trans hl, fun l k => ?_⟩
  · rw [← hw]
    exact (congrArg (fun v => Warp.withBooks v { w with lanes := i.warp.lanes }) e : _)
  · have := hxa l (by omega)
    rwa [h l k] at this

/-- A plain commit moves the lanes and nothing else. -/
theorem commit_moved (s : State) (i : Iss) (f : Nat → Lane → Lane) (tr : Bool) (sc : List (Nat × Byte)) (ti : List (Nat × Word))
    (hi : s.issue = some i) : moved s (commit s i (i.next s.len f) tr sc ti) i f :=
  commit_lanesBecome s i _ _ tr sc ti hi rfl (next_length ..) fun _ h => next_lane _ _ _ h

/-! ## When the tests pass -/

theorem checked_ready {s : State} {ins : Instr} {e : Bool} {us : List Use} {i : Iss} (h : readyFor s ins e us i)
    (body : State → Iss → Verdict State) : checked s i ins e us body = settle s i ins (body s i) := by
  obtain ⟨_, hu, ha, hr, hb, hd, ho, hf⟩ := h
  unfold checked
  simp only [hu, ha, hr, hb, hd, ho, hf, Bool.false_eq_true, if_false, Bool.not_true, Bool.or_self]
  unfold settleRanked
  cases body s i <;> rfl

theorem runWith_ready {s : State} {ins : Instr} {e : Bool} {us : List Use} {i : Iss} (h : readyFor s ins e us i)
    (body : State → Iss → Verdict State) : runWith s ins e us body = .next (settle s i ins (body s i)) := by
  unfold runWith
  rw [h.1]
  exact congrArg _ (checked_ready h body)

/-- A plain instruction completes when its tests pass. -/
theorem runLanes_ready {s : State} {ins : Instr} {e : Bool} {us : List Use} {i : Iss} (h : readyFor s ins e us i)
    (f : State → Iss → Nat → Lane → Lane) : ∃ t, runLanes s ins e us f = .next t ∧ moved s t i (f s i) :=
  ⟨_, runWith_ready h _, commit_moved s i (f s i) false [] [] h.1⟩

end Sys2Proof.Machine
end

