-- ==== Sys2Proof/Tests/Slice0.lean ====
section
/-! SUPPORT. Tests of the model: ill-formed terms that WellFormed refuses, words written out from the spec's
encodings, a witness for the hypotheses of each statement of Certificates/Slice0/Obligations.lean, and the spec's own
examples. Expected results come from the spec; a witness shows states that meet the hypotheses together. -/
section
set_option Elab.async false

namespace Sys2Proof

/-! ## Ill-formed terms are refused (R314, R317, R321, R392) -/

/-- R314: mask 12 does not exist. -/
theorem test_illformed_mask :
    (Instr.mjoin ⟨12, false⟩).wellFormed = false ∧ (Instr.mleave ⟨13, false⟩).wellFormed = false ∧
    (Instr.mwait ⟨14, false⟩).wellFormed = false ∧ (Instr.mact ⟨15, false⟩).wellFormed = false ∧
    (Instr.mld ⟨1, 12, false⟩).wellFormed = false ∧ (Instr.mst ⟨1, 12, false⟩).wellFormed = false ∧
    (Instr.elect ⟨1, 12, false⟩).wellFormed = false ∧ (Instr.qswp ⟨.vertical, 1, 2, 12, false⟩).wellFormed = false ∧
    (Instr.qbc ⟨0, 1, 2, 12, false⟩).wellFormed = false ∧ (Instr.wshfl ⟨1, 2, 12, false⟩).wellFormed = false ∧
    (Instr.wvote ⟨.any, 1, 2, 12, false⟩).wellFormed = false ∧ (Instr.wred ⟨.iadd, 1, 2, 12, false⟩).wellFormed = false ∧
    (Instr.wscan ⟨.iadd, 1, 2, 12, false⟩).wellFormed = false ∧ (Instr.mjoin ⟨11, false⟩).wellFormed = true := by decide

/-- R321: a store has no sign-extended size. -/
theorem test_illformed_store_size :
    (Instr.st ⟨1, 2, .s8, .rlx, .core, false, .def_⟩).wellFormed = false ∧
    (Instr.sts ⟨1, 2, .s16, .rlx, .core, false⟩).wellFormed = false ∧
    (Instr.stl ⟨1, 2, .s8, .rlx, .core, false⟩).wellFormed = false ∧
    (Instr.st ⟨1, 2, .b8, .rlx, .core, false, .def_⟩).wellFormed = true := by decide

/-- R392: FADD has no 64-bit form; RED has neither XCHG nor CAS. -/
theorem test_illformed_atomic :
    (Instr.atom ⟨1, 2, .fadd, .rlx, .core, true, false⟩).wellFormed = false ∧
    (Instr.atoms ⟨1, 2, .fadd, .rlx, .core, true, false⟩).wellFormed = false ∧
    (Instr.red ⟨1, 2, .fadd, .rlx, .core, true, false⟩).wellFormed = false ∧
    (Instr.red ⟨1, 2, .xchg, .rlx, .core, false, false⟩).wellFormed = false ∧
    (Instr.red ⟨1, 2, .cas, .rlx, .core, false, false⟩).wellFormed = false ∧
    (Instr.atom ⟨1, 2, .cas, .rlx, .core, true, false⟩).wellFormed = true := by decide

/-- R317: a pattern bit at or above LEN is forbidden. -/
theorem test_illformed_pattern :
    (Instr.pblk ⟨2, true, 2, 8⟩).wellFormed = false ∧ (Instr.pblk ⟨2, true, 2, 7⟩).wellFormed = true := by decide

/-! ## Words written out from the encoding tables and examples of the spec -/

/-- R317, R316, R339, R341, R452, R453: control. -/
theorem test_decode_control :
    decodeTableWord 32 0x00000000 = some .nop ∧
    decodeTableWord 32 0x01540A00 = some (.pblk ⟨2, true, 2, 5⟩) ∧
    decodeTableWord 32 0x02048D15 = some (.imx ⟨0x048D15⟩) ∧
    decodeTableWord 32 0x0601FC06 = some (.jmpi ⟨127, 6⟩) ∧
    decodeTableWord 32 0x0D000001 = some (.trap ⟨1⟩) ∧
    decodeTableWord 32 0x0E000000 = some .rft := by decide

/-- R347, R354, R356, R357: integers. -/
theorem test_decode_integer :
    decodeTableWord 32 0x100A1010 = some (.iadd ⟨5, 4, 2, false, false, false⟩) ∧
    decodeTableWord 32 0x37240C10 = some (.isetp ⟨1, .lt, 3, 2, false, false, false⟩) ∧
    decodeTableWord 32 0x3A0C0278 = some (.movi ⟨6, 0x278⟩) ∧
    decodeTableWord 32 0x3B0A17FF = some (.iaddi ⟨5, 5, 0x3FF⟩) ∧
    decodeTableWord 32 0x3F080C02 = some (.shi ⟨4, 3, .shl, 2⟩) ∧
    decodeTableWord 32 0x3F080C5F = some (.shi ⟨4, 3, .sar, 31⟩) := by decide

/-- R361, R366, R367, R371, R373 to R376: floats and conversions. -/
theorem test_decode_float :
    decodeTableWord 32 0x43080012 = some (.ffma ⟨4, 0, 2, false, true, false⟩) ∧
    decodeTableWord 32 0x4C0E1810 = some (.frnd ⟨7, 6, .rdn, false, false⟩) ∧
    decodeTableWord 32 0x4A501838 = some (.fsetp ⟨2, .ltn, 6, 7, false, false, false⟩) ∧
    decodeTableWord 32 0x800A1028 = some (.i2f ⟨5, 4, false, true, .rtz, false, false⟩) ∧
    decodeTableWord 32 0x82060900 = some (.f2f ⟨3, 2, .f16, .f32, .rne, false, false⟩) ∧
    decodeTableWord 32 0x832A7818 = some (.scl ⟨21, 30, 3, false, false⟩) ∧
    decodeTableWord 32 0x8A2024A3 = some (.cvtw4 ⟨2, 16, 9, 20, 3⟩) ∧
    decodeTableWord 32 0x911230A3 = some (.cvtn4 ⟨.sat, 1, 9, 12, 20, 3⟩) := by decide

/-- R378, R383, R384, R386, R388 to R390, R395: memory and atomics. -/
theorem test_decode_memory :
    decodeTableWord 32 0xA01012B0 = some (.ld ⟨8, 4, .b64, .acq, .device, false, .def_⟩) ∧
    decodeTableWord 32 0xA10C1250 = some (.st ⟨6, 4, .b32, .rel, .device, false, .def_⟩) ∧
    decodeTableWord 32 0xA2060A00 = some (.lds ⟨3, 2, .b32, .rlx, .core, false⟩) ∧
    decodeTableWord 32 0xA6040200 = some (.ldp ⟨2, 0, .b32, false⟩) ∧
    decodeTableWord 32 0xA8401800 = some (.spres ⟨2, 6, false, false⟩) ∧
    decodeTableWord 32 0xA9000070 = some (.fence ⟨.acqrel, .device⟩) ∧
    decodeTableWord 32 0xAA001000 = some (.cctlClean ⟨4, .core, .def_⟩) ∧
    decodeTableWord 32 0xB00C1038 = some (.atom ⟨6, 4, .add, .acqrel, .device, false, false⟩) ∧
    decodeTableWord 32 0xB0101282 = some (.atom ⟨8, 4, .cas, .rlx, .core, true, false⟩) := by decide

/-- R398 to R402, R406 to R415: hypotheses, masks, collectives, predicates. -/
theorem test_decode_mask :
    decodeTableWord 32 0xB8140000 = some (.hopen ⟨10, 0, false, false⟩) ∧
    decodeTableWord 32 0xB9002800 = some (.hset ⟨10, false, false⟩) ∧
    decodeTableWord 32 0xBA1E0000 = some (.hget ⟨15, false⟩) ∧
    decodeTableWord 32 0xBC182800 = some (.href ⟨12, 10, false, false⟩) ∧
    decodeTableWord 32 0xBD1C2C00 = some (.hstat ⟨14, 11, false, false⟩) ∧
    decodeTableWord 32 0xD0000080 = some (.mjoin ⟨2, false⟩) ∧
    decodeTableWord 32 0xD2000080 = some (.mwait ⟨2, false⟩) ∧
    decodeTableWord 32 0xD60E1800 = some (.qswp ⟨.horizontal, 7, 6, 0, false⟩) ∧
    decodeTableWord 32 0xD9080C00 = some (.wshfl ⟨4, 3, 0, false⟩) ∧
    decodeTableWord 32 0xDB0C14B0 = some (.wred ⟨.fadd, 6, 5, 2, false⟩) ∧
    decodeTableWord 32 0xC9060000 = some (.elect ⟨3, 0, false⟩) ∧
    decodeTableWord 32 0xDD654000 = some (.pset ⟨3, 1, 2, 8⟩) := by decide

/-- R416, R421, R422, R425: barriers, stage rings, handles. -/
theorem test_decode_sync :
    decodeTableWord 32 0xC0000003 = some (.bar ⟨3⟩) ∧
    decodeTableWord 32 0xC1000005 = some (.bara ⟨5⟩) ∧
    decodeTableWord 32 0xC3280818 = some (.waitc ⟨20, 2, 3, false, false, false⟩) ∧
    decodeTableWord 32 0xC400004D = some (.stgwImm ⟨true, 3, 1⟩) ∧
    decodeTableWord 32 0xC500000D = some (.stgaImm ⟨3, 1⟩) ∧
    decodeTableWord 32 0xC4002201 = some (.stgwReg ⟨8, 1⟩) ∧
    decodeTableWord 32 0xC6203000 = some (.ftest ⟨1, 12, false, false⟩) ∧
    decodeTableWord 32 0xC7003800 = some (.fcan ⟨14, false, false⟩) ∧
    decodeTableWord 32 0xC81A3000 = some (.fwait ⟨13, 12, false, false⟩) ∧
    decodeTableWord 32 0xCC1C3000 = some (.fid ⟨14, 12, false, false⟩) := by decide

/-- R426, R435 to R448: matrix engine and movement. -/
theorem test_decode_engines :
    decodeTableWord 32 0xE0180800 = some (.mma ⟨12, 2, false, false⟩) ∧
    decodeTableWord 32 0xE2201000 = some (.tld ⟨16, 4, false, false⟩) ∧
    decodeTableWord 32 0xE4000001 = some (.tzero ⟨1⟩) ∧
    decodeTableWord 32 0xE5000002 = some (.tfree ⟨2⟩) ∧
    decodeTableWord 32 0xE8200200 = some (.cpy ⟨1, 0, 8⟩) ∧
    decodeTableWord 32 0xEA400206 = some (.cpym ⟨2, 0, 8, 6⟩) ∧
    decodeTableWord 32 0xEB404300 = some (.lxf ⟨2, 2, 12⟩) ∧
    decodeTableWord 32 0xEC004500 = some (.tkw ⟨2, 20⟩) ∧
    decodeTableWord 32 0xED010540 = some (.tkt ⟨8, 21⟩) ∧
    decodeTableWord 32 0xEC004022 = some (.tkwBar ⟨2, 2⟩) ∧
    decodeTableWord 32 0xEE000280 = some (.spclr ⟨0, 10⟩) := by decide

/-- R449, R451: special registers and clocks. -/
theorem test_decode_system :
    decodeTableWord 32 0xF0060000 = some (.srd ⟨3, 0⟩) ∧
    decodeTableWord 32 0xF1001420 = some (.swr ⟨5, 0x020⟩) ∧
    decodeTableWord 32 0xCA080000 = some (.time ⟨4⟩) ∧
    decodeTableWord 32 0xCB0C0000 = some (.clk ⟨6⟩) := by decide

/-- R318: nonzero must-be-zero bits, unassigned codes and opcodes are no instruction. -/
theorem test_decode_rejects :
    decodeTableWord 32 0x00000001 = none ∧ decodeTableWord 32 0xFF000000 = none ∧
    decodeTableWord 32 0x01541000 = none ∧ decodeTableWord 32 0xD0000300 = none ∧
    decodeTableWord 32 0xA00012B0 ≠ none ∧ decodeTableWord 32 0xA0000380 = none := by decide

theorem witness_DecodedWords : 0xFF000001 / 2 ^ 24 = 0xFF ∧ 0x00000001 / 2 ^ 24 = 0 ∧ 0x00000001 % 2 ^ 24 ≠ 0 := by decide

/-- A well-formed instruction and its word. -/
theorem witness_DecodeOfEncode : (Instr.iadd ⟨5, 4, 2, false, false, false⟩).wellFormed = true ∧
    encode (.iadd ⟨5, 4, 2, false, false, false⟩) = some 0x100A1010 := by decide

theorem witness_EncodeOfDecode : 0x100A1010 < 2 ^ 32 ∧ decode 0x100A1010 = .ok (.iadd ⟨5, 4, 2, false, false, false⟩) := ⟨by decide, rfl⟩

end Sys2Proof

namespace Sys2Proof.Machine

/-! ## Small states -/

/-- A matrix warp at word 0 of a team of its own. -/
def plain : State := State.reset.withFetchWord 32 0

/-- A movement program at word 0 of a team of its own. -/
def moving : State := State.reset.withFetchWord 32 0xE8200200

/-- The lanes of every warp changed. -/
def onLanes (f : Nat → Lane → Lane) (s : State) : State :=
  s.updTeam 0 fun t => { t with warps := t.warps.map fun (w : Warp) => { w with lanes := w.lanes.zipIdx.map fun p => f p.2 p.1 } }

/-- The warps of the team changed. -/
def onWarps (f : Warp → Warp) (s : State) : State := s.updTeam 0 fun t => { t with warps := t.warps.map f }

/-- The launch record changed. -/
def onRecord (f : LRec → LRec) (s : State) : State :=
  { s with grids := s.grids.map fun (g : Grid) => { g with record := f g.record } }

/-- A register of every lane set. -/
def withReg (r : Nat) (v : Nat → Word) : State → State := onLanes fun l k => k.setReg r (v l)

/-- The tests of `readyFor`, decided, with a further condition on the issue. -/
def readyB (s : State) (ins : Instr) (e : Bool) (us : List Use) (p : Iss → Bool) : Bool :=
  match s.issue with
  | none => false
  | some i => !undoFull s i && !i.act.isEmpty && i.roleLegal ins && !i.blockIll ins && i.declares ins &&
      (match i.operands (wordOf ins) e us with
        | .go () => true
        | _ => false) && (i.failedRead us).isNone && p i

theorem ready_of {s : State} {ins : Instr} {e : Bool} {us : List Use} {p : Iss → Bool} (h : readyB s ins e us p = true) :
    ∃ i, readyFor s ins e us i ∧ p i = true := by
  cases hi : s.issue with
  | none => simp [readyB, hi] at h
  | some i =>
    cases ho : i.operands (wordOf ins) e us <;> simp [readyB, hi, ho] at h
    exact ⟨i, ⟨hi, h.1.1.1.1.1.1, h.1.1.1.1.1.2, h.1.1.1.1.2, h.1.1.1.2, h.1.1.2, ho, h.1.2⟩, h.2⟩

/-- An instruction form that passes the tests in a state. -/
abbrev Passes (s : State) (q : Instr × Bool × List Use) : Prop := ∃ i, readyFor s q.1 q.2.1 q.2.2 i

theorem passes_of {s : State} {qs : List (Instr × Bool × List Use)}
    (h : (qs.all fun q => readyB s q.1 q.2.1 q.2.2 fun _ => true) = true) : ∀ q ∈ qs, Passes s q := fun q hq =>
  have ⟨i, hi, _⟩ := ready_of (List.all_eq_true.mp h q hq)
  ⟨i, hi⟩

theorem any_of {α : Type} {o : Option α} {p : α → Bool} (h : o.any p = true) : ∃ i, o = some i ∧ p i = true := by
  cases o with
  | none => cases h
  | some i => exact ⟨i, rfl, h⟩

/-- Some issue of the state meets a condition. -/
abbrev issues (s : State) (p : Iss → Bool) : Prop := ∃ i, s.issue = some i ∧ p i = true

theorem issues_of {s : State} {p : Iss → Bool} (h : s.issue.any p = true) : issues s p := any_of h

/-- A form, its uses with pairs where `n` says so. -/
def fr : FmtR := ⟨8, 2, 4, true, false, false⟩
def fr1 : FmtR1 := ⟨8, 2, true, false⟩
def bin : Bool × List Use := (true, [srcU 2, srcU 4, dstU 8])
def tri : Bool × List Use := (true, [srcU 2, srcU 4, rwU 8])
def tri' : Bool × List Use := (true, [rwU 8, srcU 2, srcU 4])
def un : Bool × List Use := (true, [srcU 2, dstU 8])
def pairs : Bool × List Use := (true, [srcN 2 2, srcN 4 2, dstN 8 2])
def lea : Bool × List Use := (true, [srcN 2 2, srcU 4, dstN 8 2])
def imm : Bool × List Use := (false, [srcU 2, dstU 8])

/-! ## Witnesses: the hypotheses of the statements are met -/

theorem witness_IntegerTwoSource : ∀ q ∈ [(Instr.iadd fr, bin), (.isub fr, bin), (.imul fr, bin), (.imulh fr, bin),
    (.imulhu fr, bin), (.imad fr, tri), (.min fr, bin), (.max fr, bin), (.minu fr, bin), (.maxu fr, bin), (.and fr, bin),
    (.or fr, bin), (.xor fr, bin), (.andn fr, bin), (.shl fr, bin), (.shr fr, bin), (.sar fr, bin), (.rotl fr, bin),
    (.idot4 fr, bin), (.idot4u fr, bin)], Passes plain q := passes_of (by decide +kernel)

theorem witness_IntegerDivision : ∀ q ∈ [(Instr.idiv fr, bin), (.idivu fr, bin), (.irem fr, bin), (.iremu fr, bin)],
    Passes plain q := passes_of (by decide +kernel)

theorem witness_IntegerOneSource : ∀ q ∈ [(Instr.abs fr1, un), (.popc fr1, un), (.clz fr1, un), (.brev fr1, un), (.mov fr1, un)],
    Passes plain q := passes_of (by decide +kernel)

theorem witness_IntegerOneSource_words : ∀ w ∈ [0x22080808, 0x2B080801, 0x2C080BF8, 0x2D080808, 0x39080801],
    (w / 2 ^ 24 = 0x22 ∨ w / 2 ^ 24 = 0x2B ∨ w / 2 ^ 24 = 0x2C ∨ w / 2 ^ 24 = 0x2D ∨ w / 2 ^ 24 = 0x39) ∧
      (w / 2 ^ 3 % 2 ^ 7 ≠ 0 ∨ w % 2 = 1) := by decide

theorem witness_IntegerPairs : ∀ q ∈ [(Instr.iadd64 fr, pairs), (.isub64 fr, pairs), (.imad64 fr, pairs), (.imad64u fr, pairs),
    (.leaX1 fr, lea), (.leaX2 fr, lea), (.leaX4 fr, lea), (.leaX8 fr, lea)], Passes plain q := passes_of (by decide +kernel)

theorem witness_IntegerPairs_odd : issues plain fun i => !undoFull plain i && decide (i.act ≠ []) && (3 : RegNo).toNat % 2 == 1 :=
  issues_of (by decide +kernel)

theorem witness_IntegerFields : ∀ q ∈ [(Instr.bfe fr, bin), (.bfi fr, tri), (.bpick fr, tri),
    (.isetp ⟨1, .geu, 2, 4, true, false, false⟩, (true, [srcU 2, srcU 4])), (.sel ⟨8, 2, 4, 7⟩, (false, [srcU 2, srcU 4, dstU 8]))],
    Passes plain q := passes_of (by decide +kernel)

theorem witness_IntegerImmediates : ∀ q ∈ [(Instr.movi ⟨8, 0x3FF⟩, (false, [dstU 8])), (.iaddi ⟨8, 2, 1⟩, imm), (.andi ⟨8, 2, 1⟩, imm),
    (.ori ⟨8, 2, 1⟩, imm), (.xori ⟨8, 2, 1⟩, imm), (.shi ⟨8, 2, .rotl, 31⟩, imm)],
    Passes plain q ∧ Passes { plain with ext := some 0x3FFFFF } q := fun q hq =>
  ⟨passes_of (by decide +kernel) q hq, passes_of (by decide +kernel) q hq⟩

theorem witness_FloatArithmetic : ∀ q ∈ [(Instr.fadd fr, bin), (.fsub fr, bin), (.fmul fr, bin), (.fdiv fr, bin), (.ffma fr, tri'),
    (.ffms fr, tri'), (.fnma fr, tri'), (.fmin fr, bin), (.fmax fr, bin), (.fabs fr1, un), (.fneg fr1, un), (.fclass fr1, un),
    (.frnd ⟨8, 2, .rup, true, false⟩, un)], Passes plain q := passes_of (by decide +kernel)

theorem witness_FloatSpecialFunctions : ∀ q ∈ [(Instr.fsqrt fr1, un), (.frcp fr1, un), (.frsq fr1, un), (.fex2 fr1, un),
    (.flg2 fr1, un), (.fsin fr1, un), (.fcos fr1, un), (.ftanh fr1, un)], Passes plain q := passes_of (by decide +kernel)

theorem witness_FloatComparesDoublesPacked : ∀ q ∈ [(Instr.fsetp ⟨1, .isnan, 2, 4, true, false, false⟩, (true, [srcU 2, srcU 4])),
    (.dsetp ⟨1, .eq, 2, 4, true, false, false⟩, (true, [srcN 2 2, srcN 4 2])), (.dadd fr, pairs), (.dmul fr, pairs),
    (.dfma fr, (true, [{ r := 8, n := 2, dst := true }, srcN 2 2, srcN 4 2])), (.hadd2 fr, bin), (.hmul2 fr, bin), (.hfma2 fr, tri'),
    (.badd2 fr, bin), (.bmul2 fr, bin), (.bfma2 fr, tri'), (.fdot2b fr, tri'), (.fdot2h fr, tri')], Passes plain q :=
  passes_of (by decide +kernel)

theorem witness_Conversions : ∀ q ∈ [(Instr.i2f ⟨8, 2, true, true, .rne, true, false⟩, (true, [srcN 2 2, dstU 8])),
    (.f2i ⟨8, 2, true, true, .rne, true, false⟩, (true, [srcU 2, dstN 8 2])),
    (.f2f ⟨8, 2, .f64, .f32, .rne, true, false⟩, (true, [srcN 2 1, dstN 8 2])), (.scl ⟨8, 2, 7, true, false⟩, un)], Passes plain q :=
  passes_of (by decide +kernel)

/-- Slot words of an 8-bit format whose scale stands in a register (R289). -/
def slotted : State := onRecord (fun r => { r with fslot := List.replicate 8 0x13 }) plain

theorem witness_Conversions_packed :
    (∃ i, readyFor slotted (.cvtw4 ⟨3, 8, 2, 12, 3⟩) false (srcN 2 (packRegs (i.slot 3)) :: scaleUse (i.slot 3) 12 ++ [dstN 8 4]) i) ∧
    (∃ i, readyFor slotted (.cvtn4 ⟨.trap, 1, 2, 4, 12, 3⟩) false (srcN 4 4 :: scaleUse (i.slot 3) 12 ++ [dstN 2 (packRegs (i.slot 3))]) i ∧
      i.narrowTrap ⟨.trap, 1, 2, 4, 12, 3⟩ (i.slot 3) = none) ∧
    ∃ i, readyFor (withReg 7 (fun l => if l = 31 then 0x7F7FFFFF else 0) (withReg 12 (fun _ => 0x7F7F7F7F) slotted)) (.cvtn4 ⟨.trap, 1, 2, 4, 12, 3⟩) false
        (srcN 4 4 :: scaleUse (i.slot 3) 12 ++ [dstN 2 (packRegs (i.slot 3))]) i ∧
      i.narrowTrap ⟨.trap, 1, 2, 4, 12, 3⟩ (i.slot 3) = some (31, 3) := by
  refine ⟨?_, ?_, ?_⟩
  · obtain ⟨i, h, hi⟩ := ready_of (s := slotted) (ins := .cvtw4 ⟨3, 8, 2, 12, 3⟩) (e := false)
      (us := [srcN 2 1, srcU 12, dstN 8 4]) (p := fun i => i.slot 3 == 0x13) (by decide +kernel)
    exact ⟨i, by rw [beq_iff_eq.mp hi]; exact h⟩
  · obtain ⟨i, h, hi⟩ := ready_of (s := slotted) (ins := .cvtn4 ⟨.trap, 1, 2, 4, 12, 3⟩) (e := false)
      (us := [srcN 4 4, srcU 12, dstN 2 1])
      (p := fun i => i.slot 3 == 0x13 && i.narrowTrap ⟨.trap, 1, 2, 4, 12, 3⟩ 0x13 == none) (by decide +kernel)
    simp only [Bool.and_eq_true, beq_iff_eq] at hi
    exact ⟨i, by rw [hi.1]; exact h, by rw [hi.1]; exact hi.2⟩
  · obtain ⟨i, h, hi⟩ := ready_of (s := withReg 7 (fun l => if l = 31 then 0x7F7FFFFF else 0) (withReg 12 (fun _ => 0x7F7F7F7F) slotted))
      (ins := .cvtn4 ⟨.trap, 1, 2, 4, 12, 3⟩) (e := false) (us := [srcN 4 4, srcU 12, dstN 2 1])
      (p := fun i => i.slot 3 == 0x13 && i.narrowTrap ⟨.trap, 1, 2, 4, 12, 3⟩ 0x13 == some (31, 3)) (by decide +kernel)
    simp only [Bool.and_eq_true, beq_iff_eq] at hi
    exact ⟨i, by rw [hi.1]; exact h, by rw [hi.1]; exact hi.2⟩

theorem witness_StepRunsDecodedInstruction :
    (∃ i u, plain.go = true ∧ plain.issue = some i ∧ undoFull plain i = false ∧
      i.grid.record.codeBase + 4 * i.pc.toNat < 0x01F0000000000000 ∧
      plain.translate i.team.ctx i.grid.clamped .fetch (i.grid.record.codeBase + 4 * i.pc.toNat) = .phys u ∧
      decodeTableWord 32 (leNum ((List.range 4).map fun j => codeByte i.grid (u.loc + j))) = some .nop) ∧
    (∃ i u, (State.reset.withFetchWord 32 0xFF000001).issue = some i ∧
      (State.reset.withFetchWord 32 0xFF000001).translate i.team.ctx i.grid.clamped .fetch (i.grid.record.codeBase + 4 * i.pc.toNat) = .phys u ∧
      decodeTableWord 32 (leNum ((List.range 4).map fun j => codeByte i.grid (u.loc + j))) = none) := by
  have pick {s : State} {p : Iss → Use1 → Bool} (h : (s.issue.any fun i =>
      match s.translate i.team.ctx i.grid.clamped .fetch (i.grid.record.codeBase + 4 * i.pc.toNat) with
      | .phys u => p i u
      | _ => false) = true) : ∃ i u, s.issue = some i ∧
      s.translate i.team.ctx i.grid.clamped .fetch (i.grid.record.codeBase + 4 * i.pc.toNat) = .phys u ∧ p i u = true := by
    obtain ⟨i, hi, h⟩ := issues_of h
    dsimp only at h
    split at h
    · exact ⟨i, _, hi, ‹_›, h⟩
    · cases h
  constructor
  · obtain ⟨i, u, h1, h2, h3⟩ := pick (s := plain) (p := fun i u => !undoFull plain i &&
      decide (i.grid.record.codeBase + 4 * i.pc.toNat < 0x01F0000000000000) &&
      decide (decodeTableWord 32 (leNum ((List.range 4).map fun j => codeByte i.grid (u.loc + j))) = some .nop)) (by decide +kernel)
    simp only [Bool.and_eq_true, Bool.not_eq_true', decide_eq_true_eq] at h3
    exact ⟨i, u, rfl, h1, h3.1.1, h3.1.2, h2, h3.2⟩
  · obtain ⟨i, u, h1, h2, h3⟩ := pick (s := State.reset.withFetchWord 32 0xFF000001) (p := fun i u =>
      decide (decodeTableWord 32 (leNum ((List.range 4).map fun j => codeByte i.grid (u.loc + j))) = none)) (by decide +kernel)
    exact ⟨i, u, h1, h2, of_decide_eq_true h3⟩

theorem witness_MemoryStaysCanonical : State.reset.memOk ∧ (∃ t, exec .nop State.reset = .next t) ∧ ∃ t, step State.reset = .next t :=
  ⟨rfl, ⟨_, rfl⟩, _, rfl⟩

theorem witness_RegisterFile : (0 : BitVec 3) ≠ 7 ∧ (6 : BitVec 3) ≠ 7 ∧ (0 : Nat) ≠ 127 := by decide

theorem witness_MemoryReadAfterWrite : State.reset.memOk ∧ isPeer 0 = false ∧ isPeer (2 ^ 48 - 1) = false ∧ isPeer (2 ^ 48) = true ∧
    isPeer (2 ^ 56 - 1) = true ∧ isPeer (2 ^ 56) = false := ⟨rfl, by decide⟩

theorem witness_FrontierSelection : ∃ w : Warp, w.lanes.length ≤ 32 ∧ w.promo = [] ∧ w.entry = [1] ∧ (w.lane 0).pair ≠ (w.lane 1).pair :=
  ⟨{ id := 0, role := .vector, lanes := [{ prio := 3 }, { prio := 4 }] }, by decide +kernel⟩

/-- Two instructions left of a predicate block that holds the next one back. -/
def blocked : State := onLanes (fun _ k => { k with blk := { left := 2, pat := 0, c := true } }) plain

theorem witness_InactiveInstructionPasses : issues blocked fun i => decide (i.act = []) && !undoFull blocked i :=
  issues_of (by decide +kernel)

theorem witness_IllegalForRole : (issues plain fun i => decide (i.act ≠ []) && !undoFull plain i && !i.roleLegal (.cpy ⟨1, 0, 8⟩)) ∧
    (issues (onLanes (fun _ k => { k with blk := { left := 2, pat := 1, c := true } }) plain) fun i =>
      decide (i.act ≠ []) && i.blockIll (.bra ⟨7, false, 8, 1⟩) && i.blockIll (.imx ⟨1⟩) && i.roleLegal (.bra ⟨7, false, 8, 1⟩)) ∧
    (issues (onRecord (fun r => { r with hypo := false }) plain) fun i => !i.roleLegal (.hget ⟨1, false⟩)) :=
  ⟨issues_of (by decide +kernel), issues_of (by decide +kernel), issues_of (by decide +kernel)⟩

theorem witness_RegisterTests :
    (issues plain fun i => !i.movement && decide (i.act ≠ []) && decide (i.allot = 512)) ∧
    (issues (onWarps (fun w => { w with winBase := 31 }) plain) fun i => decide (i.allot ≤ 16 * i.warp.winBase.toNat + (16 : RegNo).toNat) &&
      decide (¬ i.allot ≤ 16 * i.warp.winBase.toNat + (15 : RegNo).toNat)) ∧
    (issues (onLanes (fun l k => if l = 31 then k.setEmpty 2 (.access 5) else k) plain) fun i =>
      decide (i.act.Pairwise (· < ·)) && i.act.contains 31 &&
      decide (((i.warp.lane 31).cell (16 * i.warp.winBase.toNat + 2)).fill = .empty (.access 5)) &&
      decide (∀ j ∈ i.act, j < 31 → ((i.warp.lane j).cell 2).fill = .full) && decide ((i.failedRead [srcU 2, srcU 4, dstU 8]) = none)) ∧
    (issues (onLanes (fun l k => if l = 31 then k.setEmpty 8 (.access 5) else k) plain) fun i =>
      i.active.contains 31 && decide (∀ j ∈ i.act, ((i.warp.lane j).cell 2).fill = .full ∧ ((i.warp.lane j).cell 4).fill = .full) &&
      decide (((i.warp.lane 31).cell 8).fill = .empty (.access 5))) :=
  ⟨issues_of (by decide +kernel), issues_of (by decide +kernel), issues_of (by decide +kernel), issues_of (by decide +kernel)⟩

/-- A launch with a trap handler. -/
def handled : State := onRecord (fun r => { r with trapEntry := 100 }) plain

/-- Lanes in their handler. -/
def trapped : State := onLanes (fun _ k => { k with handler := some { prio := 3, blk := {} } }) handled

theorem witness_TrapEntry : ∀ ins ∈ [Instr.brk ⟨0x3FF⟩, .trap ⟨1⟩],
    (∃ i, readyFor handled ins false [] i ∧ (decide (i.grid.record.trapEntry ≠ 0) && (i.warp.lane i.lead).handler.isNone) = true) ∧
    (∃ i, readyFor plain ins false [] i ∧ decide (i.grid.record.trapEntry = 0) = true) ∧
    ∃ i, readyFor trapped ins false [] i ∧ (i.warp.lane i.lead).handler.isSome = true := by
  intro ins h
  simp only [List.mem_cons, List.not_mem_nil, or_false] at h
  rcases h with rfl | rfl <;>
    exact ⟨ready_of (by decide +kernel), ready_of (by decide +kernel), ready_of (by decide +kernel)⟩

theorem witness_ReturnFromTrap :
    (∃ i, readyFor trapped .rft false [] i ∧ (i.act.all fun l => (i.warp.lane l).handler.isSome) = true) ∧
    ∃ i, readyFor plain .rft false [] i ∧ decide ((i.act.find? fun l => (i.warp.lane l).handler.isNone) = some 0) = true :=
  ⟨ready_of (by decide +kernel), ready_of (by decide +kernel)⟩

theorem witness_ControlTransfers : ∀ q ∈ [(Instr.bra ⟨2, true, 5, 0xFFFF⟩, false, []), (.bra ⟨7, true, 8, 1⟩, false, []), (.jmp ⟨1⟩, false, []),
    (.jmpi ⟨2, 3⟩, false, [srcU 2]), (.calli ⟨8, 2, 3⟩, false, [srcU 2, dstU 8]), (.setprio ⟨15⟩, false, []), (.pblk ⟨2, true, 7, 255⟩, false, [])],
    Passes plain q ∧ Passes moving q := fun q hq => ⟨passes_of (by decide +kernel) q hq, passes_of (by decide +kernel) q hq⟩

theorem witness_ControlTransfers_call :
    (∃ i, readyFor plain (.call ⟨1⟩) false [dstU 127] i ∧ decide (i.warp.role ≠ .movement) = true) ∧
    ∃ i, readyFor moving (.call ⟨1⟩) false [dstU 63] i ∧ decide (i.warp.role = .movement) = true :=
  ⟨ready_of (by decide +kernel), ready_of (by decide +kernel)⟩

theorem witness_NopYieldWindow : (∀ q ∈ [(Instr.nop, false, []), (.yield, false, []), (.prf ⟨2, .def_⟩, false, [srcN 2 2])], Passes plain q) ∧
    (∃ i, readyFor plain (.winb ⟨31⟩) false [] i ∧ decide (16 * (31 : BitVec 5).toNat < i.allot) = true) ∧
    ∃ i, readyFor (onRecord (fun r => { r with regsMat := 496 }) plain) (.winb ⟨31⟩) false [] i ∧
      decide (i.allot ≤ 16 * (31 : BitVec 5).toNat) = true :=
  ⟨passes_of (by decide +kernel), ready_of (by decide +kernel), ready_of (by decide +kernel)⟩

theorem witness_ExitOfLanes : ∀ q ∈ [(Instr.exit, false, [])], Passes plain q := passes_of (by decide +kernel)

/-- Words 0 and 1 of the code. -/
def coded (a b : Nat) : State :=
  { plain with grids := plain.grids.map fun (g : Grid) => { g with code := ssetAll (0 : Byte) [] (layAt 0 (leBytes 4 a ++ leBytes 4 b)) } }

theorem witness_ExtensionByImx :
    (issues (coded 0x02000001 0x3A0C0278) fun i => ((coded 0x02000001 0x3A0C0278).fetchAt i (i.pc + 1)).any fun x =>
      decide (decodeTableWord 32 x.1 = some (.movi ⟨6, 0x278⟩)) && imxExtends (.movi ⟨6, 0x278⟩) && !i.blockIll (.imx ⟨1⟩)) ∧
    (issues (coded 0x02000001 0) fun i => ((coded 0x02000001 0).fetchAt i (i.pc + 1)).any fun x =>
      decide (decodeTableWord 32 x.1 = some .nop) && !imxExtends .nop) ∧
    (issues (coded 0x02000001 0xFF000000) fun i => ((coded 0x02000001 0xFF000000).fetchAt i (i.pc + 1)).any fun x =>
      decide (decodeTableWord 32 x.1 = none)) :=
  ⟨issues_of (by decide +kernel), issues_of (by decide +kernel), issues_of (by decide +kernel)⟩

theorem witness_FloatSpecialValues : (0x7F800001 < 2 ^ 32 ∧ 0x7F800000 < 0x7F800001 % 2 ^ 31 ∧ 0x7F800001 / 2 ^ 22 % 2 = 0) ∧
    (0x7F7FFFFF % 2 ^ 31 < 0x7F800000 ∧ 0x7F7FFFFF % 2 ^ 31 ≠ 0) ∧ ¬ 0x7F800000 < 0xFF800000 % 2 ^ 31 := by decide

theorem witness_FloatSpecialFunctions_negative : 0x80000000 < 0x80000001 ∧ 0x80000001 ≤ 0xFF800000 ∧ 0x80000000 < 0xFF800000 := by decide

theorem witness_RoundingExact : 0xFF7FFFFF < 2 ^ 32 ∧ 0xFF7FFFFF % 2 ^ 31 < 0x7F800000 ∧ 2 ^ 128 ≤ 1 * 2 ^ 128 := by decide

/-! Loads and stores -/

def ldF : FmtMem := ⟨8, 2, .b128, .acq, .device, false, .def_⟩
def ldsF : FmtMemL := ⟨8, 2, .b32, .rel, .cluster, false⟩

/-- What the completion clauses of a load ask for, beside the tests. -/
def loadOk (s : State) (n : Nat) (reach : State → Iss → Reach) (ord : MemOrd) (scp : Scope) (i : Iss) : Bool :=
  let r := reach s i
  (i.reachTrap r).isNone && (s.poisonTrap i n r).isNone && (i.act.all fun l => (r.ans l).placed) &&
  (i.active.all fun l => !(r.ans l).placed || !s.mustWait i l true (r.ans l)) &&
  (!(releases ord && scopeWide (i.scope scp)) || s.holdRoom i.core 1)

theorem witness_Loads : ∀ slow ∈ [false, true],
    (∃ i, readyFor { plain with env := { slow := slow } } (.ld ldF) false [srcN 2 2, dstN 8 4] i ∧
      loadOk { plain with env := { slow := slow } } 16 (fun s i => genericReach s i .read 2 16 .def_) .acq .device i = true) ∧
    (∃ i, readyFor { plain with env := { slow := slow } } (.lds ldsF) false [srcU 2, dstN 8 1] i ∧
      loadOk { plain with env := { slow := slow } } 4 (fun s i => scratchReach s i 2 4) .rel .cluster i = true) ∧
    ∃ i, readyFor { plain with env := { slow := slow } } (.ldl ldsF) false [srcN 2 2, dstN 8 1] i ∧
      loadOk { plain with env := { slow := slow } } 4 (fun s i => privateReach s i 2 4) .rel .cluster i = true := by
  intro slow h
  simp only [List.mem_cons, List.not_mem_nil, or_false] at h
  rcases h with rfl | rfl <;>
    exact ⟨ready_of (by decide +kernel), ready_of (by decide +kernel), ready_of (by decide +kernel)⟩

/-- Lane 31 names a misaligned address; the line at address 0 is poisoned. -/
theorem witness_Loads_traps :
    (∃ i, readyFor (withReg 2 (fun l => if l = 31 then 1 else 0) plain) (.ld ldF) false [srcN 2 2, dstN 8 4] i ∧
      decide ((i.reachTrap (genericReach (withReg 2 (fun l => if l = 31 then 1 else 0) plain) i .read 2 16 .def_)).map Trap.lane = some 31) = true) ∧
    (∃ i, readyFor { plain with poison := [0] } (.ld ldF) false [srcN 2 2, dstN 8 4] i ∧
      (({ plain with poison := [0] }).poisonTrap i 16 (genericReach { plain with poison := [0] } i .read 2 16 .def_)).isSome = true) ∧
    (∃ i, readyFor (withReg 2 (fun l => if l = 31 then 65536 else 0) plain) (.ldl ldsF) false [srcN 2 2, dstN 8 1] i ∧
      decide ((i.reachTrap (privateReach (withReg 2 (fun l => if l = 31 then 65536 else 0) plain) i 2 4)).map Trap.cause = some 4) = true) :=
  ⟨ready_of (by decide +kernel), ready_of (by decide +kernel), ready_of (by decide +kernel)⟩

/-- 8 bytes of parameters: offset 4 holds the last word, offset 8 does not exist. -/
theorem witness_Loads_parameters :
    (∃ i, readyFor (withReg 2 (fun _ => 4) (onRecord (fun r => { r with paramBytes := 8 }) plain)) (.ldp ⟨8, 2, .b32, false⟩) false [srcN 2 2, dstN 8 1] i ∧
      (i.act.all fun l => decide ((i.rd64 l 2).toNat % 2 ^ 64 % 4 = 0 ∧ (i.rd64 l 2).toNat % 2 ^ 64 + 4 ≤ i.grid.record.paramBytes)) = true) ∧
    ∃ i, readyFor (withReg 2 (fun l => if l = 31 then 8 else 4) (onRecord (fun r => { r with paramBytes := 8 }) plain)) (.ldp ⟨8, 2, .b32, false⟩) false
        [srcN 2 2, dstN 8 1] i ∧
      decide (i.act.contains 31 ∧ ¬ (i.rd64 31 2).toNat % 2 ^ 64 + 4 ≤ i.grid.record.paramBytes) = true :=
  ⟨ready_of (by decide +kernel), ready_of (by decide +kernel)⟩

/-- What the completion clause of a store or an atomic asks for, beside the tests. -/
def storeOk (s : State) (n k : Nat) (reach : State → Iss → Reach) (i : Iss) : Bool :=
  let r := reach s i
  (i.reachTrap r).isNone && (i.act.all fun l => (r.ans l).placed) && (storeFull s i r).isNone &&
  (i.act.all fun l => !s.mustWait i l false (r.ans l)) && s.holdRoom i.core k && decide (0 < n)

theorem witness_Stores :
    (∃ i, readyFor plain (.st ldF) false [srcN 2 2, srcN 8 4] i ∧
      storeOk plain 16 (storeEffects plain i 16 8 (i.relOf i.act .acq .device) (genericReach plain i .write 2 16 .def_)).length
        (fun s i => genericReach s i .write 2 16 .def_) i = true) ∧
    (∃ i, readyFor plain (.sts ldsF) false [srcU 2, srcN 8 1] i ∧
      storeOk plain 4 (storeEffects plain i 4 8 (i.relOf i.act .rel .cluster) (scratchReach plain i 2 4)).length
        (fun s i => scratchReach s i 2 4) i = true) ∧
    (∃ i, readyFor plain (.stl ldsF) false [srcN 2 2, srcN 8 1] i ∧
      storeOk plain 4 (storeEffects plain i 4 8 (i.relOf i.act .rel .cluster) (privateReach plain i 2 4)).length
        (fun s i => privateReach s i 2 4) i = true) ∧
    ∃ i, readyFor (withReg 2 (fun l => if l = 31 then 524288 else 0) plain) (.sts ldsF) false [srcU 2, srcN 8 1] i ∧
      decide ((i.reachTrap (scratchReach (withReg 2 (fun l => if l = 31 then 524288 else 0) plain) i 2 4)).map Trap.cause = some 5) = true :=
  ⟨ready_of (p := fun i => storeOk plain 16 (storeEffects plain i 16 8 (i.relOf i.act .acq .device) (genericReach plain i .write 2 16 .def_)).length
      (fun s i => genericReach s i .write 2 16 .def_) i) (by decide +kernel),
    ready_of (p := fun i => storeOk plain 4 (storeEffects plain i 4 8 (i.relOf i.act .rel .cluster) (scratchReach plain i 2 4)).length
      (fun s i => scratchReach s i 2 4) i) (by decide +kernel),
    ready_of (p := fun i => storeOk plain 4 (storeEffects plain i 4 8 (i.relOf i.act .rel .cluster) (privateReach plain i 2 4)).length
      (fun s i => privateReach s i 2 4) i) (by decide +kernel), ready_of (by decide +kernel)⟩

def atF : FmtAt := ⟨8, 2, .cas, .acqrel, .device, true, false⟩
def redF : FmtAt := ⟨8, 2, .fadd, .rlx, .core, false, false⟩

/-- A pair at an even register: high word `h`, low word `v`. -/
def withPair (r : Nat) (h : Word) (v : Nat → Word) (s : State) : State := withReg (r + 1) (fun _ => h) (withReg r v s)

theorem witness_AddressTestsAndQueries_limits :
    (2 ^ 57 / 2 ^ 57 ≠ 0) ∧ (0x80000 - 1 < 0x80000) ∧ (0x7FFFC % 4 = 0 ∧ ¬ placeRecord.scratchBytes < 0x7FFFC + 4) ∧
    (¬ placeRecord.privateBytes < 1020 + 4 ∧ placeRecord.privateBytes < 1021 + 4) ∧ 0x3FFFFF < 2 ^ 22 := by decide

theorem witness_AddressTestsAndQueries :
    (∀ q ∈ [(Instr.ispace fr1, true, [srcN 2 2, dstU 8]), (.gpriv fr1, true, [srcN 2 2, dstN 8 2]), (.spres ⟨3, 2, true, false⟩, true, [srcU 2]),
      (.fence ⟨.rlx, .system⟩, false, []), (.cctlClean ⟨2, .core, .def_⟩, false, [srcN 2 2]), (.cctlInval ⟨2, .core, .def_⟩, false, [srcN 2 2]),
      (.cctlCleanAll ⟨.core, .def_⟩, false, [])], Passes plain q) ∧
    (∃ i, readyFor plain (.fence ⟨.acqrel, .device⟩) false [] i ∧ (decide (i.scope .device ≠ .core) && plain.holdRoom i.core 1) = true) ∧
    (∃ i, readyFor (withPair 2 0x01F80000 (fun l => if l = 31 then 1024 else 1023) plain) (.gpriv fr1) true [srcN 2 2, dstN 8 2] i ∧
      decide ((i.rd64 31 2).toNat - 0x01F8000000000000 = i.grid.record.privateBytes ∧ 0x01F8000000000000 ≤ (i.rd64 0 2).toNat ∧
        (i.rd64 0 2).toNat - 0x01F8000000000000 < i.grid.record.privateBytes) = true) ∧
    ∃ i, readyFor (withReg 2 (fun l => if l = 31 then 524288 else 524287) plain) (.spres ⟨3, 2, true, false⟩) true [srcU 2] i ∧
      (decide ((withReg 2 (fun l => if l = 31 then 524288 else 524287) plain).scratchAt i 1 (i.rd 31 2).toNat = .trap 5) &&
        decide ((withReg 2 (fun l => if l = 31 then 524288 else 524287) plain).scratchAt i 1 (i.rd 0 2).toNat = .own 524287)) = true :=
  ⟨passes_of (by decide +kernel), ready_of (by decide +kernel), ready_of (by decide +kernel), ready_of (by decide +kernel)⟩

theorem witness_Atomics :
    (∃ i, readyFor plain (.atom atF) false [srcN 2 2, atUse atF true] i ∧
      storeOk plain 8 1 (fun s i => genericReach s i .atomic 2 8 .def_) i = true) ∧
    (∃ i, readyFor plain (.red redF) false [srcN 2 2, atUse redF false] i ∧
      storeOk plain 4 1 (fun s i => genericReach s i .atomic 2 4 .def_) i = true) ∧
    (∃ i, readyFor plain (.atoms redF) false [srcU 2, atUse redF true] i ∧
      storeOk plain 4 0 (fun s i => scratchReach s i 2 4) i = true) ∧
    ∃ i, readyFor (withReg 2 (fun _ => 2) plain) (.atoms redF) false [srcU 2, atUse redF true] i ∧
      decide ((i.reachTrap (scratchReach (withReg 2 (fun _ => 2) plain) i 2 4)).map Trap.cause = some 2) = true :=
  ⟨ready_of (by decide +kernel), ready_of (by decide +kernel), ready_of (by decide +kernel), ready_of (by decide +kernel)⟩

theorem witness_Atomics_parts : ∀ p ∈ [({ lane := 0, loc := 2 ^ 48 - 8, x := 1, cmp := 0, tag := 0, drop := false } : AtomLane),
    { lane := 1, loc := 2 ^ 48 - 8, x := 1, cmp := 0, tag := 0, drop := false }],
    p.tag = 0 ∧ p.drop = false ∧ p.loc = 2 ^ 48 - 8 ∧ 2 ^ 48 - 8 < 2 ^ 48 ∧ 2 ^ 48 - 8 + 8 ≤ 2 ^ 48 := by decide

theorem witness_StoreVisibility :
    let k : Core := { num := 0, dirty := [{ ctx := 1, tag := 0, loc := 5, val := 7, tick := 0 }, { ctx := 1, tag := 9, loc := 5, val := 8, tick := 0 }] }
    let s : State := { State.reset with cores := [k] }
    (s.core 0).dirty ≠ [] ∧ (∀ k ∈ s.cores, k.num ≠ 0 → k.dirty = []) ∧ (∀ d ∈ (s.core 0).dirty, isPeer d.loc = false) ∧
    (s.core 0).dirty.Pairwise (fun d e => d.loc ≠ e.loc ∨ sameTag d.ctx d.tag e.ctx e.tag = false) := by decide

/-- A context with an open node 5 of depth 15 at the end of a chain, a free pool, and a refuted node 7. -/
def treed : State := plain.updCtx 1 fun c => { c with nodes := [
  { id := 5, st := .open_, parent := 0, depth := 1, atDir := true, core := 0 }, { id := 7, st := .refuted, parent := 0, depth := 1, atDir := true, core := 0 },
  { id := 9, st := .open_, parent := 5, depth := 15, atDir := true, core := 0 }] }

theorem witness_Hypotheses :
    (∀ q ∈ [(Instr.hopen fr1, un), (.hconf fr1, un), (.href fr1, un), (.hstat fr1, un), (.hget ⟨8, true⟩, true, [dstU 8])], Passes treed q) ∧
    (∃ i, readyFor (withReg 2 (fun _ => 5) treed) (.hset ⟨2, true, false⟩) true [srcU 2] i ∧
      decide ((treed.ctx i.team.ctx).stateOf 5 = .open_) = true) ∧
    (∃ i, readyFor (withReg 2 (fun l => if l = 31 then 7 else 5) treed) (.hset ⟨2, true, false⟩) true [srcU 2] i ∧
      decide ((treed.ctx i.team.ctx).stateOf (i.rd 31 2 |>.toNat) = .refuted) = true) ∧
    ((treed.ctx 1).seenBy 0).stateOf 255 = .free ∧ ((treed.ctx 1).seenBy 0).stateOf 9 = .open_ ∧ (treed.ctx 1).depthOf 9 = 15 ∧
    (treed.ctx 1).depthOf 5 ≠ 15 ∧ (treed.ctx 1).pool ≠ [] ∧ (treed.ctx 1).idsOf 0 = [] ∧
    (let c : Ctx := { treed.ctx 1 with reserved := (List.range 256).map (Prod.mk 1) };
      c.idsOf 0 = [] ∧ c.pool = [] ∧ c.reserved ≠ [] ∧ c.idsOf 1 ≠ []) ∧
    (let c : Ctx := { treed.ctx 1 with nodes := (List.range 256).map fun h => { id := h, st := .open_, parent := 0, depth := 1, atDir := true, core := 0 } };
      c.idsOf 0 = [] ∧ c.pool = [] ∧ c.reserved = []) ∧ plain.holdRoom 0 32 = true :=
  ⟨passes_of (by decide +kernel), ready_of (by decide +kernel), ready_of (by decide +kernel), by decide +kernel⟩

/-- The barriers that `p` names are quiet, and no lane waits on one of them. -/
def barsB (i : Iss) (p : Nat → Bool) : Bool :=
  (i.team.barriers.zipIdx.all fun x => !p x.2 ||
    (x.1.counted.isEmpty && x.1.partials.isEmpty && x.1.firstWait.isNone && x.1.paused == 0)) &&
  i.team.warps.all fun w => w.lanes.all fun k => (List.range 16).all fun c => !p c || !k.waitsOn c

theorem bars_of {i : Iss} {p : Nat → Bool} (h : barsB i p = true) : ∀ c, c < 16 → p c = true → i.team.quietAt c := by
  intro c hc hp
  simp only [barsB, Bool.and_eq_true, List.all_eq_true, Bool.or_eq_true, Bool.not_eq_true', List.isEmpty_iff, beq_iff_eq,
    Option.isNone_iff_eq_none, List.mem_range] at h
  have hw : ∀ w ∈ i.team.warps, ∀ k ∈ w.lanes, k.waitsOn c = false := fun w mw k mk =>
    (h.2 w mw k mk c hc).resolve_left (by simp [hp])
  cases hx : i.team.barriers[c]? with
  | none => simpa [Team.quietAt, Team.bar, hx] using hw
  | some x =>
    have q := (h.1 (x, c) (List.mem_zipIdx_iff_getElem?.mpr hx)).resolve_left (by simp [hp])
    have e : i.team.bar c = x := by simp [Team.bar, hx]
    rw [Team.quietAt, e]
    exact ⟨q.1.1.1, q.1.1.2, q.1.2, q.2, hw⟩

/-- Every barrier is quiet, and there are 16. -/
def calmB (i : Iss) : Bool := barsB i (fun _ => true) && i.team.barriers.length == 16 &&
  i.team.warps.all fun w => w.lanes.all fun k => match k.wait with
    | .bar _ _ => false
    | .barPart _ => false
    | .barHeld _ => false
    | _ => true

theorem quiet_of {i : Iss} (h : calmB i = true) : i.team.barsQuiet := by
  intro c
  simp only [calmB, Bool.and_eq_true, beq_iff_eq, List.all_eq_true] at h
  by_cases hc : c < 16
  · exact bars_of h.1.1 c hc rfl
  · have hx : i.team.barriers[c]? = none := by simp [h.1.2]; omega
    have hw : ∀ w ∈ i.team.warps, ∀ k ∈ w.lanes, k.waitsOn c = false := fun w mw k mk => by
      have := h.2 w mw k mk
      unfold Lane.waitsOn
      split <;> simp_all
    simpa [Team.quietAt, Team.bar, hx] using hw

/-- Mask 2 names the lanes of quad 0, mask 3 every lane and mask 4 none. -/
def masked : State := onWarps (fun w => { w with masks := [0xFFFFFFFF, 0, 0xF, 0xFFFFFFFF, 0, 0, 0, 0, 0, 0, 0, 0] }) plain

/-- Lanes 16 to 31 stand elsewhere. -/
def halved : State := onLanes (fun l k => if l < 16 then k else { k with pc := 9 }) masked

/-- Lanes 16 to 31 wait at a round of MWAIT on mask 3. -/
def inRound : State := onLanes (fun l k => if l < 16 then k else { k with wait := .mwait 3 })
  (onWarps (fun w => { w with mwait := updAt w.mwait 3 fun _ => 0xFFFF0000 }) masked)

/-- What the statements on masks ask for, at mask `m`. -/
def maskB (m : Nat) (i : Iss) : Bool :=
  calmB i && i.warp.colls.isEmpty && ((List.range 12).all fun n => n == m || i.warp.arrived n == 0) &&
  decide (m < i.warp.masks.length) && decide (m < i.warp.mwait.length)

theorem masked_of {m : Nat} {i : Iss} (h : maskB m i = true) : i.warp.colls = [] ∧ i.team.barsQuiet ∧
    i.warp.roundsOpen i.warp.mask (fun n => n ≠ m) ∧ m < i.warp.masks.length ∧ m < i.warp.mwait.length := by
  simp only [maskB, Bool.and_eq_true, decide_eq_true_eq, List.isEmpty_iff, List.all_eq_true, List.mem_range, Bool.or_eq_true, beq_iff_eq] at h
  exact ⟨h.1.1.1.2, quiet_of h.1.1.1.1, fun n hn hm => .inl ((h.1.1.2 n hn).resolve_left hm), h.1.2, h.2⟩

theorem witness_Masks : ∀ q ∈ [(Instr.mjoin ⟨3, false⟩, false, []), (.mleave ⟨3, false⟩, false, []), (.mact ⟨3, false⟩, false, []),
    (.mst ⟨3, 3, false⟩, false, [srcU 3]), (.mwait ⟨3, false⟩, false, [])],
    (∃ i, readyFor masked q.1 q.2.1 q.2.2 i ∧ i.warp.colls = [] ∧ i.team.barsQuiet ∧ i.warp.roundsOpen i.warp.mask (fun n => n ≠ 3) ∧
      3 < i.warp.masks.length ∧ 3 < i.warp.mwait.length) ∧
    ∃ i, readyFor inRound q.1 q.2.1 q.2.2 i ∧ i.warp.colls = [] ∧ i.team.barsQuiet ∧ i.warp.roundsOpen i.warp.mask (fun n => n ≠ 3) ∧
      3 < i.warp.masks.length ∧ 3 < i.warp.mwait.length := by
  intro q h
  simp only [List.mem_cons, List.not_mem_nil, or_false] at h
  rcases h with rfl | rfl | rfl | rfl | rfl <;>
    exact ⟨have ⟨i, h, c⟩ := ready_of (p := maskB 3) (by decide +kernel); ⟨i, h, masked_of c⟩,
      have ⟨i, h, c⟩ := ready_of (p := maskB 3) (by decide +kernel); ⟨i, h, masked_of c⟩⟩

theorem witness_Masks_read : Passes masked (.mld ⟨8, 2, false⟩, false, [dstU 8]) ∧
    (issues inRound fun i => decide (i.warp.arrived 3 ≠ 0 ∧ (i.warp.mask 3 &&& ~~~maskOf i.act) &&& ~~~i.warp.arrived 3 = 0)) :=
  ⟨passes_of (qs := [(.mld ⟨8, 2, false⟩, false, [dstU 8])]) (by decide +kernel) _ (by simp), issues_of (by decide +kernel)⟩

/-- MWAIT completes on a mask all of whose lanes arrive, waits where one is missing, and passes where no lane is a member. -/
theorem witness_Masks_mwait :
    (issues masked fun i => decide ((i.warp.arrived 2 ||| maskOf (i.act.filter fun l => (i.warp.mask 2).getLsbD l)) = 0xF ∧ i.warp.mask 2 = 0xF)) ∧
    (issues halved fun i => decide (i.warp.mask 3 &&& ~~~(i.warp.arrived 3 ||| maskOf (i.act.filter fun l => (i.warp.mask 3).getLsbD l)) ≠ 0)) ∧
    issues masked fun i => decide ((i.warp.arrived 4 ||| maskOf (i.act.filter fun l => (i.warp.mask 4).getLsbD l)) = 0) :=
  ⟨issues_of (by decide +kernel), issues_of (by decide +kernel), issues_of (by decide +kernel)⟩

/-- The six collectives, with a mask. -/
def collForms (m : BitVec 4) : List (Instr × Bool × List Use) :=
  [(.qswp ⟨.diagonal, 8, 2, m, false⟩, false, [srcU 2, dstU 8]), (.qbc ⟨3, 8, 2, m, false⟩, false, [srcU 2, dstU 8]),
    (.wshfl ⟨8, 2, m, false⟩, false, [srcU 2, rwU 8]), (.wvote ⟨.ballot, 8, 2, m, false⟩, false, [srcU 2, dstU 8]),
    (.wred ⟨.fadd, 8, 2, m, false⟩, false, [srcU 2, dstU 8]), (.wscan ⟨.iadd, 8, 2, m, false⟩, false, [srcU 2, dstU 8])]

/-- Lanes 16 to 31, or in quads 16 to 18 of quad 4, wait at a collective of mask 3 at word 0. -/
def meeting (ins : Instr) : State := onLanes (fun l k => if l < 16 || (l % 4 = 3 && quadColl ins) then k else { k with wait := .coll })
  (onWarps (fun w => { w with colls := if quadColl ins then (List.range 4).map (fun n =>
      { pc := 0, ins := ins, mask := 3, quad := some (4 + n)
        arr := (List.range 3).map fun j => { lane := 16 + 4 * n + j, active := true, a := 1, d := 0, row := 8 } })
    else [{ pc := 0, ins := ins, mask := 3, quad := none, arr := (List.range 16).map fun j => { lane := 16 + j, active := true, a := 1, d := 0, row := 8 } }] }) masked)

/-- What the statement on a collective asks for. -/
def meetB (ins : Instr) (m : Nat) (i : Iss) : Bool :=
  calmB i && decide i.warp.collsOk && ((List.range 12).all fun n => i.warp.arrived n == 0) &&
  (i.warp.colls.all fun c => decide (c.pc = i.pc → c.ins = ins → c.mask = m)) && i.helpers.all fun l => !(i.warp.mask m).getLsbD l

/-- What `meetB` says. -/
abbrev Meets (ins : Instr) (m : Nat) (i : Iss) : Prop := i.team.barsQuiet ∧ i.warp.collsOk ∧ i.warp.roundsOpen i.warp.mask (fun _ => True) ∧
  (∀ c ∈ i.warp.colls, c.pc = i.pc → c.ins = ins → c.mask = m) ∧ ∀ l ∈ i.helpers, (i.warp.mask m).getLsbD l = false

theorem meet_of {ins : Instr} {m : Nat} {i : Iss} (h : meetB ins m i = true) : Meets ins m i := by
  simp only [meetB, Bool.and_eq_true, decide_eq_true_eq, List.all_eq_true, List.mem_range, beq_iff_eq, Bool.not_eq_true'] at h
  exact ⟨quiet_of h.1.1.1.1, h.1.1.1.2, fun n hn _ => .inl (h.1.1.2 n hn), h.1.2, h.2⟩

/-- A collective under mask 2 meets at once; one under mask 3 completes with the lanes that issue it in `meeting`, and is met by a
warp with no active lane too. -/
theorem witness_Collectives : (∀ q ∈ collForms 2, ∃ i, readyFor halved q.1 q.2.1 q.2.2 i ∧ Meets q.1 2 i) ∧
    (∀ q ∈ collForms 3, ∃ i, readyFor (meeting q.1) q.1 q.2.1 q.2.2 i ∧ Meets q.1 3 i) ∧
    ∀ q ∈ collForms 3, ∃ i, (meeting q.1).issue = some i ∧ (!undoFull (meeting q.1) i && !i.movement && meetB q.1 3 i) = true := by
  refine ⟨fun q h => ?_, fun q h => ?_, fun q h => ?_⟩ <;> simp only [collForms, List.mem_cons, List.not_mem_nil, or_false] at h <;>
    rcases h with rfl | rfl | rfl | rfl | rfl | rfl
  iterate 6 exact have ⟨i, h, c⟩ := ready_of (p := meetB _ 2) (by decide +kernel); ⟨i, h, meet_of c⟩
  iterate 6 exact have ⟨i, h, c⟩ := ready_of (p := meetB _ 3) (by decide +kernel); ⟨i, h, meet_of c⟩
  all_goals exact issues_of (by decide +kernel)

/-- A warp with no active lane at a collective. -/
theorem witness_Collectives_inactive : let s := onLanes (fun _ k => { k with blk := { left := 2, pat := 0, c := true } }) halved
    ∃ i, s.issue = some i ∧ (!undoFull s i && decide (i.act = []) && !i.movement && meetB (.wred ⟨.fadd, 8, 2, 2, false⟩) 2 i) = true :=
  issues_of (by decide +kernel)

theorem retested_of {s : State} {ins change : Instr} (h : (readyB s change false [] fun i => calmB i && i.warp.colls.length == 1 &&
      decide i.warp.collsOk && ((List.range 12).all fun n => i.warp.arrived n == 0) && i.warp.colls.all fun c => decide (c.ins = ins ∧ c.mask = 3)) = true) :
    ∃ i c, readyFor s change false [] i ∧ i.warp.colls = [c] ∧ i.warp.collsOk ∧ c.ins = ins ∧ c.mask = 3 ∧
      i.team.barsQuiet ∧ ∀ v, i.warp.roundsOpen (fun n => if n = 3 then v else i.warp.mask n) (fun _ => True) := by
  obtain ⟨i, h, p⟩ := ready_of h
  simp only [Bool.and_eq_true, decide_eq_true_eq, List.all_eq_true, List.mem_range, beq_iff_eq] at p
  obtain ⟨c, hc⟩ := List.length_eq_one_iff.mp p.1.1.1.2
  have q := p.2 c (by simp [hc])
  exact ⟨i, c, h, hc, p.1.1.2, q.1, q.2, quiet_of p.1.1.1.1, fun v n hn _ => .inl (p.1.2 n hn)⟩

/-- A collective in progress whose mask changes. -/
theorem witness_Collectives_retested : ∀ q ∈ collForms 3, ∀ change ∈ [Instr.mjoin ⟨3, false⟩, .mleave ⟨3, false⟩, .mact ⟨3, false⟩],
    quadColl q.1 = true ∨ ∃ i c, readyFor (meeting q.1) change false [] i ∧ i.warp.colls = [c] ∧ i.warp.collsOk ∧ c.ins = q.1 ∧ c.mask = 3 ∧
      i.team.barsQuiet ∧ ∀ v, i.warp.roundsOpen (fun n => if n = 3 then v else i.warp.mask n) (fun _ => True) := by
  intro q h change hc
  simp only [collForms, List.mem_cons, List.not_mem_nil, or_false] at h hc
  rcases h with rfl | rfl | rfl | rfl | rfl | rfl
  · exact .inl rfl
  · exact .inl rfl
  all_goals rcases hc with rfl | rfl | rfl <;> exact .inr (retested_of (by decide +kernel))

theorem witness_Collectives_others : (∀ q ∈ [(Instr.qhlp ⟨8, false⟩, false, [dstU 8]), (.elect ⟨8, 2, false⟩, false, [dstU 8])], Passes halved q) ∧
    (List.replicate 32 (0 : Word)).length = 2 ^ (4 + 1) := ⟨passes_of (by decide +kernel), rfl⟩

theorem witness_Predicates : (∀ q ∈ [(Instr.pset ⟨3, 1, 2, 8⟩, false, []), (.pld ⟨2, false, false⟩, false, [srcU 2]), (.pst ⟨8, false⟩, false, [dstU 8])],
      Passes plain q) ∧ issues moving fun i => decide (i.warp.role = .movement) && decide (i.act ≠ []) && !undoFull moving i :=
  ⟨passes_of (by decide +kernel), issues_of (by decide +kernel)⟩

/-- Barrier `b` expects `n` arrivals of the roles in bits 12 to 14 of `v`. -/
def barred (v : Nat) (s : State) : State := onRecord (fun r => { r with barrier := List.replicate 16 v }) s

/-- What the statement on barrier instructions asks for, of barrier 15. -/
def barB (i : Iss) : Bool :=
  barsB i (fun c => c != 15) && i.team.barriers.length == 16 &&
  (i.team.warps.all fun w => w.lanes.all fun k => (k.wait == .none) || k.waitsOn 15) &&
  (i.team.warps.all fun w => w.id == i.warp.id || (i.team.bar 15).part w.id == 0 || !arrivesWith w ((i.team.bar 15).part w.id)) &&
  (i.grid.record.barCount 15 == 0 || decide ((i.team.bar 15).counted.length < i.grid.record.barCount 15))

theorem barOk_of {i : Iss} (h : barB i = true) : i.barOk 15 := by
  simp only [barB, Bool.and_eq_true, beq_iff_eq, List.all_eq_true, Bool.or_eq_true, Bool.not_eq_true', decide_eq_true_eq] at h
  obtain ⟨⟨⟨⟨h1, h2⟩, h3⟩, h4⟩, h5⟩ := h
  refine ⟨by omega, fun c hc => ?_, fun w mw hw => (h4 w mw).elim (fun h => h.elim (fun e => absurd e hw) .inl) .inr, h5⟩
  by_cases hl : c < 16
  · exact bars_of h1 c hl (by simp [hc])
  · have hx : i.team.barriers[c]? = none := by simp [h2]; omega
    have hw : ∀ w ∈ i.team.warps, ∀ k ∈ w.lanes, k.waitsOn c = false := fun w mw k mk => by
      rcases h3 w mw k mk with e | e
      · simp [Lane.waitsOn, e]
      · cases hk : k.wait <;> simp_all [Lane.waitsOn] <;> omega
    have e : i.team.bar c = {} := by simp [Team.bar, hx]
    exact ⟨by simp [e], by simp [e], by simp [e], by simp [e], hw⟩

/-- Barrier 15 of the team. -/
def barAt (x : Barrier) (v : Nat) : State := (barred v plain).updTeam 0 fun t => t.setBar 15 x

/-- The clauses of the statement on barriers: a first arrival of two, the last of one and of two, a second one toward the next phase, one
in pieces, one of a role the barrier does not name; a third one, which is held back. -/
theorem witness_Barriers : ∀ ins ∈ [Instr.bar ⟨15⟩, .bara ⟨15⟩, .barw ⟨15⟩],
    (∀ x ∈ [({ phase := 4 } : Barrier), { phase := 4, counted := [7], latest := [(7, 4), (0, 3)] },
        { phase := 4, counted := [0], latest := [(0, 4)] }, { phase := 4, partials := [(0, 0)] }],
      ∃ i, readyFor (barAt x 0x2002) ins false [] i ∧ i.barOk 15 ∧ (x.counted = [7] → i.warp.id ∉ x.counted ∧
        x.counted.length + 1 = i.grid.record.barCount 15 ∧ x.next.length < i.grid.record.barCount 15 ∧
        ∀ w ∈ i.team.warps, w.id = i.warp.id → w = i.warp)) ∧
    (∃ i, readyFor (onLanes (fun l k => if l < 16 then k else { k with pc := 9 }) (barred 0x2001 plain)) ins false [] i ∧ i.barOk 15 ∧
      ((i.team.bar 15).part i.warp.id = 0 ∧ arrivesWith i.warp (maskOf i.act) = false)) ∧
    ∃ i, (barred 0x1002 plain).issue = some i ∧ (!undoFull (barred 0x1002 plain) i && decide (i.act ≠ []) && i.roleLegal ins && !i.blockIll ins &&
      !i.grid.record.barRole 15 i.warp.role) = true := by
  intro ins h
  simp only [List.mem_cons, List.not_mem_nil, or_false] at h
  rcases h with rfl | rfl | rfl
  all_goals
    refine ⟨fun x h => ?_, have ⟨i, h, p⟩ := ready_of (p := fun i => barB i && (i.team.bar 15).part i.warp.id == 0 && !arrivesWith i.warp (maskOf i.act)) (by decide +kernel)
      ⟨i, h, by simp only [Bool.and_eq_true, beq_iff_eq, Bool.not_eq_true'] at p; exact ⟨barOk_of p.1.1, p.1.2, p.2⟩⟩, issues_of (by decide +kernel)⟩
    simp only [List.mem_cons, List.not_mem_nil, or_false] at h
    rcases h with rfl | rfl | rfl | rfl
    all_goals exact have ⟨i, h, p⟩ := ready_of (p := fun i => barB i && decide (i.warp.id ∉ [7] ∧ 2 = i.grid.record.barCount 15 ∧
          ∀ w ∈ i.team.warps, w.id = i.warp.id → w = i.warp)) (by decide +kernel)
      ⟨i, h, by
        simp only [Bool.and_eq_true, decide_eq_true_eq] at p
        exact ⟨barOk_of p.1, fun e => by first | exact ⟨p.2.1, p.2.2.1, by show 0 < _; omega, p.2.2.2⟩ | (cases e; done)⟩⟩

/-- The warp has arrived in phase 4 of barrier 15 and is held for the next; a lane of it waits for the rest of an arrival. -/
theorem witness_Barriers_again :
    (issues (barAt { phase := 4, counted := [0], next := [0], latest := [(0, 4)] } 0x2002) fun i =>
      decide (i.warp.id ∈ (i.team.bar 15).counted ∧ i.warp.id ∈ (i.team.bar 15).next) &&
      arrivesWith i.warp ((i.team.bar 15).part i.warp.id ||| maskOf i.act)) ∧
    (issues (barAt { phase := 4, counted := [0], next := [0], latest := [(0, 4)] } 0x2002) fun i =>
      decide ((i.team.bar 15).part i.warp.id = 0 ∧ (i.team.bar 15).latestOf i.warp.id = some 4 ∧ (i.team.bar 15).phase ≤ 4)) ∧
    (issues (barAt { phase := 5, latest := [(0, 4)] } 0x2002) fun i => decide ((i.team.bar 15).latestOf i.warp.id = some 4 ∧ 4 < (i.team.bar 15).phase)) ∧
    issues (barAt { phase := 4, partials := [(0, 1)] } 0x2002) fun i =>
      decide ((i.team.bar 15).part i.warp.id ≠ 0) && !arrivesWith i.warp ((i.team.bar 15).part i.warp.id) :=
  ⟨issues_of (by decide +kernel), issues_of (by decide +kernel), issues_of (by decide +kernel), issues_of (by decide +kernel)⟩

theorem witness_StageRings : ∀ q ∈ [(Instr.stgwImm ⟨true, 15, 3⟩, false, []), (.stgwReg ⟨2, 3⟩, false, [srcU 2]), (.stgaImm ⟨15, 3⟩, false, []),
    (.stgaReg ⟨2, 3⟩, false, [srcU 2])],
    (∃ i, readyFor plain q.1 q.2.1 q.2.2 i) ∧
    let s := onRecord (fun r => { r with ringCount := 3 }) plain
    ∃ i, s.issue = some i ∧ (!undoFull s i && decide (i.act ≠ []) && i.roleLegal q.1 && !i.blockIll q.1 &&
      decide (i.grid.record.ringCount ≤ (3 : BitVec 2).toNat)) = true := by
  intro q h
  simp only [List.mem_cons, List.not_mem_nil, or_false] at h
  rcases h with rfl | rfl | rfl | rfl <;>
    exact ⟨have ⟨i, h, _⟩ := ready_of (p := fun _ => true) (by decide +kernel); ⟨i, h⟩, issues_of (by decide +kernel)⟩

/-- The first bytes of the own scratchpad. -/
def scratched (bs : List Byte) (s : State) : State := s.updTeam 0 fun t => { t with scratch := ssetAll (0 : Byte) [] (layAt 0 bs) }

/-- The first line of the own scratchpad is absent. -/
def absent0 (s : State) : State := s.updTeam 0 fun t => { t with absent := [(0, [40])] }

/-- A condition on the tick. -/
def condOf0 : Cond := ⟨6, 0, 0, 0, 0⟩

/-- A WAITC block of one condition: kind 6, tick 9, and the same with an unassigned kind. -/
def timed : List Byte := leList 8 6 ++ leList 8 9

theorem witness_WaitsAndHandles_waitc :
    (∃ i, readyFor (scratched timed plain) (.waitc ⟨8, 2, 4, false, false, false⟩) false [srcU 2, srcU 4, dstU 8] i ∧
      (i.act.all fun l => (waitTrap (scratched timed plain) i 0 l).isNone && (waitPark (scratched timed plain) i 0 l).isNone &&
        !i.team.absentAt 0 && !(scratched timed plain).fenced i l && (condsOf (i.condBlock 0)).all fun c => !(scratched timed plain).watchAbsent i l c) = true) ∧
    (∃ i, readyFor (absent0 plain) (.waitc ⟨8, 2, 4, false, false, false⟩) false [srcU 2, srcU 4, dstU 8] i ∧
      (!Nat.testBit 0 22 && decide (0 + 64 ≤ i.grid.record.scratchBytes) && i.team.absentAt 0) = true) ∧
    (issues (absent0 plain) fun i => (absent0 plain).watchAbsent i 0 { condOf0 with kind := 1, addr := 0x01F0000000000004 }) ∧
    (∃ i, readyFor (scratched [9] plain) (.waitc ⟨8, 2, 4, false, false, false⟩) false [srcU 2, srcU 4, dstU 8] i ∧
      (i.act.findSome? fun l => waitTrap (scratched [9] plain) i 0 l).isSome = true) ∧
    (let s := onLanes (fun _ k => k.setEmpty 8 (.waitc 3)) plain
      let w : WaitC := { key := 3, team := 0, warp := 0, lane := 31, row := 8, all := true, conds := [condOf0], hcur := 0, deadline := none, lastEval := 0 };
      ∃ i, s.watcher w.team w.warp w.lane = some i ∧ w.lane < i.warp.lanes.length ∧ srising (i.warp.lane w.lane).regs = true ∧
        (i.warp.lane w.lane).life ≠ .finished ∧ ((i.warp.lane w.lane).cell w.row).fill = .empty (.waitc w.key) ∧
        (∀ c ∈ w.conds, s.watchAbsent i w.lane c = false) ∧ (s.condBits i w.lines w.lane w.hcur w.conds 0).2 = usedBits w.conds) :=
  ⟨ready_of (by decide +kernel), ready_of (by decide +kernel), issues_of (by decide +kernel), ready_of (by decide +kernel), by
    have ⟨i, hi, h⟩ := any_of (o := (onLanes (fun _ k => k.setEmpty 8 (.waitc 3)) plain).watcher 0 0 31)
        (p := fun i => decide (31 < i.warp.lanes.length ∧ srising (i.warp.lane 31).regs = true ∧ (i.warp.lane 31).life ≠ .finished ∧
          ((i.warp.lane 31).cell 8).fill = .empty (.waitc 3) ∧
          (∀ c ∈ [condOf0], (onLanes (fun _ k => k.setEmpty 8 (.waitc 3)) plain).watchAbsent i 31 c = false) ∧
          ((onLanes (fun _ k => k.setEmpty 8 (.waitc 3)) plain).condBits i [] 31 0 [condOf0] 0).2 = usedBits [condOf0])) (by decide +kernel)
    exact ⟨i, hi, of_decide_eq_true h⟩⟩

/-- An operation of engine 1. -/
def someOp : MatOp := { team := 0, warp := 0, lane := 0, row := 8, id := 0x1000000, tick := 0, hcur := 0, block := [] }

/-- The fill of register 2 names engine operation 1, which has failed and has not been read yet. -/
def failedHandle : State := onLanes (fun l k => if l = 31 then k.setCell 2 { val := 0x21000001, fill := .failed 0x21000001 } else k) plain

theorem witness_WaitsAndHandles :
    (∀ q ∈ [(Instr.ftest ⟨1, 2, false, false⟩, false, [peekU 2]), (.fid ⟨8, 2, true, false⟩, true, [peekU 2, dstU 8]), (.fwait fr1, un),
      (.fcan ⟨2, true, false⟩, true, [srcU 2])], Passes plain q) ∧
    (∃ i, readyFor plain (.fwait fr1) true [srcU 2, dstU 8] i ∧ (i.failedWait 2).isNone = true) ∧
    (∃ i, readyFor plain (.fcan ⟨2, true, false⟩) true [srcU 2] i ∧ (i.act.all fun l => (plain.matOp? i.team.key ((i.rd l 2).toNat % 2 ^ 28)).isNone) = true) ∧
    (plain.cores.map Core.num).Nodup ∧
    (∀ started ∈ [false, true], ∀ k ∈ [0, 1], ((plain.updCore 0 fun c => { c with matq := [{ someOp with started := started, nextK := k }] }).matOp? 0 0x1000000).isSome = true) :=
  ⟨passes_of (by decide +kernel), ready_of (by decide +kernel), ready_of (by decide +kernel), by decide +kernel, by decide +kernel⟩

theorem witness_WaitsAndHandles_failed : issues failedHandle fun i => (i.failedRead [srcU 2]).isSome := issues_of (by decide +kernel)

/-- A block whose first condition has kind 1 and the address `a`, and no other. -/
def watches (a : Nat) : List Byte := leList 8 1 ++ leList 8 a

/-- A byte of that block in the own scratchpad is as it should be, whatever its address. -/
def blockGood (i : Iss) : Bool := (List.range 4).all fun k =>
  let field (off n : Nat) : Nat := fieldAt (i.condBlock 0) (16 * k + off) n
  field 0 1 == (if k = 0 then 1 else 0) && field 1 1 == 0 && field 2 2 == 0 && field 4 4 == 0 && (k == 0 || field 8 8 == 0) && field 8 8 % 4 == 0

/-- The traps of a WAITC: a bit above the tile, a block beyond the scratchpad, a misaligned one, a faulty address, a bad entry; and
a good one, of a line that is poisoned, lies on a peer that no link reaches, or is read. -/
theorem witness_WaitsAndHandles_traps :
    Nat.testBit 0x400000 22 = true ∧ (issues plain fun i => decide (i.grid.record.scratchBytes < 524288 - 32 + 64)) ∧
    (issues plain fun i => decide (32 + 64 ≤ i.grid.record.scratchBytes ∧ 32 % 64 ≠ 0)) ∧
    (issues (scratched (watches (2 ^ 57)) plain) fun i => decide (0 + 64 ≤ i.grid.record.scratchBytes ∧ fieldAt (i.condBlock 0) 0 1 = 1 ∧
      (scratched (watches (2 ^ 57)) plain).generic i .read 0 4 false (fieldAt (i.condBlock 0) 8 8 / 4 * 4) = .trap causePROT)) ∧
    (issues (scratched [9] plain) fun i => decide (7 ≤ fieldAt (i.condBlock 0) 0 1)) ∧
    (issues { scratched (watches 0x300000) plain with poison := [0x6000] } fun i => blockGood i &&
      { scratched (watches 0x300000) plain with poison := [0x6000] }.poisoned i 0 4
        ({ scratched (watches 0x300000) plain with poison := [0x6000] }.generic i .read 0 4 false (fieldAt (i.condBlock 0) 8 8 / 4 * 4))) ∧
    (issues (scratched (watches (2 ^ 48)) plain) fun i => blockGood i &&
      (scratched (watches (2 ^ 48)) plain).generic i .read 0 4 false (fieldAt (i.condBlock 0) 8 8 / 4 * 4) == .noPeer 1) ∧
    issues (scratched (watches 0x300000) plain) fun i => blockGood i &&
      !(scratched (watches 0x300000) plain).poisoned i 0 4 ((scratched (watches 0x300000) plain).generic i .read 0 4 false (fieldAt (i.condBlock 0) 8 8 / 4 * 4)) :=
  by
  and_intros <;> first
    | decide
    | exact issues_of (by decide +kernel)

/-- An instruction that a warp may issue, before its special register is looked at. -/
def mayIssue (s : State) (ins : Instr) (p : Iss → Bool) : Bool :=
  s.issue.any fun i => !undoFull s i && decide (i.act ≠ []) && i.roleLegal ins && !i.blockIll ins && p i

theorem witness_ClocksAndSpecialRegisters :
    (∀ q ∈ [(Instr.time ⟨8⟩, false, [dstN 8 2]), (.srd ⟨8, 0x051⟩, false, [dstU 8]), (.swr ⟨2, 0x020⟩, false, [srcU 2]),
      (.swr ⟨2, 0x021⟩, false, [srcU 2]), (.swr ⟨2, 0x031⟩, false, [srcU 2])], Passes plain q ∧ Passes moving q) ∧
    (∀ q ∈ [(Instr.srd ⟨8, 0x050⟩, false, [dstU 8])], Passes moving q) ∧ (∀ q ∈ [(Instr.clk ⟨8⟩, false, [dstN 8 2])], Passes plain q) ∧
    (mayIssue plain (.srd ⟨8, 0x050⟩) fun i => i.warp.role != .movement) = true ∧
    ∀ ins ∈ [Instr.srd ⟨8, 0x3FF⟩, .swr ⟨2, 0⟩, .swr ⟨2, 0x050⟩], mayIssue plain ins (fun _ => true) = true ∧ mayIssue moving ins (fun _ => true) = true :=
  ⟨fun q hq => ⟨passes_of (by decide +kernel) q hq, passes_of (by decide +kernel) q hq⟩, passes_of (by decide +kernel),
    passes_of (by decide +kernel), by decide +kernel, by decide +kernel⟩

/-- The plain state with operations in core 0's queue. -/
def queued (n : Nat) : State := plain.updCore 0 fun c => { c with matq := List.replicate n someOp }

theorem witness_MatrixInstructions :
    (∀ ins ∈ [Instr.mma ⟨8, 2, false, false⟩, .mmap ⟨8, 2, false, false⟩],
      (∃ i, readyFor (withReg 2 (fun _ => 524224) plain) ins false [srcU 2, dstU 8] i ∧
        (i.act.all fun l => decide ((i.rd l 2).toNat % 64 = 0 ∧ (i.rd l 2).toNat + 64 ≤ i.grid.record.scratchBytes) && !i.team.absentAt (i.rd l 2).toNat) = true) ∧
      ∃ i, readyFor (withReg 2 (fun l => if l = 31 then 524288 else if l = 30 then 64 else 0) plain) ins false [srcU 2, dstU 8] i ∧
        decide (¬ (i.rd 31 2).toNat + 64 ≤ i.grid.record.scratchBytes) = true) ∧
    (∃ i, readyFor (absent0 plain) (.mma ⟨8, 2, false, false⟩) false [srcU 2, dstU 8] i ∧
      (i.act.all fun l => decide ((i.rd l 2).toNat = 0 ∧ 64 ≤ i.grid.record.scratchBytes) && i.team.absentAt (i.rd l 2).toNat) = true) ∧
    ((plain.core 0).matq = [] ∧ 8 ≤ ((queued 8).core 0).matq.length ∧ (∃ t ∈ (queued 9).teams, 0 ∈ t.cores ∧ t.key = 0 ∧ ∃ w ∈ t.warps, w.id = 0) ∧
      someOp ∈ ((queued 9).core 0).matq.drop 8) ∧
    (∀ slow ∈ [false, true], ∃ i, readyFor { plain with env := { slow := slow } } (.tld ⟨8, 2, false, false⟩) false [srcU 2, dstN 8 8] i ∧
      (i.active.all fun l => decide ((i.rd l 2).toNat % 4 < i.grid.record.accTiles) && !plain.tileBusy i.team.key 0) = true) ∧
    (∃ i, readyFor (onRecord (fun r => { r with accTiles := 2 }) (withReg 2 (fun l => if l = 31 then 2 else 1) plain)) (.tst ⟨8, 2, false, false⟩) false [srcU 2, srcN 8 8] i ∧
      decide (i.grid.record.accTiles ≤ (i.rd 31 2).toNat % 4 ∧ (i.rd 0 2).toNat % 4 < i.grid.record.accTiles) = true) ∧
    (∃ i, readyFor plain (.tst ⟨8, 2, false, false⟩) false [srcU 2, srcN 8 8] i ∧ decide (∀ l ∈ i.act, (i.rd l 2).toNat % 4 < i.grid.record.accTiles) = true) ∧
    (∀ ins ∈ [Instr.tzero ⟨3⟩, .tfree ⟨3⟩],
      (∃ i, readyFor plain ins false [] i ∧ (decide (3 < i.grid.record.accTiles) && !plain.tileBusy i.team.key 3) = true) ∧
      ∃ i, readyFor (onRecord (fun r => { r with accTiles := 3 }) plain) ins false [] i ∧ decide (i.grid.record.accTiles ≤ 3) = true) := by
  refine ⟨fun ins h => ?_, ready_of (by decide +kernel), by decide +kernel, fun slow h => ?_, ready_of (by decide +kernel), ready_of (by decide +kernel), fun ins h => ?_⟩ <;>
    simp only [List.mem_cons, List.not_mem_nil, or_false] at h <;> rcases h with rfl | rfl
  · exact ⟨ready_of (by decide +kernel), ready_of (by decide +kernel)⟩
  · exact ⟨ready_of (by decide +kernel), ready_of (by decide +kernel)⟩
  · exact ready_of (by decide +kernel)
  · exact ready_of (by decide +kernel)
  · exact ⟨ready_of (by decide +kernel), ready_of (by decide +kernel)⟩
  · exact ⟨ready_of (by decide +kernel), ready_of (by decide +kernel)⟩

/-- An operation of the tile's team on tile 0. -/
theorem witness_MatrixInstructions_busy : (plain.updCore 0 fun c => { c with matq := [someOp] }).tileBusy 0 0 = true := by decide +kernel

/-- x8 to x12: source, destination (128 further), size 16. -/
def copying (dst : Word) (ctl : Word) : State :=
  withReg 12 (fun _ => ctl) (withPair 10 0x01F00000 (fun _ => dst) (withPair 8 0x01F00000 (fun _ => 0) moving))

/-- A copy within the scratchpad passes every test; a size of 0, an overlapping destination, and a byte beyond the map do not. -/
theorem witness_CopiesEnter :
    (∃ i, readyFor (copying 128 16) (.cpy ⟨1, 0xFF, 8⟩) false (cpyUses 8) i ∧
      (i.warp.tokensDone 0xFF && decide ((copying 128 16).endTest i (i.rd64 0 8).toNat 16 = (copying 128 16).endTest i (i.rd64 0 10).toNat 16) &&
        decide ((copying 128 16).endTest i (i.rd64 0 8).toNat 16 ≠ .prot ∧ (copying 128 16).endTest i (i.rd64 0 8).toNat 16 ≠ .desc) &&
        !overlap (i.rd64 0 8).toNat 16 (i.rd64 0 10).toNat 16 && decide ((i.rd 0 12).toNat / 2 ^ 27 = 0 ∧ (i.rd 0 12).toNat % 2 ^ 24 = 16) &&
        !(copying 128 16).onPeer i .copySrc (i.rd64 0 8).toNat 16 && decide ((i.warp.tokens.map fun t => t.ops.length).sum < 32) &&
        (copying 128 16).holdRoom i.core 1) = true) ∧
    (∃ i, readyFor (copying 0 16) (.cpy ⟨1, 0, 8⟩) false (cpyUses 8) i ∧ overlap (i.rd64 0 8).toNat 16 (i.rd64 0 10).toNat 16 = true) ∧
    (∃ i, readyFor (copying 128 0) (.cpy ⟨1, 0, 8⟩) false (cpyUses 8) i ∧ decide ((i.rd 0 12).toNat % 2 ^ 24 = 0) = true) ∧
    (∃ i, readyFor (withPair 8 0x02000000 (fun _ => 0) (copying 128 16)) (.cpy ⟨1, 0, 8⟩) false (cpyUses 8) i ∧
      decide ((withPair 8 0x02000000 (fun _ => 0) (copying 128 16)).endTest i (i.rd64 0 8).toNat 16 = .prot) = true) :=
  ⟨ready_of (by decide +kernel), ready_of (by decide +kernel), ready_of (by decide +kernel), ready_of (by decide +kernel)⟩

theorem witness_CopiesEnter_multicast :
    let s := onRecord (fun r => { r with hall := true }) (withReg 11 (fun _ => 0) (copying 128 16))
    (∃ i, readyFor s (.cpym ⟨1, 0, 8, 1⟩) false (cpyUses 8) i ∧
      (decide ((i.rd64 0 10).toNat < 2 ^ 19 ∧ (i.rd64 0 10).toNat + 16 ≤ i.grid.record.scratchBytes) && (s.hallTeam i 0).isSome &&
        !overlap (i.rd64 0 8).toNat 16 (0x01F1000000000000 + (i.rd64 0 10).toNat) 16 &&
        !overlap (i.rd64 0 8).toNat 16 (0x01F0000000000000 + (i.rd64 0 10).toNat) 16) = true) ∧
    ∃ i, readyFor s (.cpym ⟨1, 0, 8, 0xE⟩) false (cpyUses 8) i ∧ (s.hallTeam i 3).isNone = true :=
  ⟨ready_of (by decide +kernel), ready_of (by decide +kernel)⟩

/-- A CPYT descriptor: 4 elements of 4 bytes, once. -/
def block64 : List Byte := leList 8 0x01F0000000000400 ++ leList 8 0x01F0000000000800 ++ leList 8 4 ++ leList 24 0 ++ leList 16 2

/-- An LXF descriptor: 4 elements of 4 bytes in one dimension. -/
def block128 : List Byte := leList 8 0x01F0000000000400 ++ leList 8 0x01F0000000000800 ++ leList 8 (2 * 2 ^ 42) ++ leList 16 4 ++ leList 32 0 ++ leList 32 0 ++ leList 24 0

/-- The instruction lists one operation. -/
def enters1 (s : State) (ins : Instr) : Bool :=
  match exec ins s with
  | .next t => t.copies.length == 1
  | _ => false

theorem witness_CopiesEnter_descriptors :
    (∃ i, readyFor (scratched block64 moving) (.cpyt ⟨1, 0, 8⟩) false [srcU 8] i ∧ ((placeTrap i 8 64).isNone && !i.team.absentAt (i.rd 0 8).toNat &&
        enters1 (scratched block64 moving) (.cpyt ⟨1, 0, 8⟩)) = true) ∧
    (∃ i, readyFor (scratched block128 moving) (.lxf ⟨1, 0, 8⟩) false [srcU 8] i ∧ ((placeTrap i 8 128).isNone && !i.team.absentAt (i.rd 0 8).toNat &&
        enters1 (scratched block128 moving) (.lxf ⟨1, 0, 8⟩)) = true) :=
  ⟨ready_of (by decide +kernel), ready_of (by decide +kernel)⟩

theorem witness_CopiesEnter_wait : issues (onWarps (fun w => { w with tokens := List.replicate 7 {} ++ [{ ops := [4] }] }) moving) fun i =>
    decide (i.warp.role = .movement ∧ i.act ≠ [] ∧ (0x80 : BitVec 8).getLsbD 7 = true ∧ (i.warp.token 7).ops ≠ []) := issues_of (by decide +kernel)

theorem witness_TokensAndPresence :
    (∀ q ∈ [(Instr.tkw ⟨0xFF, 8⟩, false, [dstU 8]), (.tkt ⟨0xFF, 8⟩, false, [dstU 8])],
      ∃ i, readyFor moving q.1 q.2.1 q.2.2 i ∧ i.warp.tokensDone 0xFF = true) ∧
    (∀ ins ∈ [Instr.tkwBar ⟨0xFF, 15⟩, .tkwBarw ⟨0xFF, 15⟩, .tktBar ⟨0xFF, 15⟩],
      (∃ i, readyFor (barred 0x4001 moving) ins false [] i ∧ i.warp.tokensDone 0xFF = true ∧ i.barOk 15 ∧ 15 < i.team.barriers.length) ∧
      mayIssue (barred 0x3001 moving) ins (fun i => i.warp.tokensDone 0xFF && !i.grid.record.barRole 15 i.warp.role) = true) ∧
    ∀ ins ∈ [Instr.spclr ⟨0, 8⟩, .spset ⟨0, 8⟩],
      (∃ i, readyFor (withReg 9 (fun _ => 4096) moving) ins false [srcN 8 2] i ∧
        decide ((i.rdN 0 8 0).toNat % 128 = 0 ∧ (i.rdN 0 8 0).toNat + 128 * (i.rdN 0 8 1).toNat ≤ i.grid.record.scratchBytes ∧ (i.rdN 0 8 1).toNat = 4096) = true) ∧
      (∃ i, readyFor (withReg 8 (fun _ => 1) moving) ins false [srcN 8 2] i ∧ decide ((i.rdN 0 8 0).toNat % 128 ≠ 0) = true) ∧
      (∃ i, readyFor (withReg 9 (fun _ => 4097) moving) ins false [srcN 8 2] i ∧
        decide (i.grid.record.scratchBytes < (i.rdN 0 8 0).toNat + 128 * (i.rdN 0 8 1).toNat) = true) ∧
      ∃ i, readyFor moving ins false [srcN 8 2] i ∧ decide ((i.rdN 0 8 1).toNat = 0) = true := by
  refine ⟨fun q h => ?_, fun ins h => ?_, ?_⟩
  · simp only [List.mem_cons, List.not_mem_nil, or_false] at h
    rcases h with rfl | rfl <;> exact ready_of (by decide +kernel)
  · simp only [List.mem_cons, List.not_mem_nil, or_false] at h
    rcases h with rfl | rfl | rfl <;>
      exact ⟨have ⟨i, h, p⟩ := ready_of (p := fun i => i.warp.tokensDone 0xFF && barB i) (by decide +kernel)
        have p := Bool.and_eq_true_iff.mp p
        ⟨i, h, p.1, barOk_of p.2, (barOk_of p.2).1⟩, by decide +kernel⟩
  · intro ins h
    simp only [List.mem_cons, List.not_mem_nil, or_false] at h
    rcases h with rfl | rfl <;> exact ⟨ready_of (by decide +kernel), ready_of (by decide +kernel), ready_of (by decide +kernel), ready_of (by decide +kernel)⟩

/-! ## The device -/

/-- A public key of P-256. -/
def pubKey : List Byte := (leList 64 0xbd021ba3e0f1854726ecdbd16080b7c0396c9c7c965667bee546f3522b10484631ee424126d0ea36871f9b62096a5e7e53c7179d4cf0967fe7ef3cee18cbdfcf).reverse

/-- An image of a KIND without a body, with its digest and a signature. -/
def imageOf (kind sig : Nat) : List Byte :=
  let h := leList 4 0x4F4E5A47 ++ leList 4 kind ++ leList 24 0
  h ++ digestBytes (sha256 (h ++ pubKey ++ leList 64 0)) ++ (leList 64 sig).reverse ++ pubKey ++ leList 64 0

/-- A bank whose four images verify: the signatures were computed apart from the model, by the equations of ECDSA. -/
def goodBank : Bank := { images := [
  imageOf 1 0x76bd4803b403f055e40dd1f33dcb7e9ab6da79259599f0573857642ed6391647fa78c015809e94f32f570eb33a7be891237e83c64f1909b4613989c19721fc9a,
  imageOf 2 0x0fb6d5fc99448e9e25f7281a90178963074a8fefbc15c2ef0470f912ac2f580026c816b528038324f386f32d5d3629e5520d5cc41958fa6be5550ab46464f9ed,
  imageOf 3 0xbcbe8972522256ac8d79bef3424b7d00ee0eb9339bb8b1bf6e56ef4313454e1ec1fd6d30d7b9031da2cf9203e1ca021d886090cde398ccabace0749ac2fc5d81,
  imageOf 4 0xdd23ff696f6f7011b1d2c960acdbba12640300d1bf1a59d323539c39991f97fe1ff8a54f7b338501e8f705e53293dd99c3e35d6548029292145f5eda6ff0dea3] }

/-- A device ready to boot from bank A. -/
def bootable : State := { State.reset with bankA := goodBank, fuses := { digests := [sha256 pubKey], floors := [0, 0, 0, 0] } }

/-- FIPS 180-4: SHA-256 of "abc". -/
theorem test_sha256 : sha256 [0x61, 0x62, 0x63] = 0xba7816bf8f01cfea414140de5dae2223b00361a396177a9cb410ff61f20015ad := by decide +kernel

theorem witness_BootAndController : bootable.boot.held = false ∧ bootable.cleared.badStep = none ∧
    (1 ≤ 3 ∧ 3 ≤ 7) ∧ State.reset.polledAt = 0 ∧ State.reset.tick < 0 + 1000000 ∧ State.reset.boot.held = false ∧ State.reset.cleared.badStep = some 1 ∧ State.reset.cleared.boot.proving = false ∧
    ({ State.reset with boot := { pending := true } } : State).cleared.badStep = some 1 ∧
    ({ State.reset with boot := { pending := true } } : State).cleared.boot.proving = true ∧
    ({ State.reset with boot := { proving := true, fails := 2 } } : State).cleared.badStep = some 1 ∧
    2 ≤ ({ State.reset with boot := { proving := true, fails := 2 } } : State).cleared.boot.fails ∧
    ({ State.reset with boot := { held := true } } : State).boot.held = true ∧
    ({ State.reset with tick := 1000000 } : State).polledAt + 1000000 ≤ 1000000 ∧
    (let s : State := { State.reset with sensors := [(.volts, 48)] };
      s.hasSensor .volts = true ∧ s.sensors.find? (fun r => r.1 == .volts) = some (.volts, 48)) ∧
    (let s : State := { State.reset with chain := [1, 2, 3], meas := List.replicate 7 5 };
      2 < s.chain.length ∧ s.meas[6]? = some 5) := by decide +kernel

/-- Partition 0 of gallery 0 with function 0 and its context 1, and a second application core not started. -/
def device : State := { State.reset with
  tick := 1000000, vfs := [{ num := 0, part := some 0 }], ctxs := [{ num := 1, vf := 0 }]
  parts := [{ num := 0, galleries := 1, allot := 60000, ranges := [(0x100000, 0x100000)], accepting := true, cloakSize := 0x100000 }]
  harts := [{ num := 0, status := .started, mode := .s }, { num := 1 }] }

/-- Bytes from fields: offset, width, value. -/
def fields (n : Nat) (fs : List (Nat × Nat × Nat)) : List Byte := (List.range n).map fun i =>
  match fs.find? fun f => decide (f.1 ≤ i) && decide (i < f.1 + f.2.1) with
  | some f => BitVec.ofNat 8 (f.2.2 / 2 ^ (8 * (i - f.1)))
  | none => 0

/-- Bytes placed in memory that is zero there. -/
def placed (a : Nat) (bs : List Byte) (s : State) : State := { s with mem := ssetAll (0 : Byte) s.mem ((layAt a bs).filter fun c => c.2 != 0) }

/-- A registration record: class `c`, QCB at `qcb`. -/
def regRec (vf c qcb : Nat) : List Byte := fields 64 [(0, 1, vf), (1, 1, 5), (2, 1, c), (0x18, 8, qcb)]

/-- Application core 0 stands at a call with these arguments. -/
def calls (ext fid : Nat) (args : List Nat) (s : State) : State := { s with harts := s.harts.map fun h =>
  if h.num = 0 then { h with x := ssetAll (0 : DWord) [] ((args.zipIdx.map fun a => (10 + a.2, BitVec.ofNat 64 a.1)) ++
    [(16, BitVec.ofNat 64 fid), (17, BitVec.ofNat 64 ext)]) } else h }

theorem witness_FirmwareCalls :
    (∀ q ∈ [(0x48534D, 0, [1, 0x00BFFFFFFFFF, 5]), (0x48534D, 0, [1, 0x00C000000000, 5]), (0x4F4E4145, 0, [1, 0, 0]), (0x4F4E4145, 1, [0x1000]),
        (0x4F4E4145, 2, [0, 5]), (0x4F4E4145, 3, [0, 9, 1]), (0x4F4E4145, 3, [0, 9, 2]), (0x4F4E4145, 4, [0]), (0x4F4E4145, 5, [0, 0x1000, 0, 0]),
        (0x4F4E4145, 5, [1, 0x1000, 68, 3])],
      (calls q.1 q.2.1 q.2.2 device).mayCall (.hart 0) q.1 q.2.1 q.2.2 = true ∧ (calls q.1 q.2.1 q.2.2 device).mayCall (.hart 1) q.1 q.2.1 q.2.2 = false ∧
      device.mayCall (.hart 0) q.1 q.2.1 q.2.2 = false) ∧
    64 ≤ ({ State.reset.ctrl with unit := 64 } : Ctrl).unit ∧
    (device.harts.find? fun x => x.num == 0).any (fun h => h.status != .stopped) = true ∧
    (device.harts.find? fun x => x.num == 1).any (fun h => h.status == .stopped) = true ∧ (device.harts.find? fun x => x.num == 2) = none ∧
    0x00BFFFFFFFFF < 0x00C000000000 ∧ (∀ p ∈ device.parts, p.num ≠ 1) ∧ (device.vf 1).part = none ∧
    (∀ c ∈ device.copies, (device.team? c.team).map Team.ctx ≠ some 1) ∧ device.inFlight 1 = false ∧
    ((plain.updCore 0 fun c => { c with hold := [{ tick := 0, team := 0, warp := 0, eff := .store 1 0 [] none }] }).inFlight 1 = true) ∧
    (let s := placed 0x1000 (regRec 0 4 0) device; ¬ fieldAt (s.physRead 0x1000 64).2 2 1 ≤ 3) ∧
    (let s := placed 0x1000 (regRec 0 3 0x2000) device
      let b := (s.physRead 0x1000 64).2;
      (fieldAt b 0 1 < 192 ∧ fieldAt b 1 1 < 64 ∧ 1 ≤ fieldAt b 2 1 ∧ fieldAt b 2 1 ≤ 3 ∧ fieldAt b 3 1 < 2 ∧ fieldAt b 4 1 < 4 ∧ fieldAt b 5 3 = 0 ∧
        fieldAt b 0x14 4 = 0 ∧ fieldAt b 0x18 8 % 64 = 0 ∧ leNum ((b.drop 0x30).take 16) = 0) ∧
      (s.vf 0).part ≠ none ∧ (s.physRead 0x1000 64).1.takeNonce.qcbMaps b = true ∧ s.queue? 0 5 = none ∧ (s.vf 0).plugin = none ∧
      (∀ c ∈ s.ctxs, c.num ≠ 0) ∧ (s.vf 191).part = none ∧ ({ s with queues := [{ vf := 0, num := 5, ctx := 1 }] }).queue? 0 5 ≠ none) ∧
    (let b := (((placed 0x1000 (regRec 0 3 0x01F0000000000000) device).physRead 0x1000 64).2);
      (placed 0x1000 (regRec 0 3 0x01F0000000000000) device).qcbMaps b = false) ∧
    (let x : Queue := { vf := 0, num := 5, ctx := 1 };
      ({ device with queues := [x] }).queue? 0 5 = some x ∧ x.busy = false ∧ ({ x with started := [{ idx := 0, op := 1 }] } : Queue).busy = true) ∧
    device.queue? 0 5 = none ∧ ((device.vf 0).faults.all fun e => e.serial != 9) = true ∧
    (let e : FaultEntry := { serial := 9, ctx := 1, page := 0, stage := 1, kind := 0, va := 0 };
      e ∈ ((device.updVf 0 fun v => { v with faults := [e] }).vf 0).faults) ∧
    (∃ p ∈ device.parts, ∀ x ∈ device.parts, x.num = p.num → x = p) ∧
    (let h := fields 68 [(0, 4, 0x4F4E504C), (4, 4, 0x00010000), (8, 4, 4)]
      let s := placed 0x1000 h device;
      plugOk (s.physRead 0x1000 64).2 0x44 = true ∧ plugOk (s.physRead 0x1000 64).2 0x45 = false ∧ (s.vf 1).part = none) := by decide +kernel

/-- The device with 8 bytes of memory in its partition, an expander and slot 2 in it. -/
def slots2 : State := { device with
  parts := device.parts.map fun p => { p with ranges := [(0x100000, 8)] }, stored := { slots := [(2, 0x200000)] }, ports := [{ num := 1, endpoint := false, trained := true, attached := some .expander }] }

/-- A checkpoint of partition 0 in slot 2. -/
def imaged : CkptImage :=
  { slot := 2, tick := 5, galleries := 1, layout := slots2.partDigest, digest := slots2.memDigest [0] [(0x100000, 7)], mem := [(0x100000, 7)]
    saves := [{ part := 0, queues := [], ctxs := [], grids := [], teams := [], vers := [], faults := [], slalom := {}, copies := [], waitcs := [], resolving := [] }] }

theorem witness_CheckpointsAndPartitions :
    (slots2.ckpt = none ∧ (∀ f ∈ [6, 7], (calls 0x4F4E4145 f [0, 2] slots2).mayCall (.hart 0) 0x4F4E4145 f [0, 2] = true) ∧ slots2.safeTier = true ∧ device.safeTier = false ∧ slots2.partsNamed 0 = [0] ∧
      slots2.partsNamed 255 = [0] ∧ (∃ x ∈ slots2.stored.slots, x.1 = 2)) ∧
    (slots2.partsNamed 1 = [] ∧ (∀ x ∈ slots2.stored.slots, x.1 ≠ 3) ∧ ∀ i ∈ slots2.images, i.slot ≠ 2) ∧
    (∀ p ∈ slots2.partsNamed 0, slots2.isQuiet p = true) ∧
    ({ imaged with galleries := 3 } : CkptImage).galleries ≠ slots2.galleriesOf (slots2.partsNamed 0) ∧ ({ imaged with magic := 0 } : CkptImage).magic ≠ 0x4F4E434B ∧
    (let n := (device.part 0).galleryCount;
      n = 1 ∧ 30000 * n ≤ 30000 % 2 ^ 22 ∧ 120000 ≤ 120000 * n ∧ ((device.parts.filter fun p => p.num != 0).map Part.allotted).sum + 120000 ≤ 3450000 ∧
      ¬ 30000 * n ≤ 29999) ∧
    (device.gatePending 0 = false ∧ device.teamsIn 0 = [] ∧ device.rangesOk 0 3 [(0x100000, 0x100000)] = true ∧ device.rangesOk 0 0 [] = true ∧
      (∀ p ∈ device.parts, p.num ≠ 0 → p.galleries &&& 3 = 0) ∧ (∀ q ∈ device.queues, device.partOfVf q.vf ≠ 0) ∧ device.mayRepartition 48 1 [] = false) := by
  refine ⟨?_, ?_, ?_, ?_, ?_, ?_, ?_⟩ <;> decide +kernel

theorem witness_CheckpointsAndPartitions_image :
    (({ slots2 with images := [imaged] } : State).images.find? fun x => x.slot == 2) = some imaged ∧
    slots2.restorable (slots2.partsNamed 0) imaged = true ∧ imaged.digest = slots2.memDigest (slots2.partsNamed 0) imaged.mem ∧
    ({ slots2 with ckpt := some { parts := [0], slot := 2, by_ := .pldm, image := some imaged } } : State).ckpt.bind CkptRun.image = some imaged :=
  ⟨rfl, by decide +kernel, rfl, rfl⟩

/-- Clusters 0 and 1 of the partition at a state of its own. -/
def powered (f : Nat → Cluster → Cluster) (g : Part → Part) : State :=
  { device with clusters := [f 0 { num := 0 }, f 1 { num := 1 }], parts := device.parts.map g }

theorem witness_Power_meter :
    (let s := powered (fun _ c => { c with grant := .boost }) id;
      s.tick % 1000 = 0 ∧ (s.part 0).meterAt ≤ s.tick ∧ (s.part 0).allot.toNat < 60001 % 2 ^ 23 ∧ 1 ∈ (s.part 0).clusters ∧ (s.cluster 1).holdsGrant = true) ∧
    (let s := powered (fun _ c => c) (fun p => { p with throt := 4 });
      (∀ c ∈ (s.part 0).clusters, (s.cluster c).holdsGrant = false) ∧ ¬ (∀ c ∈ (s.part 0).clusters, (s.cluster c).mhz = 600) ∧ (s.part 0).throt < 5) ∧
    (let s := powered (fun _ c => { c with mhz := 600 }) (fun p => { p with throt := 5, overRuns := 63 });
      (∀ c ∈ (s.part 0).clusters, (s.cluster c).holdsGrant = false) ∧ (∀ c ∈ (s.part 0).clusters, (s.cluster c).mhz = 600 ∧ (s.cluster c).switchEnd = none) ∧ 63 ≤ (s.part 0).overRuns ∧
      (s.part 0).floor = false) ∧
    (let s := powered (fun _ c => c) (fun p => { p with throt := 1, lowRuns := 7 });
      10 * 54000 ≤ 9 * (s.part 0).allot.toNat ∧ 7 ≤ (s.part 0).lowRuns ∧ 0 < (s.part 0).throt) ∧
    (let s := powered (fun _ c => { c with mhz := 850, switchEnd := some 5, targetMhz := 600 }) id; ¬ (s.cluster 0).mhz = 600) ∧
    ((device.part 0).throt = 0 ∧ 54000 ≤ (device.part 0).allot.toNat) := by decide +kernel

theorem witness_Power_boundary :
    (device.tick % 4000 = 0 ∧ (device.part 0).boundary ≤ device.tick) ∧
    (let c : Cluster := { num := 0, grant := .boost, idleSince := none }; c.holdsGrant = true ∧ 1 ≤ c.permits) ∧
    (let c : Cluster := { num := 0, grant := .rise, idleSince := none, permits := 0 }; c.permits = 0) ∧
    (let c : Cluster := { num := 0, grant := .boost }; c.holdsGrant = true ∧ c.idleSince ≠ none) ∧
    (ratioOf 1700 = 1 ∧ ratioOf 1900 = 2 ∧ ratioOf 600 = 0) ∧
    (let s := powered (fun _ c => { c with switchEnd := some 1000000, switchTo := [2] }) id; (s.cluster 0).switchEnd = some 1000000 ∧ 1000000 ≤ s.tick) ∧
    (let s := powered (fun _ c => { c with idleSince := some 0, idleAdds := 3 }) id; 0 + 16000 * ((s.cluster 0).idleAdds + 1) ≤ s.tick) ∧
    (let s := powered (fun _ c => { c with stretch := 1 }) id; 0 < (s.cluster 0).stretch ∧ 44 < (s.cluster 0).droopTh.toNat ∧ (s.cluster 0).droopTh.toNat ≤ 45 ∧ (s.cluster 1).num = 1) ∧
    (({ num := 0, low := true } : Cluster).low = true ∧ ({ num := 0 } : Cluster).low = false) ∧
    (let c : Cluster := { num := 0, grant := .fall }; c.grant = .fall) ∧
    (let s := powered (fun _ c => { c with span := true }) id; (s.cluster 0).span = true ∧ (s.cluster 0).stretch = 0 ∧ (s.cluster 0).halved = 0) := by
  decide +kernel

theorem witness_Power_waves :
    (let s : State := { plain with clusters := [{ num := 0, releases := [{ team := 0, warps := [0] }], waveWarps := 1 }] };
      (s.cluster 0).releases ≠ [] ∧ (s.cluster 0).lastWave = none ∧ (s.team? 0).isSome ∧ [0].length ≤ min (s.cluster 0).waveWarps.toNat 32 ∧
      [0].count 0 ≤ 1 ∧ ((s.team? 0).bind fun t => t.warpAt 0).isSome) ∧
    (plain.cluster 0).waveWarps = 0 ∧
    (let s : State := { plain with clusters := [{ num := 0, releases := [{ team := 0, warps := [0], at_ := 5 }], waveWarps := 1, lastWave := some 4 }] };
      ¬ 5 ≤ (s.cluster 0).kcyc ∧ ¬ 4 + 1000 * max (s.cluster 0).stepCycles.toNat 1 ≤ (s.cluster 0).kcyc) := by decide +kernel

theorem witness_Power_idle :
    (∀ x ∈ [((2 : BitVec 20), (0 : BitVec 3)), (2, 3), (40, 0), (40, 3), (2000, 0), (2000, 3)],
      let s := powered (fun _ c => c) (fun p => { p with lattol := x.1, idle := x.2 });
      (∃ p ∈ s.parts, p.num = 0) ∧ (s.part 0).wakeAt = none ∧ s.restful 0 = true ∧ s.c4Ok = false) ∧
    (device.part 0).lattol.toNat < 2 ∧
    (let s := powered (fun _ c => c) (fun p => { p with lattol := 2000, slalom := { active := true, cycleNs := 100000, epoch := 950000, gates := [(0, { vf := 0, queue := 0, offset := 500, deadline := 500, template := 0, policy := 0, next := 1 })] } });
      (s.part 0).slalom.nextStart = some 1050500 ∧ s.tick + 1000 * 40 ≤ 1050500 ∧ ¬ s.tick + 1000 * 2000 ≤ 1050500 ∧ (s.part 0).wakeAt = none ∧ s.restful 0 = true) ∧
    (let s := powered (fun _ c => c) (fun p => { p with lattol := 0xFFFFF }); (∃ p ∈ s.parts, p.num = 0) ∧ s.c4Ok = true) ∧
    (let s := powered (fun _ c => c) (fun p => { p with idle := 3, wakeAt := some 1000000 });
      (s.part 0).idle ≠ 0 ∧ (s.part 0).wakeAt = some 1000000 ∧ 1000000 ≤ s.tick ∧ s.tick < 1000001) ∧
    (stageOf 0 84 = 0 ∧ stageOf 0 85 ≠ 0 ∧ stageOf 1 82 = 1 ∧ stageOf 1 95 ≠ 1 ∧ (11 : Nat) < 12) := by
  refine ⟨fun x h => ?_, by decide +kernel⟩
  simp only [List.mem_cons, List.not_mem_nil, or_false] at h
  rcases h with rfl | rfl | rfl | rfl | rfl | rfl <;> decide +kernel

/-- The device with a firmware core as boot leaves it, and a host at a trained port. -/
def reached : State := { device with
  fwCores := [{ num := 0, released := true, pmp := pmpEntries, sched := true }], ports := [{ num := 0, endpoint := true, trained := true }] }

theorem witness_Power_registers :
    (∀ r ∈ [MReg.clBoost 95, .clDroop 95, .cslope 95, .partBase 0, .partIdle 0, .partSched 0, .coreInjk 0, .fabric 47, .vfPart 0],
      reached.mayReach .garax r = true ∧ reached.mayReach .scheduler r = false) ∧
    (reached.mayReach .scheduler (.ctxL2lim 1) = true ∧ reached.mayReach .host (.notify 0 0x208 4) = true ∧ reached.mayReach (.hart 0) (.notify 0 0x200 8) = true ∧
      device.mayReach .host (.notify 0 0x208 4) = false ∧ reached.mayReach (.hart 1) (.notify 0 0x208 4) = false) ∧
    (reached.readReg (.clDroop 0)).isSome = true ∧ (∃ p ∈ reached.parts, p.num = 0) ∧ (∀ q ∈ reached.queues, q.vf ≠ 0) ∧
    (∀ g ∈ [Grant.rise, .boost, .nom, .fall], (powered (fun _ c => { c with grant := g }) id).cluster 1 = { num := 1, grant := g }) := by decide +kernel

/-! Queues -/

def queue0 : Queue := { vf := 0, num := 0, ctx := 1, sh := { prioClass := 1, qpriv := 3, qcbAddr := 0x8000 }, ringBase := 0x9000, ringLog := 4
                        sigBase := 0xA000, sigPages := 1, enable := true, tail := 1 }

/-- Queue 0 with one command. -/
def commanded (fs : List (Nat × Nat × Nat)) : State := placed 0x9000 (fields 128 fs) { device with queues := [queue0] }

/-- `State.begins` decided, with a further condition. -/
def beginsB (s : State) (vf q op : Nat) (p : Queue → State → List Byte → Bool) : Bool :=
  match s.queue? vf q with
  | none => false
  | some x => s.mayFetch x && (match s.readCmd x with
    | none => false
    | some (s1, b) => fieldAt b 0 1 == op && decide (fieldAt b 1 1 < 8) && fieldAt b 2 2 == 0 && x.started.isEmpty &&
        (!(op == 2 || op == 7) || !s.ctxHeld x.ctx) && p x s1 b)

theorem begins_of {s : State} {vf q op : Nat} {p : Queue → State → List Byte → Bool} (h : beginsB s vf q op p = true) :
    ∃ x s1 b, s.begins vf q op x s1 b ∧ p x s1 b = true := by
  cases hx : s.queue? vf q with
  | none => simp [beginsB, hx] at h
  | some x =>
    cases hr : s.readCmd x with
    | none => simp [beginsB, hx, hr] at h
    | some r =>
      simp only [beginsB, hx, hr, Bool.and_eq_true, beq_iff_eq, decide_eq_true_eq, List.isEmpty_iff, Bool.or_eq_true, Bool.not_eq_true',
        Bool.or_eq_false_iff, beq_eq_false_iff_ne] at h
      obtain ⟨hf, ⟨⟨⟨⟨h1, h2⟩, h3⟩, h4⟩, h5⟩, h6⟩ := h
      exact ⟨x, r.1, r.2, ⟨hx, hf, hr, h1, ⟨h2, h3⟩, fun _ _ => h4, fun _ _ => h4, fun ho => h5.resolve_left fun n => ho.elim n.1 n.2⟩, h6⟩

/-- A launch record of one vector team that passes every check of R163, with changes. -/
def record (fs : List (Nat × Nat × Nat)) : List Byte := fields 256 (fs ++ [(0, 4, 0x00010000), (0x14, 4, 0xFFFFFFFF), (0x18, 4, 0xFFFFFFFF),
  (0x20, 1, 1), (0x24, 2, 16), (0x30, 4, 1), (0x34, 4, 1), (0x38, 4, 1), (0x3C, 1, 1), (0x3E, 1, 1)])

theorem witness_Queues_notify :
    (let s := (placed 0x8000 (fields 64 [(0, 8, 0x9000), (8, 1, 4), (9, 1, 1), (0x30, 8, 0xA000), (0x38, 1, 1)]) { device with queues := [{ queue0 with enable := false }] }).beginExit 0;
      s.queue? 0 1 = none ∧ ((s.devRead 1 0x8000 64).map fun r => (latchOk r.2, (fieldAt r.2 9 1).testBit 0)) = some (true, true)) ∧
    (let s := (placed 0x8000 (fields 64 [(8, 1, 20), (9, 1, 1)]) { device with queues := [queue0] }).beginExit 0;
      ((s.devRead 1 0x8000 64).map fun r => (latchOk r.2, (fieldAt r.2 9 1).testBit 0)) = some (false, true)) ∧
    (({ device with ctxs := [{ num := 1, vf := 0, satp := 10 * 2 ^ 60 }] } : State).devRead 1 0x8000 64 = none) ∧
    (sub32 17 queue0.completed ≤ 2 ^ queue0.ringLog ↔ False) ∧ sub32 16 queue0.completed ≤ 2 ^ queue0.ringLog := by decide +kernel

theorem witness_Queues_launch :
    (∃ x s1 b, (placed 0x200 (record []) (commanded [(0, 1, 1), (8, 8, 0x200)])).begins 0 0 1 x s1 b ∧
      (((zeroFault b fun o => decide (o < 0x10)).isNone && decide (fieldAt b 8 8 % 64 = 0) && ((s1.startCmd x b).devRead x.ctx 0x200 256).any fun r =>
        (recordFault r.2 x.signalAt).isNone && (parseRecord r.2).paramBytes == 0 && (r.1.vf 0).plugin.isNone)) = true) ∧
    (∃ x s1 b, (placed 0x200 (record [(0, 4, 0)]) (commanded [(0, 1, 1), (8, 8, 0x200)])).begins 0 0 1 x s1 b ∧
      (((s1.startCmd x b).devRead x.ctx 0x200 256).any fun r => (recordFault r.2 x.signalAt).isSome) = true) ∧
    (∃ x s1 b, (commanded [(0, 1, 1), (8, 8, 0x201)]).begins 0 0 1 x s1 b ∧ decide (fieldAt b 8 8 % 64 ≠ 0) = true) ∧
    (commanded [(0, 1, 1)]).recordsUsed 0 < 4096 :=
  ⟨begins_of (by decide +kernel), begins_of (by decide +kernel), begins_of (by decide +kernel), by decide +kernel⟩

/-- Started, with conditions on the fetched command. -/
abbrev Begun (fs : List (Nat × Nat × Nat)) (op : Nat) (p : Queue → State → List Byte → Bool) : Prop :=
  ∃ x s1 b, (commanded fs).begins 0 0 op x s1 b ∧ p x s1 b = true

theorem witness_Queues_signal :
    let z (b : List Byte) : Bool := (zeroFault b fun o => decide (o < 0x1A)).isNone;
    Begun [(0, 1, 2), (8, 8, 0xA008), (0x10, 8, 7), (0x19, 1, 2)] 2 (fun x s1 b => z b && x.signalAt 0xA008 && ((s1.startCmd x b).devWrite x.ctx 0xA008 (leList 8 7)).isSome) ∧
    Begun [(0, 1, 2), (8, 8, 0xA008), (0x18, 1, 1), (0x19, 1, 3)] 2 (fun x s1 b => z b && x.signalAt 0xA008 &&
      ((s1.startCmd x b).devRead x.ctx 0xA008 8).any fun r => (r.1.devWrite x.ctx 0xA008 (leList 8 0)).isSome) ∧
    Begun [(0, 1, 2), (8, 8, 0xB000)] 2 (fun x _ b => z b && !x.signalAt 0xB000) ∧
    Begun [(0, 1, 2), (8, 8, 0xA008), (0x18, 1, 2)] 2 (fun x _ b => z b && x.signalAt 0xA008) ∧
    Begun [(0, 1, 2), (8, 8, 0xA008), (0x18, 1, 1), (0x19, 1, 1)] 2 (fun x _ b => z b && x.signalAt 0xA008) :=
  ⟨begins_of (by decide +kernel), begins_of (by decide +kernel), begins_of (by decide +kernel), begins_of (by decide +kernel), begins_of (by decide +kernel)⟩

/-- A SIGNAL and a FENCE that wait for a peer: an access of the partition, or of the device, is not answered; and none is older. A
team that has ended has an effect in a hold. -/
theorem witness_Queues_waiting :
    let a : Ask := { tag := 3, cls := 3, peer := 1, line := 2 ^ 41, who := .device }
    let s : State := { device with asks := [a] };
    (s.peersOut 0 4 = true ∧ a.tag < 4 ∧ a.who = .device) ∧ (s.peersOut 0 3 = false ∧ ∀ x ∈ s.asks, 3 ≤ x.tag) ∧
    ({ device with asks := [{ a with who := .hart 0 }] } : State).peersOut 0 4 = false ∧
    (∀ op ∈ [2, 7], ∀ m ∈ [0, 4], let c : Started := { idx := 0, op := op, addr := 0xA008, value := 7, mask := m };
      ({ s with queues := [{ queue0 with started := [c] }] } : State).queue? 0 0 = some { queue0 with started := [c] } ∧ c.done = false ∧
      s.peersOut 0 m = decide (m = 4) ∧ ((s.publishCtx 1).devWrite 1 c.addr (leList 8 c.value)).isSome) ∧
    (let t : Team := { key := 7, grid := 7, ctx := 1, index := 0, place := .gone, warps := [], rings := [], barriers := [] }
      let u : State := { commanded [(0, 1, 2), (8, 8, 0xA008)] with
        teams := [t], cores := [{ num := 0, hold := [{ tick := 0, team := 7, warp := 0, eff := .store 1 0 [] none }] }] }
      u.queue? 0 0 = some queue0 ∧ u.mayFetch queue0 = true ∧ (u.readCmd queue0).isSome ∧ u.team? 7 = some t ∧ u.ctxHeld 1 = true) := by
  decide +kernel

theorem witness_Queues_wait :
    let z (b : List Byte) : Bool := (zeroFault b fun o => decide (o < 0x21) || (decide (0x24 ≤ o) && decide (o < 0x28))).isNone;
    Begun [(0, 1, 3), (8, 8, 0xA008), (0x18, 8, 255), (0x24, 4, 5)] 3 (fun x s1 b => z b && ((s1.startCmd x b).devRead x.ctx 0xA008 8).isSome) ∧
    Begun [(0, 1, 3), (8, 8, 0xA008), (0x10, 8, 9), (0x18, 8, 255)] 3 (fun x s1 b => z b && ((s1.startCmd x b).devRead x.ctx 0xA008 8).isSome) ∧
    Begun [(0, 1, 3), (8, 8, 0xA001)] 3 (fun _ _ b => z b) ∧ Begun [(0, 1, 3), (0x20, 1, 4)] 3 (fun _ _ b => z b) ∧
    Begun [(0, 1, 3), (8, 8, 0x02000000_00000000)] 3 (fun x s1 b => z b && ((s1.startCmd x b).devRead x.ctx 0x0200000000000000 8).isNone) ∧
    (let c : Started := { idx := 0, op := 3, addr := 0xA008, value := 1, mask := 255, deadline := some 1000000 };
      ({ queue0 with started := [c] } : Queue).waitCmd? = some c ∧ (device.devRead 1 c.addr 8).isSome ∧ c.cond ≤ 3 ∧ 1000000 ≤ device.tick ∧
      device.tick < 1000001 ∧ device.devRead 1 0x0200000000000000 8 = none) :=
  ⟨begins_of (by decide +kernel), begins_of (by decide +kernel), begins_of (by decide +kernel), begins_of (by decide +kernel), begins_of (by decide +kernel),
    by decide +kernel⟩

theorem witness_Queues_others :
    Begun [(0, 1, 7), (8, 1, 3)] 7 (fun _ _ b => (zeroFault b fun o => o == 8).isNone) ∧
    Begun [(0, 1, 7), (8, 1, 4)] 7 (fun _ _ b => (zeroFault b fun o => o == 8).isNone) ∧
    (let z (b : List Byte) : Bool := (zeroFault b fun o => decide (o < 0x0A) || (decide (0x10 ≤ o) && decide (o < 0x19))).isNone;
      Begun [(0, 1, 5), (8, 1, 1), (0x10, 8, 0xB000)] 5 (fun x s1 b => z b && x.sh.qpriv.getLsbD 1 && ((s1.startCmd x b).queue? 1 0).isNone) ∧
      Begun [(0, 1, 5), (0x10, 8, 0xB001)] 5 (fun x _ b => z b && x.sh.qpriv.getLsbD 1) ∧
      Begun [(0, 1, 5), (0x18, 1, 4)] 5 (fun x _ b => z b && x.sh.qpriv.getLsbD 1) ∧
      Begun [(0, 1, 5), (0x18, 1, 1)] 5 (fun x _ b => z b && x.sh.qpriv.getLsbD 1) ∧
      Begun [(0, 1, 5), (0x10, 8, 0xB000), (0x18, 1, 2)] 5 (fun x s1 b => z b && x.sh.qpriv.getLsbD 1 && ((s1.startCmd x b).queue? 0 0).isSome &&
        (((s1.startCmd x b).devWrite x.ctx 0xB000 (queueRecord x 0)).isSome)) ∧
      Begun [(0, 1, 5), (0x10, 8, 0x0200000000000000)] 5 (fun x s1 b => z b && x.sh.qpriv.getLsbD 1 && ((s1.startCmd x b).queue? 0 0).isSome &&
        (((s1.startCmd x b).devWrite x.ctx 0x0200000000000000 (queueRecord x 0)).isNone))) ∧
    (queue0.sh.qpriv.getLsbD 1 = true ∧ ({} : Shadow).qpriv.getLsbD 1 = false) :=
  ⟨begins_of (by decide +kernel), begins_of (by decide +kernel), ⟨begins_of (by decide +kernel), begins_of (by decide +kernel), begins_of (by decide +kernel),
    begins_of (by decide +kernel), begins_of (by decide +kernel), begins_of (by decide +kernel)⟩, by decide +kernel⟩

/-- The record of a queue of function 0 up to its CRC. -/
def exportedHead : List Byte := recordHead { queue0 with num := 9 } 0

/-- The whole record: what an IMPORT takes. -/
def exported : List Byte := exportedHead ++ leList 4 0xa798c200 ++ leList 4 0

theorem crcFrom_append (c : Word) (a b : List Byte) : crcFrom c (a ++ b) = crcFrom (crcFrom c a) b := List.foldl_append

theorem crcFrom_split (c d : Word) (n : Nat) (b : List Byte) (h : crcFrom c (b.take n) = d) : crcFrom c b = crcFrom d (b.drop n) := by
  rw [← h, ← crcFrom_append, List.take_append_drop]

/-- The CRC, fifty bytes at a time. -/
theorem exported_crc : crc32 exportedHead = 0xa798c200#32 := by
  unfold crc32
  rw [crcFrom_split _ 0xcdac8954#32 50 _ (by decide +kernel), crcFrom_split _ 0x8a2b9c9b#32 50 _ (by decide +kernel),
    crcFrom_split _ 0x0896f9e2#32 50 _ (by decide +kernel), crcFrom_split _ 0x14205be4#32 50 _ (by decide +kernel)]
  decide +kernel

/-- An IMPORT accepts the record. -/
theorem exported_ok : importOk exported = true ∧ exported = queueRecord { queue0 with num := 9 } 0 := by
  have e : exported.take 0xF8 = exportedHead := by decide +kernel
  refine ⟨?_, ?_⟩
  · unfold importOk
    rw [e, exported_crc]
    decide +kernel
  · show exportedHead ++ leList 4 0xa798c200 ++ leList 4 0 = exportedHead ++ leList 4 (crc32 exportedHead).toNat ++ leList 4 0
    rw [exported_crc]
    decide +kernel

/-- With `exported_ok` for the bytes it reads. -/
theorem witness_Queues_import :
    let z (b : List Byte) : Bool := (zeroFault b fun o => decide (o < 0x0A) || (decide (0x10 ≤ o) && decide (o < 0x28))).isNone;
    (∃ x s1 b, (placed 0xB000 exported (commanded [(0, 1, 6), (8, 1, 255), (9, 1, 9), (0x10, 8, 0xB000)])).begins 0 0 6 x s1 b ∧
      (z b && ((s1.startCmd x b).devRead x.ctx 0xB000 256).any fun r => r.2 == exported && (r.1.queue? 0 9).isNone && (r.1.vf 0).part.isSome &&
        (r.1.vf 0).plugin.isNone && r.1.ctxs.all fun c => c.num != 0) = true) ∧
    (∃ x s1 b, (commanded [(0, 1, 6), (0x10, 8, 0xB000)]).begins 0 0 6 x s1 b ∧
      (z b && ((s1.startCmd x b).devRead x.ctx 0xB000 256).any fun r => !importOk r.2) = true) ∧
    Begun [(0, 1, 6), (0x10, 8, 0x0200000000000000)] 6 (fun x s1 b => z b && ((s1.startCmd x b).devRead x.ctx 0x0200000000000000 256).isNone) ∧
    (({ device with queues := [{ queue0 with num := 9 }] } : State).queue? 0 9).isSome ∧ (device.vf 3).part = none :=
  ⟨begins_of (by decide +kernel), begins_of (by decide +kernel), begins_of (by decide +kernel), by decide +kernel⟩

theorem witness_Queues_unknown : ∀ op ∈ [0, 8, 255], ∃ x s1 b, (commanded [(0, 1, op)]).queue? 0 0 = some x ∧ (commanded [(0, 1, op)]).mayFetch x = true ∧
    (commanded [(0, 1, op)]).readCmd x = some (s1, b) ∧ (fieldAt b 0 1 = 0 ∨ 8 ≤ fieldAt b 0 1) ∧ x.started = [] := by
  have of {op : Nat} (h : beginsB (commanded [(0, 1, op)]) 0 0 op (fun x _ b => (fieldAt b 0 1 == 0 || decide (8 ≤ fieldAt b 0 1)) && x.started.isEmpty) = true) :
      ∃ x s1 b, (commanded [(0, 1, op)]).queue? 0 0 = some x ∧ (commanded [(0, 1, op)]).mayFetch x = true ∧
        (commanded [(0, 1, op)]).readCmd x = some (s1, b) ∧ (fieldAt b 0 1 = 0 ∨ 8 ≤ fieldAt b 0 1) ∧ x.started = [] := by
    obtain ⟨x, s1, b, h, p⟩ := begins_of h
    simp only [Bool.and_eq_true, Bool.or_eq_true, beq_iff_eq, decide_eq_true_eq, List.isEmpty_iff] at p
    exact ⟨x, s1, b, h.queue, h.fetches, h.reads, p.1, p.2⟩
  intro op h
  simp only [List.mem_cons, List.not_mem_nil, or_false] at h
  rcases h with rfl | rfl | rfl <;> exact of (by decide +kernel)

/-- A grid of a queue whose teams have all left. -/
def doneGrid (addr : Nat) : State :=
  { device with queues := [queue0], grids := [{ key := 7, vf := 0, ctx := 1, origin := .queue 0 0, record := { doneAddr := addr }, nextTeam := 1 }] }

theorem witness_Queues_complete : ∀ addr ∈ [0, 0xA000, 0x0200000000000000],
    ((doneGrid addr).grid? 7).any (fun g => g.origin == .queue 0 0 && (doneGrid addr).gridDone g) = true ∧
    (addr = 0 ∨ (((doneGrid addr).publishCtx 1).devWrite 1 addr (leList 8 0)).isSome = decide (addr = 0xA000)) := by decide +kernel

theorem witness_Queues_interrupts :
    (let x : Queue := { queue0 with irqPend := 3, irqTime := 32, irqSince := 968000 };
      ({ device with queues := [x] } : State).queue? 0 0 = some x ∧ x.irqPend ≠ 0 ∧ x.irqSince + 1000 * (x.irqTime : Int) ≤ (device.tick : Int) ∧
      (device.tick : Int) < x.irqSince + 1 + 1000 * (x.irqTime : Int)) ∧
    (∀ k ∈ device.harts, ∀ f ∈ k.files, f.addr ≠ 0x28000000) ∧
    (let s : State := { device with harts := [{ num := 0, files := [{ num := 0, addr := 0x28000000 }] }] }; ∃ k ∈ s.harts, ∃ f ∈ k.files, f.addr = 0x28000000) := by
  decide +kernel

/-! Slalom tables -/

/-- A command of queue 0 over a slalom table. -/
def tabled (t : Slalom) (fs : List (Nat × Nat × Nat)) : State := (commanded ((0, 1, 4) :: fs)).updSlalom 0 fun _ => t

/-- The TABLE command is started, with a condition on the fields and the table. -/
abbrev Tabled (t : Slalom) (fs : List (Nat × Nat × Nat)) (p : List Byte → Slalom → Bool) : Prop :=
  ∃ x s1 b, (tabled t fs).begins 0 0 4 x s1 b ∧
    (x.sh.qpriv.getLsbD 0 && (zeroFault b tableKeep).isNone && p b ((s1.startCmd x b).part ((s1.startCmd x b).partOfVf 0)).slalom) = true

/-- A gate of queue 0. -/
def gate0 : Gate := { vf := 0, queue := 0, offset := 100, deadline := 500, template := 0x200, policy := 0 }

/-- A table running since tick 0 with a cycle of 1000 ticks. -/
def running0 (g : Gate) : Slalom := { active := true, cycleNs := 1000, epoch := 0, gates := [(3, g)] }

theorem witness_SlalomTable_denied : ∀ top ∈ [0, 1, 2],
    let s := placed 0x9000 (fields 128 [(0, 1, 4), (8, 1, top)]) { device with queues := [{ queue0 with sh := { queue0.sh with qpriv := 0 } }] };
    ∃ x s1 b, s.begins 0 0 4 x s1 b ∧ (!x.sh.qpriv.getLsbD 0 && (zeroFault b tableKeep).isNone && fieldAt b 8 1 == top) = true := by
  intro top h
  simp only [List.mem_cons, List.not_mem_nil, or_false] at h
  rcases h with rfl | rfl | rfl <;> exact begins_of (by decide +kernel)

theorem witness_SlalomTable_setGate :
    Tabled (running0 gate0) [(8, 1, 3)] (fun b _ => fieldAt b 8 1 == 3) ∧
    Tabled (running0 gate0) [(0x10, 4, 1000), (0x14, 4, 5)] (fun b t => t.active && t.cycleNs == 1000 && fieldAt b 0x10 4 == 1000) ∧
    Tabled (running0 gate0) [(0x10, 4, 999)] (fun b t => t.active && t.cycleNs == 1000 && fieldAt b 0x10 4 == 999 && fieldAt b 0x14 4 == 0) ∧
    Tabled (running0 gate0) [(0x14, 4, 1001)] (fun b t => t.active && t.cycleNs == 1000 && fieldAt b 0x14 4 == 1001) ∧
    Tabled (running0 gate0) [(0x14, 4, 1000), (0x18, 8, 0x20)] (fun b _ => fieldAt b 0x18 8 % 64 == 0x20) ∧
    Tabled (running0 gate0) [(0x14, 4, 1000), (0x18, 8, 0x40), (0x20, 1, 4)] (fun b _ => fieldAt b 0x18 8 % 64 == 0 && fieldAt b 0x20 1 == 4) ∧
    Tabled (running0 { gate0 with vf := 1 }) [(9, 1, 3), (0x14, 4, 1000)] (fun b t => (t.gate? (fieldAt b 9 1)).any fun g => g.vf == 1) ∧
    Tabled (running0 gate0) [(9, 1, 3), (0x14, 4, 1000)] (fun b t => t.active && (t.gate? (fieldAt b 9 1)).any fun g => g.vf == 0) ∧
    Tabled {} [(9, 1, 3), (0x10, 4, 5000), (0x14, 4, 1000), (0x20, 1, 3)] (fun _ t => !t.active && t.pendCycle.isNone && t.gates.isEmpty) :=
  by and_intros <;> exact begins_of (by decide +kernel)

theorem witness_SlalomTable_others :
    Tabled (running0 { gate0 with vf := 1 }) [(8, 1, 1), (9, 1, 3)] (fun b t => (t.gate? (fieldAt b 9 1)).any fun g => g.vf == 1) ∧
    Tabled (running0 gate0) [(8, 1, 1), (9, 1, 3)] (fun b t => t.active && (t.gate? (fieldAt b 9 1)).any fun g => g.vf == 0) ∧
    Tabled { running0 gate0 with active := false } [(8, 1, 1), (9, 1, 3)] (fun b t => !t.active && (t.gate? (fieldAt b 9 1)).any fun g => g.vf == 0) ∧
    Tabled {} [(8, 1, 2), (0x28, 4, 999)] (fun b _ => fieldAt b 0x28 4 == 999) ∧
    Tabled {} [(8, 1, 2), (0x28, 4, 1000), (0x30, 8, 1009999)] (fun b _ => fieldAt b 0x28 4 == 1000 && fieldAt b 0x30 8 == 1009999) ∧
    Tabled {} [(8, 1, 2), (0x28, 4, 1000000000), (0x30, 8, 1010000)] (fun b t => fieldAt b 0x28 4 == 1000000000 && fieldAt b 0x30 8 == 1010000 && t.pendCycle.isNone) ∧
    Tabled { pendCycle := some (1000, 2000000, ⟨0, 1, 0⟩) } [(8, 1, 2), (0x28, 4, 1000), (0x30, 8, 1010000)]
      (fun b t => fieldAt b 0x28 4 == 1000 && fieldAt b 0x30 8 == 1010000 && t.pendCycle == some (1000, 2000000, ⟨0, 1, 0⟩)) ∧
    device.tick + 10000 = 1010000 :=
  by and_intros <;> first | exact rfl | exact begins_of (by decide +kernel)

/-- The device with a table. -/
def running (t : Slalom) : State := ({ device with queues := [queue0] } : State).updSlalom 0 fun _ => t

theorem witness_SlalomTable_boundary :
    (let t (c : Nat) : Slalom := { pendCycle := some (c, 1000000, ⟨0, 0, 0⟩), gates := [(3, gate0)] };
      (((running (t 400)).part 0).slalom = t 400 ∧ (running (t 400)).tick = 1000000 ∧ ¬ gate0.deadline ≤ 400 ∧ (t 400).active = false) ∧
      (((running (t 500)).part 0).slalom = t 500 ∧ (∀ g ∈ (t 500).gates, g.2.offset < 500 ∧ g.2.deadline ≤ 500) ∧ (t 500).pendGates = [])) ∧
    (let t (start : Nat) : Slalom := { running0 gate0 with pendGates := [(3, none, start, ⟨0, 0, 0⟩)] };
      ((running (t 990000)).part 0).slalom = t 990000 ∧ (t 990000).boundary 990000 = 1000000 ∧ (t 990001).boundary 990001 = 1001000 ∧ (t 0).pendCycle = none) ∧
    (0 < (running0 gate0).cycleNs ∧ (running0 gate0).epoch ≤ 0 + 10000 ∧ (running0 gate0).firstInst gate0 1000000 = 1000) := by decide +kernel

/-- A gate that a SETCYCLE of a shorter cycle meets before the old table's next boundary. -/
theorem witness_SlalomTable_conflict :
    let t : Slalom := { running0 gate0 with cycleNs := 3000, pendCycle := some (1000, 999800, ⟨0, 0, 0⟩)
                                            pendGates := [(3, some { gate0 with deadline := 2000 }, 989500, ⟨0, 0, 0⟩)] }
    let k : Started := { idx := 0, op := 4 }
    let s : State := { running t with queues := [{ queue0 with started := [k] }] }
    (s.part 0).slalom = t ∧ t.active = true ∧ 999800 ≤ s.tick ∧ 989500 + 10000 ≤ 999800 ∧ 999800 < t.boundary 989500 ∧ s.tick < t.boundary 989500 ∧
      1000 < 2000 ∧ s.queue? 0 0 = some { queue0 with started := [k] } ∧ k.done = false := by decide +kernel

/-- A template in memory, and the table at an instance due at tick 1,000,000 - 900. -/
def templated (fs : List (Nat × Nat × Nat)) (g : Gate) : State := placed 0x200 (record fs) (running (running0 { g with next := 999 }))

/-- An instance of gate 3 that still runs. -/
def runningGrid : Grid := { key := 7, vf := 0, ctx := 1, origin := .gate 3 998 998100 998600, record := { doneAddr := 0xA000 } }

theorem witness_SlalomTable_instances :
    (let s := templated [] gate0;
      (s.part 0).slalom.gate? 3 = some { gate0 with next := 999 } ∧ (s.part 0).slalom.active = true ∧ 0 + 999 * 1000 + 100 ≤ s.tick ∧
      (s.part 0).slalom.changeDue 999100 = false ∧ s.running? 0 3 = none ∧ (s.queue? 0 0).isSome ∧
      (((s.updSlalom 0 fun t => t.putGate 3 (some { gate0 with next := 1000 })).devRead 1 0x200 256).any fun r =>
        (recordFault r.2 queue0.signalAt).isNone && (parseRecord r.2).paramBytes == 0) = true) ∧
    ((templated [] { gate0 with offset := 100000 }).tick < 999 * 1000 + 100000 ∧ (0x240 + 1) % 64 ≠ 0 ∧ device.devRead 1 0x0200000000000000 256 = none) ∧
    (let s := templated [(0, 4, 0)] gate0;
      (((s.updSlalom 0 fun t => t.putGate 3 (some { gate0 with next := 1000 })).devRead 1 0x200 256).any fun r =>
        (recordFault r.2 queue0.signalAt).isSome) = true) ∧
    (let s (a : Nat) := templated [(0x80, 8, a), (0x88, 4, 16)] gate0;
      ∀ a ∈ [0x1000, 0x0200000000000000], (((s a).updSlalom 0 fun t => t.putGate 3 (some { gate0 with next := 1000 })).devRead 1 0x200 256).any (fun r =>
        (recordFault r.2 queue0.signalAt).isNone && (parseRecord r.2).paramBytes == 16 && (r.1.devRead 1 (parseRecord r.2).paramBase 16).isSome == (a == 0x1000)) = true) ∧
    (({ templated [] gate0 with queues := [] } : State).queue? 0 0 = none ∧ ({ templated [] gate0 with queues := [] } : State).running? 0 3 = none) ∧
    ({ templated [] gate0 with grids := [runningGrid] } : State).running? 0 3 = some runningGrid := by decide +kernel

theorem witness_SlalomTable_ends :
    (∀ addr ∈ [0, 0xA000, 0x0200000000000000],
      let k : Grid := { runningGrid with record := { doneAddr := addr }, nextTeam := 1 }
      let s : State := { templated [] gate0 with grids := [k] };
      s.running? 0 3 = some k ∧ s.gridDone k = true ∧ (∀ g, (s.part 0).slalom.gate? 3 = some g → g.deferred = none) ∧
      (addr = 0 ∨ ((s.publishCtx 1).devWrite 1 addr (leList 8 0)).isSome = decide (addr = 0xA000))) ∧
    (let d : Deferred := { n := 998, nominal := 998100, deadline := 998600 };
      (templated [] { gate0 with deferred := some d }).running? 0 3 = none ∧ d.missed = false ∧ d.deadline ≤ device.tick ∧ device.tick < 1000001 ∧
      ((templated [] { gate0 with deferred := some d }).part 0).slalom.gate? 3 = some { gate0 with deferred := some d, next := 999 }) ∧
    (runningGrid.missed = false ∧ 998600 ≤ (templated [] gate0).tick) := by decide +kernel

/-! Teams -/

/-- A grid of queue 0 with one vector warp per team. -/
def someGrid (f : LRec → LRec) : Grid :=
  { key := 5, vf := 0, ctx := 1, origin := .queue 0 0, cls := 1, remaining := 2
    record := f { entryVec := some 4, warpsVec := 1, regsVec := 16, gridX := 2, gridY := 1, gridZ := 1, prioClass := 1, weight := 1
                  fslot := List.replicate 8 0, barrier := List.replicate 16 0 } }

/-- A team of that grid. -/
def someTeam (k : Nat) (pl : Place) : Team :=
  { key := k, grid := 5, ctx := 1, index := k - 6, place := pl, warps := [freshWarp 0 .vector 0 0 4], barriers := List.replicate 16 {} }

/-- The device with that grid and some of its teams. -/
def teamed (f : LRec → LRec) (ts : List Team) : State :=
  { device with grids := [someGrid f], teams := ts, nextKey := 20, queues := [queue0] }

/-- A team all of whose lanes wait. -/
def waiting (k : Nat) (pl : Place) (w : Wait) : Team :=
  { someTeam k pl with warps := [{ freshWarp 0 .vector 0 0 4 with lanes := List.replicate 32 { wait := w } }] }

/-- A team whose lanes have all finished. -/
def finished (k : Nat) (pl : Place) : Team :=
  { someTeam k pl with warps := [{ freshWarp 0 .vector 0 0 4 with lanes := List.replicate 32 { life := .finished } }] }

/-- A team that fills all registers of core 0's pipes. -/
def bigGrid : Grid := { someGrid id with key := 4, ctx := 1, cls := 2, record := { (someGrid id).record with regsVec := 2048, warpsVec := 4 }, nextTeam := 1 }
def bigTeam (c : Nat) : Team := { someTeam (10 + c) (.on c none) with grid := 4, index := c, placeSeq := c
                                                                      warps := (List.range 4).map fun p => freshWarp p .vector p 0 4 }

/-- Every core of the partition is full. -/
def crowded : State :=
  { teamed id ((List.range 8).map bigTeam) with
    grids := [someGrid id, bigGrid] }

/-- Nothing fits: no class has a candidate, and a class has a turn. -/
theorem witness_TeamsMove_stuck : (∀ h, h < 4 → crowded.pickClass (crowded.part 0) h = none) ∧ (crowded.part 0).places = true ∧
    (device.part 0).places = true ∧ ∀ h, h < 4 → device.pickClass (device.part 0) h = none := by decide +kernel

theorem witness_TeamsMove_place :
    (let s := teamed id [waiting 9 (.on 1 none) .retry];
      (s.part 0).places = true ∧ s.pickClass (s.part 0) 0 = none ∧ (s.pickClass (s.part 0) 1).any (fun r => !r.1.resumed && r.2.2.length == 1) = true ∧
      s.team? s.nextKey = none ∧ (s.grid? 5).any (fun g => g.requeued == []) = true) ∧
    (freshWarps (someGrid id).record ⟨0, 0, none, [0], [], 0, 0⟩).length = 1 ∧ ((teamed id []).coreFit 0 (someGrid id).record fun _ => false) = some ([0], 0) ∧
    (let s := crowded.updPart 0 fun p => { p with headSince := some (5, 0, 900000) };
      (s.headCand (s.part 0)).any (fun c => c.grid.key == 5 && c.first == 0 && (s.findSpots (s.part 0) c.grid c.idx (fun _ => false) []).isNone &&
        (s.reservable (s.part 0) c).isSome) = true ∧
      (s.part 0).headSince = some (5, 0, 900000) ∧ (s.part 0).reserve = none ∧ (∃ q ∈ s.parts, q.num = 0) ∧ 900000 + 100000 ≤ s.tick ∧ s.tick < 900001 + 100000) := by
  decide +kernel

theorem witness_TeamsMove_park :
    (let t : Team := { waiting 9 (.on 1 none) (.empty [(3, 0)]) with parkSince := some 999000 }
      let s := teamed (fun r => { r with parkTicks := 1000 }) [t];
      s.team? 9 = some t ∧ s.groupOf t = [t] ∧ s.parkable t = true ∧ s.saveNeed t ≤ s.cloakFree (s.partOf t) ∧
      (let s' := s.updPart 0 fun p => { p with cloakSize := 100 }; s'.parkable t = true ∧ s'.cloakFree (s'.partOf t) < s'.saveNeed t) ∧
      s.parkable { t with parkSince := some 999001 } = false) ∧
    (let t := someTeam 9 .parked; (teamed id [t]).team? 9 = some t ∧ (teamed id [t]).groupOf t = [t] ∧ t.place = .parked ∧
      ∃ w ∈ t.warps, ∃ k ∈ w.lanes, k.ready = true) ∧
    (∀ w ∈ (waiting 9 .parked (.empty [(3, 0)])).warps, ∀ k ∈ w.lanes, k.ready = false) ∧
    (let c : CopyOp := { key := 40, kind := .cpy, team := 9, core := 1, tok := 0, hcur := 0, tick := 0, es := 1, src := 0, dst := 0, dims := [], internal := false, clamped := false, jobs := [{ line := 3 }] };
      ∃ x ∈ ({ teamed id [waiting 9 .parked (.empty [(3, 0)])] with copies := [c] } : State).copies, x.team = 9 ∧ ∀ j ∈ x.jobs, j.fault = none) := by
  refine ⟨?_, ?_, ?_, _, .head _, ?_⟩ <;> decide +kernel

theorem witness_TeamsMove_preempt :
    ((crowded.requester (crowded.part 0)).any (fun r => r.2.length == 1 && (crowded.vf r.1.grid.vf).plugin.isNone) = true ∧
      (let w (g : LRec → LRec) : Option Way := (chooseWay ((teamed g [someTeam 9 (.on 0 none)]).ways [someTeam 9 (.on 0 none)]) 4000).map Prod.fst;
        w (fun r => { r with estCycles := 500 }) = some .drain ∧ w id = some .save ∧ w (fun r => { r with restartable := true, scratchBytes := 524288 }) = some .flush) ∧
      chooseWay [] 0 = none ∧ chooseWay [(.save, 2000, 4000), (.flush, 1000, 9000)] 100 = some (.flush, 1000, 9000)) ∧
    (let t : Team := { someTeam 9 (.on 0 none) with leaving := .drain (some 1000000) }
      let s := teamed id [t];
      s.team? 9 = some t ∧ s.groupOf t = [t] ∧ (s.grid? t.grid).isSome = true ∧ t.core? = some 0 ∧ s.tick < 1000001 ∧ s.saveNeed t ≤ s.cloakFree (s.partOf t)) ∧
    (let s := (teamed (fun r => { r with restartable := true }) [someTeam 9 (.on 0 none)]).updPart 0 fun p => { p with cloakSize := 0 }
      let t := someTeam 9 (.on 0 none);
      s.cloakFree (s.partOf t) < s.saveNeed t ∧ (s.grid? t.grid).any (fun g => g.record.restartable) = true) := by decide +kernel

theorem witness_TeamsMove_leave :
    (let t : Team := { waiting 9 (.on 1 none) (.empty [(3, 0)]) with leaving := .save true }
      let s := teamed id [t];
      s.team? 9 = some t ∧ t.core? = some 1 ∧ t.lastCommit + 200 ≤ s.tick ∧ s.pend = [] ∧ s.cores.all (fun k => k.hold == []) = true ∧ s.groupOf t = [t] ∧ s.copies = [] ∧
      (let u := { finished 9 (.on 1 none) with leaving := .save false }
        let v : State := { teamed id [u] with pend := [{ key := 30, team := 9, warp := 0, bytes := 4, signed := false, atomic := false, tick := 0, lanes := [{ lane := 3, row := 8, val := none }] }] };
        v.team? 9 = some u ∧ (∀ p ∈ v.pend, p.team = 9 ∧ p.warp = 0) ∧ (u.warpAt 0).any (fun w => (w.lane 3).life == .finished) = true) ∧
      ¬ ({ t with lastCommit := 999801 } : Team).lastCommit + 200 ≤ s.tick) ∧
    (let s := teamed id [finished 9 (.on 1 none), waiting 10 (.on 1 none) .retry]
      let t := finished 9 (.on 1 none);
      s.team? 9 = some t ∧ t.core? = some 1 ∧ (∀ w ∈ t.warps, w.finished = true) ∧ s.copies = [] ∧ s.cores.all (fun k => k.matq == [] && k.hold == []) = true ∧
      s.resolving = [] ∧ t.lastCommit + 200 ≤ s.tick ∧ (s.grid? t.grid).isSome = true ∧ ¬ (∀ w ∈ (someTeam 9 (.on 1 none)).warps, w.finished = true)) := by decide +kernel

/-! Checks and errors -/

/-- The checked warp in a state whose step fetches a word, with the warp and core 0 changed. -/
def atCheck (w : Nat) (fw : Warp → Warp) (fc : Core → Core) : State :=
  { ((onWarps fw (State.reset.withFetchWord 32 w)).updCore 0 fc) with go := false, tick := 5000 }

/-- The state as CHECK of its warp finds it. -/
def picked (s : State) : State := s.chosen 0 0

/-- The state fetches, and the issue meets a condition. -/
def fetchesB (s : State) (p : Iss → Instr → Bool) : Bool :=
  match (picked s).fetched with
  | .ok i ins _ => (s.orphanNow 0 0).isNone && (picked s).warpOf i == some i.warp && ((picked s).slotFor i).isSome && p i ins
  | _ => false

/-- CHECK finds an instruction, and the issue meets a condition. -/
abbrev Fetches (s : State) (p : Iss → Instr → Bool) : Prop :=
  ∃ i ins u, s.orphanNow 0 0 = none ∧ (picked s).fetched = .ok i ins u ∧ (picked s).warpOf i = some i.warp ∧
    ((picked s).slotFor i).isSome = true ∧ p i ins = true

theorem fetches_of {s : State} {p : Iss → Instr → Bool} (h : fetchesB s p = true) : Fetches s p := by
  cases e : (picked s).fetched <;> simp only [fetchesB, e, Bool.and_eq_true, beq_iff_eq, Option.isNone_iff_eq_none, Bool.false_eq_true] at h
  exact ⟨_, _, _, h.1.1.1, e, h.1.1.2, h.1.2, h.2⟩

/-- The warp after `n` mismatches in a row of its instruction, `walk` instructions of walk mode to go. -/
def missed (walk n : Nat) : State := atCheck 0 (fun w => { w with walk := walk, streak := if n = 0 then [] else [(0, 0, w.entry, n)] }) id

/-- The walks and streaks a difference tells apart. -/
theorem witness_ChecksAndErrors_check :
    (∀ q ∈ [(0, 0), (0, 6), (0, 7), (64, 0)], Fetches (missed q.1 q.2) fun i _ =>
      i.active.contains 31 && i.warp.walk == q.1 && i.streak i.core == q.2 && i.team.cores == [i.core] && (((missed q.1 q.2).core i.core).inj.toNat % 4 != 1)) ∧
    (Fetches (atCheck 0x100A1010 id fun k => { k with inj := 13 }) fun i ins =>
      !i.movement && !writesNoV ((picked (atCheck 0x100A1010 id fun k => { k with inj := 13 })).checkedAs i ins).1 && i.active.contains (13 / 4 % 32) &&
        i.team.cores == [i.core] && ((atCheck 0x100A1010 id fun k => { k with inj := 13 }).core i.core).inj.toNat == 13 && i.warp.walk == 0) ∧
    (Fetches ((missed 0 0).updTeam 0 fun t => { t with place := .on 0 (some 1) }) fun i _ =>
      i.team.cores == [0, 1] && i.active.contains 31 && i.warp.walk2 == 0 && i.streak 1 == 0) ∧
    (match (picked State.reset).fetched with
      | .idle => true
      | _ => false) = true ∧ State.reset.orphanNow 0 0 = none ∧
    (match (picked (atCheck 0xFF000001 id id)).fetched with
      | .bad i _ _ => ((picked (atCheck 0xFF000001 id id)).slotFor i).isSome
      | _ => false) = true ∧
    (match (picked ((missed 0 0).updCtx 1 fun c => { c with satp := 10 * 2 ^ 60 })).fetched with
      | .page i => ((picked ((missed 0 0).updCtx 1 fun c => { c with satp := 10 * 2 ^ 60 })).slotFor i).isSome
      | _ => false) = true ∧
    (match (picked { onRecord (fun r => { r with codeBase := 2 ^ 48 }) (missed 0 0) with peers := [⟨1, 5, 1⟩], links := [{ num := 0, up := true }] }).fetched with
      | .away _ ls => ls == [2 ^ 48]
      | _ => false) = true ∧
    (let s := atCheck 0 (fun w => { w with checks := [9, 9, 9, 7] }) id; (picked s).issue.any fun i => ((picked s).slotFor i).isNone) = true ∧
    (((missed 0 0).updCtx 1 fun c => { c with nodes := [{ id := 3, st := .refuted, parent := 0, depth := 1, atDir := true, core := 0 }] }).updTeam 0 fun t =>
      { t with warps := t.warps.map fun w => { w with lanes := w.lanes.map fun l => { l with hcur := 3 } } }).orphanNow 0 0 ≠ none := by
  refine ⟨?_, fetches_of (by decide +kernel), fetches_of (by decide +kernel), by decide +kernel, by decide +kernel, by decide +kernel, by decide +kernel, by decide +kernel, by decide +kernel,
    by decide +kernel⟩
  intro q h
  simp only [List.mem_cons, List.not_mem_nil, or_false] at h
  rcases h with rfl | rfl | rfl | rfl <;> exact fetches_of (by decide +kernel)

/-- Cycles of a cluster after an alarm at cycle 3, and at the floor from cycle 3 on; an issue in a cycle that is open. -/
theorem witness_ChecksAndErrors_cycles :
    (let c : Cluster := { num := 0, alarm := some 3 }; ∀ n ∈ [4, 9, 10, 73, 74], c.alarm = some 3 ∧ (n ≤ 3 + 6 ∨ 3 + 6 < n)) ∧
    (let c : Cluster := { num := 0, floorFrom := some 3 }; c.alarm = none ∧ c.floorFrom = some 3) ∧
    ((picked (missed 0 0)).issue.any fun i => ((picked (missed 0 0)).slotFor i).isSome) = true := by decide +kernel

/-- The undo log of a commit of team 6. -/
def oldCommit (tick pc : Nat) (scratch : List (Nat × Byte)) : Undo :=
  { tick := tick, team := 6, warps := [freshWarp 0 .vector 0 0 pc], rings := [], barriers := [], absent := [], ops := [], mmaCount := 0, mmapCount := 0
    scratch := scratch, tiles := [], freed := [] }

/-- A team on core 0 with two commits less than 200 ticks old and one older. -/
def struck (cores : Option Nat) : State :=
  { (teamed id [someTeam 6 (.on 0 cores), waiting 7 (.on 2 none) .retry]).updCore 0 fun k => { k with
      undo := [oldCommit 999950 7 [(3, 1)], oldCommit 999901 6 [], oldCommit 999800 5 []]
      hold := [{ tick := 999800, team := 6, warp := 0, eff := .store 1 0 [] none }, { tick := 999950, team := 6, warp := 0, eff := .store 1 0 [] none }] } with
    tick := 1000000 }

theorem witness_ChecksAndErrors_strikes :
    (let s := struck none
      let named (c : Nat) : Bool := c / 4 == 0 && (1#4).getLsbD (c % 4);
      (∃ u, s.team? 6 = some u ∧ (u.cores.any named) = true ∧ (s.commitsSince u (s.tick - 199)).length = 2) ∧
      (∃ u, s.team? 7 = some u ∧ (s.teams.all fun v => v.key != 7 || v.cores.all fun c => !named c) = true)) ∧
    (let s := struck (some 1);
      ∃ t, s.team? 6 = some t ∧ 2 ≤ t.cores.length ∧
        ((warpCommits 0 t (s.commitsSince t (s.tick - 100)))[1]?).any (fun u => (findKey Warp.id 0 u.warps).any fun w => !w.dual) = true) ∧
    (let s : State := { struck (some 1) with cores := (struck (some 1)).cores.map fun k => { k with undo := k.undo.map fun u => { u with
        warps := u.warps.map fun w => { w with dual := true } } } };
      ∃ t, s.team? 6 = some t ∧ ((warpCommits 0 t (s.commitsSince t (s.tick - 100)))[1]?).any (fun u => (findKey Warp.id 0 u.warps).any (·.dual) &&
        ((s.rollBack ((s.teams.filter fun x => x.cores.any t.cores.contains).map Team.key) u.tick).team? 6).any fun v => (v.warpAt 0).any fun x => (issueOf (s.rollBack ((s.teams.filter fun x => x.cores.any t.cores.contains).map Team.key) u.tick) v x).isSome) = true) ∧
    ((device.updCore 3 fun k => { k with degraded := true }).core 3).degraded = true := by
  refine ⟨⟨⟨_, rfl, ?_⟩, ⟨_, rfl, ?_⟩⟩, ⟨_, rfl, ?_⟩, ⟨_, rfl, ?_⟩, ?_⟩ <;> decide +kernel

/-- The state an instruction leads to. -/
def after (ins : Instr) (s : State) : State :=
  match exec ins s with
  | .next t => t
  | _ => s

/-- The other core of a pair, and a team that has ended with a held effect; the posting of a record. -/
theorem witness_ChecksAndErrors_hit :
    (∃ v ∈ (struck (some 1)).teams, 0 ∈ v.cores ∧ ∃ d ∈ v.cores, d / 4 = 0 ∧ (2#4).getLsbD (d % 4) = true) ∧
    (let s : State := { struck none with teams := [someTeam 6 .gone] }; ∃ u, s.team? 6 = some u ∧ u.place = .gone ∧ ∃ h ∈ (s.core 0).hold, h.team = 6) ∧
    (∃ r, ({ device with diags := [r] } : State).diags = r :: []) :=
  ⟨⟨_, .head _, by decide +kernel⟩, ⟨_, rfl, by decide +kernel⟩, ⟨{ vf := 0, queue := 255, gate := 255, cause := 1, serial := 0, bytes := [] }, rfl⟩⟩

theorem witness_ChecksAndErrors_words : (4#32 &&& 3 = 0) ∧ (7#32 &&& 3 = 3) ∧ (5#32 &&& 3 = 1) ∧ (6#32 &&& 3 = 2) ∧ (1#4 ≠ 0) ∧ (0x1234567#25).toNat < 2 ^ 25 ∧
    (let e : Instr := .eccCorrected (.channel 5) (some 0x1234567) ⟨none, none⟩;
      ((after e (after e device)).chan 5).estimate 0x1234567 = 2 ∧ (device.chan 5).estimate 0x1234567 = 0) ∧
    unitOk (.channel 384) = false ∧ unitOk (.slice 5) = true ∧ unitOk (.channel 5) = true ∧ plain.errVf (.core 0) (some 0) none = some 0 := by decide +kernel

theorem witness_ChecksAndErrors_memory :
    (∀ b, let s := teamed (fun r => { r with restartable := b }) [someTeam 9 (.on 0 none)];
      ∃ t g, s.team? 9 = some t ∧ t.place ≠ .gone ∧ s.grid? t.grid = some g ∧ g.record.restartable = b ∧ g.ctx = t.ctx ∧ g.ended = false ∧
        s.teams.filter (fun t => t.cores.contains 0) = [t] ∧ (∀ u ∈ s.teams, 5 ∉ u.cores)) ∧
    unitOk (.core 5) = true ∧ (∃ p ∈ device.parts, p.num = device.unitPart (.channel 3)) ∧ unitOk (.channel 3) = true ∧
    (let s := device.updCore 5 fun k => { k with dirty := [{ ctx := 1, tag := 0, loc := 0x100005, val := 7, tick := 0 }] };
      (∃ d ∈ (s.core 5).dirty, lineOf d.loc = lineOf 0x100000) ∧ ∀ d ∈ (s.core 5).dirty, lineOf d.loc ≠ lineOf 0x100080) ∧
    (∃ p ∈ device.parts, p.num = 0) ∧ (∀ p ∈ device.parts, p.num ≠ 1) ∧ (device.part 0).owns 0x100000 = true := by
  refine ⟨?_, by decide +kernel⟩
  intro b
  cases b <;> exact ⟨_, _, rfl, by decide +kernel, rfl, by decide +kernel⟩

/-! The hold and returning values -/

/-- Core 1 holds one effect of team 7, 200 ticks old, and one core-dirty byte. -/
def holding (e : Eff) : State :=
  (teamed id [{ someTeam 7 (.on 2 none) with scratch := [(9, 9)] }]).updCore 1 fun k => { k with
    hold := [{ tick := 999800, team := 7, warp := 0, eff := e }, { tick := 999990, team := 7, warp := 0, eff := .store 1 0 [] none }]
    dirty := [{ ctx := 1, tag := 0, loc := 0x100005, val := 3, tick := 995000 }] }

/-- One lane's atomic of a warp. -/
def oneAtom : AtomReq := { key := 30, aop := .add, bytes := 4, ret := true, row := 8, parts := [{ lane := 2, loc := 0x100080, x := 5, cmp := 0, tag := 0, drop := false }] }

theorem witness_HoldAndFills_leaving :
    (∀ e ∈ [Eff.store 1 0 [(0x100010, 7), (0x100010, 8)] none, .store 1 0 [(0x100010, 7)] (some .device), .fence 40 true .device, .cctl none,
        .hall 7 [(9, 1), (10, 2)] none, .atom 1 none none oneAtom, .resolve ⟨50, 1, 3, true, 7, 0, 0, 8, 0, false, 0⟩, .node 1 3],
      ((holding e).core 1).hold.head? = some { tick := 999800, team := 7, warp := 0, eff := e } ∧ 999800 + 200 ≤ (holding e).tick ∧
        (holding e).mustStay 1 e = false) ∧
    ((∃ u, (holding (.cctl none)).team? 7 = some u ∧ u.place ≠ .gone)) ∧
    ((∀ p ∈ oneAtom.parts, p.tag = 0 ∧ p.drop = false ∧ p.loc < 2 ^ 48 ∧ p.loc + oneAtom.bytes ≤ 2 ^ 48) ∧
      ∀ k ∈ (holding (.cctl none)).cores, ∀ d ∈ k.dirty, ∀ p ∈ oneAtom.parts, d.loc / 128 ≠ p.loc / 128) ∧
    (let e : Eff := .store 1 0 [(0x100010, 7)] (some .system)
      let s := (holding e).updCore 1 fun k => { k with dirty := [{ ctx := 1, tag := 0, loc := 2 ^ 48 + 5, val := 3, tick := 995000 }] };
      e.systemRelease = true ∧ s.peerDirty 1 ≠ [] ∧ (holding e).peerDirty 1 = []) ∧
    (let s := struck none; (∃ u ∈ (s.core 0).undo, u.tick + 200 ≤ s.tick) ∧ ¬ (∃ u ∈ (s.core 2).undo, u.tick + 200 ≤ s.tick) ∧ s.dueOn 0 = []) ∧
    (((holding (.cctl none)).core 1).stsSys = false ∧ ((holding (.cctl none)).cluster 0).fused = none ∧
      (((holding (.cctl none)).updCluster 0 fun c => { c with fused := some 1 }).cluster 0).fused = some 1) ∧
    ((device.core 0).hold = [] ∧ (holding (.cctl none)).tick < 999801 + 200) := by
  refine ⟨by decide +kernel, ⟨_, rfl, by decide +kernel⟩, ?_, ?_, ?_, ?_, ?_⟩ <;> decide +kernel

/-- A load of two registers by lanes 0 and 2, and an atomic, with their registers empty. -/
def loading (atomic : Bool) (v : Option Nat) : State :=
  { (teamed id [{ someTeam 7 (.on 2 none) with warps := [{ freshWarp 0 .vector 0 0 4 with
        lanes := List.replicate 32 ({ regs := [(8, { fill := .empty (.access 30) }), (9, { fill := .empty (.access 30) }), (12, { val := 5 })] } : Lane) }] }]) with
    pend := [{ key := 30, team := 7, warp := 0, bytes := 8, signed := false, atomic := atomic, tick := 999000, lanes := [{ lane := 0, row := 8, val := some (2 ^ 32 + 7) }, { lane := 2, row := 8, val := v }] }] }

theorem witness_HoldAndFills_filling :
    (∀ a, (((loading a (some 9)).pend.find? fun p => p.key == 30 && p.atomic == a).any fun p => p.lanes.all (·.val.isSome)) = true ∧
      ∃ u w, (loading a (some 9)).team? 7 = some u ∧ u.warpAt 0 = some w ∧ srising (w.lane 2).regs = true ∧ (w.lane 2).life ≠ .finished ∧ ((w.lane 2).cell 9).fill = .empty (.access 30) ∧
        ((w.lane 2).cell 12).fill ≠ .empty (.access 30)) ∧
    ∀ a, (((loading a none).pend.find? fun p => p.key == 30 && p.atomic == a).any fun p => p.lanes.any (·.val.isNone)) = true := by
  refine ⟨?_, by decide +kernel⟩
  intro a
  cases a <;> exact ⟨by decide +kernel, _, _, rfl, rfl, by decide +kernel⟩

/-! Engines -/

/-- Team 7 on core 2 with a movement program and some scratchpad bytes. -/
def engined (f : Team → Team) : State :=
  teamed (fun r => { r with scratchBytes := 4096, accTiles := 1, entryMsq := some 0, fslot := List.replicate 8 6 }) [f { someTeam 7 (.on 2 none) with
    warps := [freshWarp 0 .vector 0 0 4, freshWarp 32 .movement 0 0 0], scratch := [(0, 1), (1, 2), (2, 3)] }]

/-- A copy of 16 bytes from the start of the scratchpad. -/
def copy0 (dst line : Nat) (phys : Option Nat) : CopyOp :=
  { key := 40, kind := .cpy, team := 7, core := 2, tok := 3, hcur := 0, tick := 0, es := 1, src := 0x01F0000000000000, dst := dst
    dims := [⟨16, 1, 1, 16, false⟩], internal := phys.isNone, clamped := false, jobs := [{ line := line, phys := phys }], left_ := true }

/-- The same, its destination in the scratchpad. -/
def landing : State :=
  { engined (fun t => { t with absent := [(8, [40])] }) with copies := [copy0 0x01F0000000000400 (0x01F0000000000400 / 128) none] }

/-- The same, its destination in memory. -/
def writing : State :=
  { engined id with copies := [copy0 0x100400 (0x100400 / 128) (some (0x100400 / 128))], owned := [⟨40, 1, 0, 0x100400 / 128⟩] }

/-- What an operation's line comes to. -/
def lineOfCopy (s : State) (line : Nat) (p : Iss → CopyOp → Bool) : Bool :=
  match s.copies.find? fun c => c.key == 40 with
  | none => false
  | some op => (match s.opIss op with
    | none => false
    | some i => (op.jobs.find? fun j => j.line == line && !j.done).isSome && s.mayWrite op line && p i op)

/-- Whether a line's sources are read. -/
def readsLine (s : State) (i : Iss) (op : CopyOp) (line : Nat) : Bool :=
  match s.readLine i op line with
  | .ready _ _ => true
  | _ => false

/-- Whether the read of a line ends at a poisoned source, or at an address it may not have. -/
def failsLine (s : State) (line : Nat) (poisoned : Bool) : Bool :=
  lineOfCopy s line fun i op => match s.readLine i op line with
    | .fail _ p => p == poisoned
    | _ => false

/-- A copy's poisoned source in the scratchpad, toward the scratchpad and toward memory; a source beyond the address space. -/
theorem witness_EnginesRun_sources :
    let bad (s : State) : State := s.updTeam 7 fun t => { t with poison := [0] }
    let odd (s : State) : State := { s with copies := s.copies.map fun c => { c with src := 0x0200000000000000 } }
    failsLine (bad landing) (0x01F0000000000400 / 128) true = true ∧ failsLine (bad writing) (0x100400 / 128) true = true ∧
    failsLine (odd landing) (0x01F0000000000400 / 128) false = true ∧ failsLine (odd writing) (0x100400 / 128) false = true := by
  decide +kernel

theorem witness_EnginesRun_copies :
    lineOfCopy landing (0x01F0000000000400 / 128) (fun i op => decide (landing.opAt i op op.dstKind 0x01F0000000000400 = .own 1024) &&
      ((landing.team? i.team.key).any fun u => u.absent.find? (fun a => a.1 == 8) == some (8, [40])) && readsLine landing i op (0x01F0000000000400 / 128)) = true ∧
    lineOfCopy writing (0x100400 / 128) (fun i op => decide (writing.opTag i op = some 0) && readsLine writing i op (0x100400 / 128) &&
      ((writing.owned.find? fun o => o.line == 0x100400 / 128 && sameTag o.ctx o.tag i.team.ctx 0).all fun o => o.key == 40) && !isPeer 0x100400) = true ∧
    (let op : CopyOp := { copy0 0x100400 8192 none with jobs := [{ line := 8192, done := true }] }
      let s : State := { engined (fun t => { t with warps := t.warps.map fun w => { w with tokens := [{ ops := [40, 41] }] } }) with copies := [op] };
      s.copies.find? (fun c => c.key == 40) = some op ∧ op.left_ = true ∧ (∀ j ∈ op.jobs, j.done = true) ∧ s.asked (fun c => c == 6 || c == 7) 40 = false ∧
        (s.team? 7).any (fun t => t.place != .gone) = true) ∧
    ((device.updCluster 0 fun c => { c with layq := [40] }).cluster 0).layq = [40] ∧ elemAt [⟨4, 2, 3, 2, false⟩] 1 = (2, some 3) := by decide +kernel

/-- A matrix operation of one row, 16 columns and `blocks` K-blocks: A at 0, B at 1024. -/
def mat0 (mode blocks : Nat) : MatOp :=
  { team := 7, warp := 0, lane := 0, row := 8, id := 0x1000001, tick := 0, hcur := 0
    block := fields 64 [(0, 4, mode), (4, 2, 1), (6, 2, 16), (8, 4, 32 * blocks), (0x0C, 4, 0), (0x10, 4, 64), (0x18, 8, 1024), (0x20, 4, 16)] }

/-- The engine of core 2 with an operation. -/
def multiplying (o : MatOp) : State :=
  (engined fun t => { t with
    warps := t.warps.map fun w => { w with lanes := w.lanes.map fun l => { l with regs := [(8, { fill := .empty (.engine 0x1000001) })] } }
    scratch := [(0, 2), (1, 3), (1024, 5), (1040, 7)], tiles := [(tileKey 0 0 0, 100), (tileKey 0 5 5, 9)] }).updCore 2 fun k => { k with matq := [o] }

theorem witness_EnginesRun_matrix :
    (∀ mode ∈ [0, 8], ((multiplying (mat0 mode 1)).core 2).matq = [mat0 mode 1] ∧ (mat0 mode 1).paired = false ∧
      ((multiplying (mat0 mode 1)).team? 7).any (fun t => ((multiplying (mat0 mode 1)).grid? t.grid).any fun g => matOk t g (mat0 mode 1)) = true ∧
      ((multiplying (mat0 mode 1)).team? 7).any (fun t => !t.leaving.saving && unfHere t (mat0 mode 1)) = true) ∧
    ((multiplying (mat0 2 1)).team? 7).any (fun t => ((multiplying (mat0 2 1)).grid? t.grid).any fun g => !matOk t g (mat0 2 1) && !t.leaving.saving && unfHere t (mat0 2 1)) = true ∧
    (let o := { mat0 8 2 with started := true }; ((multiplying o).team? 7).any (fun t => ((multiplying o).grid? t.grid).any fun g =>
        blockPresent t g o t o o.nextK && !o.globalB && o.armed.isEmpty && !t.leaving.saving && decide (o.row0 + o.m ≤ 128 ∧ o.col0 + o.n ≤ 256 ∧ o.nextK + 1 < o.k / 32 ∧ o.fails + 1 < 3)) = true) ∧
    (3 ≤ ({ mat0 8 1 with fails := 2 } : MatOp).fails + 1 ∧ (mat0 8 1).k / 32 ≤ 0 + 1) ∧
    (let s := multiplying (mat0 8 1); ∃ u w, s.team? 7 = some u ∧ u.warpAt 0 = some w ∧ srising (w.lane 0).regs = true ∧
      ((w.lane 0).cell 8).fill = .empty (.engine (mat0 8 1).id)) ∧
    ((multiplying { mat0 8 1 with pairWait := some 0 }).core 2).matq = [{ mat0 8 1 with pairWait := some 0 }] ∧
    ((engined fun t => { t with leaving := .save true }).team? 7).any (fun t => t.leaving.saving) = true ∧
    (let o := { mat0 1 1 with block := fields 64 [(0, 4, 1), (0x2C, 4, 1024)] };
      ((engined fun t => { t with absent := [(8, [40])] }).team? 7).any (fun t => !unfHere t o && !t.leaving.saving) = true) ∧
    ((slotElem 6).int = true) := by
  refine ⟨by decide +kernel, by decide +kernel, by decide +kernel, by decide +kernel, ⟨_, _, rfl, rfl, ?_⟩, ?_, ?_, ?_, ?_⟩ <;> decide +kernel

/-- The engines of cores 2 and 3, which run one dual team. -/
def mirrored (o : MatOp) : State := (multiplying o).updTeam 7 fun t => { t with place := .on 2 (some 3) }

theorem witness_EnginesRun_dual :
    ∀ n ∈ [0, 2], let o := { mat0 8 1 with started := true, fails := n }
      ((mirrored o).core 2).matq = [o] ∧ ((mirrored o).core 3).matq = [] ∧ o.passed = false ∧ o.paired = false ∧ o.globalB = false ∧
      ((mirrored o).team? 7).any (fun t => t.key == 7 && t.place == .on 2 (some 3) && !t.leaving.saving &&
        ((mirrored o).grid? t.grid).any fun g => blockPresent t g o t o o.nextK) = true ∧
      (∀ u ∈ (mirrored o).teams, ∀ v ∈ (mirrored o).teams, u = v) ∧ (o.fails + 1 < 3 ↔ n = 0) := by decide +kernel

/-- One half of an MMAP of teams 6 (core 2) and 7 (core 3), with 16 columns of B. -/
def halfOp (half m : Nat) : MatOp :=
  { team := 6 + half, warp := 0, lane := 0, row := 8, id := 0x2000001, tick := 0, hcur := 0
    block := fields 64 [(0, 4, 8 + 4096 * half), (4, 2, m), (6, 2, 16), (8, 4, 32), (0x0C, 4, 0), (0x10, 4, if half = 0 then 64 else 0),
      (0x18, 8, 1024), (0x20, 4, 16)] }

def halves (o x : MatOp) (f : Team → Team) : State :=
  let rec_ (r : LRec) : LRec := { r with scratchBytes := 4096, accTiles := 1, fslot := List.replicate 8 6, paired := true, pairCycles := 2 }
  ((teamed rec_ [someTeam 6 (.on 2 none), f (someTeam 7 (.on 3 none))]).updCore 2 fun k => { k with matq := [o] }).updCore 3 fun k => { k with matq := [x] }

/-- What the clause on two halves asks for beside the two operations' agreement. -/
def meet (o x : MatOp) (good : Bool) : Bool :=
  let s := halves o x id
  match s.team? 6, s.team? 7, s.grid? 5 with
  | some t, some u, some g => (s.core 2).matq == [o] && s.pairTeam t == some u && s.otherHalf o == some (3, x) && o.paired && x.paired && !o.started &&
      g.record.paired && t.pairFails == 0 && !t.leaving.saving && !u.leaving.saving && unfHere t o && unfHere u x && (s.core 3).matq.head? == some x &&
      (matOk t g o && matOk u g x && halvesAgree g g o x && halfFits t o) == good && o.nextK == 0
  | _, _, _ => false

theorem witness_EnginesRun_halves :
    meet (halfOp 0 1) (halfOp 1 1) true = true ∧ meet (halfOp 0 1) (halfOp 1 2) false = true ∧ meet (halfOp 0 1) (halfOp 1 0) false = true := by decide +kernel

/-- A pair one half of which is saved, and one whose wait is over. -/
theorem witness_EnginesRun_pairWatchdog :
    let o := { halfOp 0 1 with started := true, pairWait := some 0 }
    let s (f : Team → Team) : State := (halves o (halfOp 1 1) f).updCluster 0 fun c => { c with kcyc := 2000 };
    ((s fun u => { u with leaving := .save true }).team? 6).any (fun t => ((s fun u => { u with leaving := .save true }).pairTeam t).any fun u => u.leaving.saving) = true ∧
    ((s id).team? 6).any (fun t => !t.leaving.saving && ((s id).pairTeam t).all fun u => !u.leaving.saving) = true ∧
    0 + 1000 * 2 ≤ ((s id).cluster 0).kcyc ∧ ((s id).grid? 5).any (fun g => g.record.pairCycles == 2) = true ∧ ((s id).core 2).matq = [o] := by decide +kernel

/-! Faults and resolves -/

/-- A fault-queue entry of function 0. -/
def fault0 : FaultEntry := { serial := 9, ctx := 1, page := 0x300, stage := 1, kind := 0, va := 0x300000 }

/-- Function 0 with that entry, a plug-in or none, and an event ring. -/
def faulty (p : Option Plugin) (base : DWord) : State :=
  (teamed id [{ someTeam 7 (.on 2 none) with warps := [{ freshWarp 0 .vector 0 0 4 with lanes := List.replicate 32 { wait := .fault (some 9) 4 } }] }]).updVf 0 fun v =>
    { v with faults := [fault0], plugin := p, evtBase := base }

theorem witness_FaultsAndResolves_faults :
    ((faulty none 0).vf 0).faults.find? (fun e => e.serial == 9 && !e.posted) = some fault0 ∧ ((faulty none 0).vf 0).plugin = none ∧
    (let p : Plugin := { image := [], entry := 0, control := 0, faults := 15 };
      ((faulty (some p) 0).vf 0).plugin = some p ∧ p.disabled = false ∧ p.expired = false) ∧
    (let s := (faulty none 0).updVf 0 fun v => { v with faults := [{ fault0 with stage := 2 }] };
      (s.vf 0).faults.find? (fun e => e.serial == 9 && !e.posted) = some { fault0 with stage := 2 } ∧ (s.vf 0).plugin = none) ∧
    (faulty none 0).copies = [] ∧
    (∀ e ∈ [(true, false), (true, true), (false, true)], let p : Plugin := { image := [], entry := 0, control := 0, disabled := e.1, expired := e.2 };
      ((faulty (some p) 0).vf 0).plugin = some p ∧ (p.expired = true ∨ p.disabled = true)) ∧
    (let e := { fault0 with posted := true, repost := some 1000000 }
      let s := (faulty none 0).updVf 0 fun v => { v with faults := [e] };
      (s.vf 0).faults.find? (fun e => e.serial == 9) = some e ∧ 1000000 ≤ s.tick ∧ s.tick < 1000001) ∧
    (((faulty none 0x700000).vf 0).evtBase ≠ 0 ∧ ((faulty none 0x700000).vf 0).evtTail - ((faulty none 0x700000).vf 0).evtHead ≠ 128 ∧
      (faulty none 0x700000).ringCtx 0 = some 1 ∧
      ((faulty none 0x700000).devWrite 1 0x700000 (eventBytes 1000000 1 2 3 4 [])).isSome = true) := by decide +kernel

/-- A call that stores nothing runs to its end, one that stores outside its data does not. -/
theorem witness_FaultsAndResolves_calls (s : State) : let p : Plugin := { image := [], entry := 0, control := 0, faults := 15 };
    (s.callPlugin 0 p [2, 0, 9, 0, 1, 0x300000] []).2 = true ∧ (s.callPlugin 0 p [2, 0, 9, 0, 1, 0x300000] [(plugDataAt 0, 7)]).2 = false := by
  simp [State.callPlugin, plugStores]

/-- A context with an open node 3, and a child 4 of it, and their versions. -/
def guessed (confirm : Bool) (id : Nat) : State :=
  { teamed (fun r => { r with trapEntry := 12 }) [{ someTeam 7 (.on 2 none) with warps := [{ freshWarp 0 .vector 0 0 4 with
      lanes := List.replicate 32 { hcur := 3, regs := [(8, { fill := .empty (.engine 0x6000002) })] } }] }] with
    ctxs := [{ num := 1, vf := 0, nodes := [⟨3, .open_, 0, 1, true, 0, none, 0, false⟩, ⟨4, .open_, 3, 2, true, 0, none, 0, false⟩] }]
    vers := [⟨1, 3, [(0x100005, 3)]⟩, ⟨1, 4, [(0x100005, 4)]⟩, ⟨2, 3, [(0x100005, 5)]⟩]
    resolving := [⟨50, 1, id, confirm, 7, 0, 0, 8, 2, false, 0⟩] }

theorem witness_FaultsAndResolves_resolves :
    (∀ c, ((guessed c 3).resolving.find? fun r => r.key == 50 && !r.applied).any (fun r => ((guessed c 3).ctx r.ctx).resolvable r.id) = true ∧
      ((guessed c 3).resolving.find? fun q => q.ctx == 1 && !q.applied).map Resolve.key = some 50) ∧
    ((guessed true 7).ctx 1).resolvable 7 = false ∧
    (((guessed true 3).ctx 1).node? 3).any (fun n => n.parent == 0) = true ∧ (∀ k ∈ (guessed true 3).cores, k.dirty = []) ∧
    (guessed true 3).vers.filter (fun w => w.ctx == 1 && w.id == 3) = [⟨1, 3, [(0x100005, 3)]⟩] ∧
    (((guessed false 3).ctx 1).under 3 256 4 = true ∧ ((guessed false 3).ctx 1).nodes.all (fun n => n.atDir) = true ∧ (⟨2, 3, [(0x100005, 5)]⟩ : Version) ∈ (guessed false 3).vers) ∧
    ((guessed true 3).resolving.find? fun q => q.ctx == 2 && !q.applied).map Resolve.key ≠ some 50 ∧
    (let s := after (.resolvePoint 50) (guessed true 3)
      let r : Resolve := ⟨50, 1, 3, true, 7, 0, 0, 8, 2, true, statusOK⟩;
      s.resolving.find? (fun r => r.key == 50 && r.applied) = some r ∧ ((s.ctx 1).node? 3).any (fun n => n.st == .resolving && n.fate == some true) = true ∧ s.holds 1 3 = true ∧ r.serial < 2 ^ 24 ∧
      ∃ u w, s.team? 7 = some u ∧ u.warpAt 0 = some w ∧ srising (w.lane 5).regs = true ∧ (w.lane 5).life ≠ .finished ∧ ((w.lane 5).cell 8).fill = .empty (.engine (6 * 2 ^ 24 + r.serial))) := by
  and_intros
  all_goals first | decide +kernel | exact ⟨_, _, rfl, rfl, by decide +kernel⟩

/-- The undo log of core 2 is full. -/
def logFull (s : State) : State := s.updCore 2 fun k => { k with undo := List.replicate 2048 (oldCommit 999999 4 []) }

/-- A lane under a refuted id. -/
def orphaned : State :=
  { guessed true 3 with
    ctxs := [{ num := 1, vf := 0, nodes := [⟨3, .refuted, 0, 1, true, 0, some false, 0, false⟩] }]
    teams := (guessed true 3).teams.map fun t => { t with warps := t.warps.map fun w => { w with lanes := w.lanes.zipIdx.map fun p => { p.1 with hcur := if p.2 = 5 then 3 else 0 } } } }

theorem witness_FaultsAndResolves_orphans : ∃ i, orphaned.laneIss 7 0 5 0 = some i ∧
    (decide (5 < i.warp.lanes.length) && (i.warp.lane 5).life == .live && (i.warp.lane 5).handler.isNone && i.team.core?.isSome && (i.warp.lane 5).hcur != 0 &&
      (orphaned.ctx i.team.ctx).stateOf (i.warp.lane 5).hcur.toNat == .refuted && !undoFull orphaned i && i.grid.record.trapEntry != 0 &&
      (i.warp.lane 4).hcur == 0) = true := any_of (by decide +kernel)

theorem witness_FaultsAndResolves_log : ((logFull orphaned).laneIss 7 0 5 0).any (undoFull (logFull orphaned)) = true := by decide +kernel

/-- A barrier some warp has waited on since tick `f`, and a team of another context. -/
def stuckAt (f : Nat) : State :=
  let t : Team := { someTeam 7 (.on 2 none) with barriers := List.replicate 16 { firstWait := some f } }
  { teamed (fun r => { r with dogTicks := 5000 }) [t, { someTeam 8 (.on 3 none) with grid := 6, ctx := 2 }] with
    grids := [someGrid fun r => { r with dogTicks := 5000 }, { someGrid id with key := 6, ctx := 2 }], ctxs := [{ num := 1, vf := 0 }, { num := 2, vf := 0 }] }

/-- A WAITC of one clock condition by lane 5. -/
def watching (tick : Nat) (deadline : Option Nat) : State :=
  { teamed id [{ someTeam 7 (.on 2 none) with warps := [{ freshWarp 0 .vector 0 0 4 with
      lanes := List.replicate 32 { regs := [(8, { fill := .empty (.waitc 60) }), (9, { val := 5 })] } }] }] with
    waitcs := [{ key := 60, team := 7, warp := 0, lane := 5, row := 8, all := true, conds := [⟨6, 0, 0, 0, tick⟩], hcur := 0, deadline := deadline, lastEval := 0 }] }

theorem witness_FaultsAndResolves_waits :
    (∃ t g, (stuckAt 990000).team? 7 = some t ∧ (stuckAt 990000).grid? t.grid = some g ∧ (t.bar 3).firstWait = some 990000 ∧ t.savedAt = none ∧ t.place ≠ .gone ∧
      g.record.dogTicks = 5000 ∧ g.ctx = t.ctx ∧ g.ended = false ∧ 990000 + (t.bar 3).paused + 5000 ≤ (stuckAt 990000).tick ∧
      (stuckAt 999000).tick < 999000 + 0 + 5000) ∧
    (∃ u, (stuckAt 990000).team? 8 = some u ∧ u.place ≠ .gone ∧
      ∀ w ∈ (stuckAt 990000).teams, w.key = 8 → ∀ h ∈ (stuckAt 990000).grids, h.key = w.grid → h.ctx ≠ 1) ∧
    (∀ q ∈ [(0, none), (2000000, none), (2000000, some 1000000), (2000000, some 1000001), (0, some 1000000)],
      ((watching q.1 q.2).waitcs.find? fun w => w.key == 60).any (fun w => w.deadline == q.2 && ((watching q.1 q.2).watcher w.team w.warp w.lane).any fun i =>
        modeHolds w.all (usedBits w.conds) ((watching q.1 q.2).condBits i w.lines w.lane w.hcur w.conds 0).2 == decide (q.1 = 0) &&
          !w.conds.any ((watching q.1 q.2).watchAbsent i w.lane) && srising (i.warp.lane 5).regs && (i.warp.lane 5).life != .finished && ((i.warp.lane 5).cell 8).fill == .empty (.waitc 60)) = true) := by
  refine ⟨⟨_, _, rfl, rfl, ?_⟩, ⟨_, rfl, ?_⟩, ?_⟩ <;> decide +kernel

/-! Links and the clock -/

/-- A flit: its first bytes, its payload's zeros and its CRC. -/
def sealed (body : List Byte) : List Byte := body ++ leList 4 (crc32 body).toNat

/-- A flit's first 252 bytes. -/
def flitBody (seq ack cls : Nat) : List Byte := fields 252 [(0, 2, seq), (2, 2, ack), (4, 1, cls)]

theorem leNum_leList (n : Nat) : ∀ k, leNum (leList k n) = n % 2 ^ (8 * k) := by
  intro k
  induction k generalizing n with
  | zero => simp [leList, leNum, Nat.mod_one]
  | succ k ih =>
    have e : leList (k + 1) n = BitVec.ofNat 8 n :: leList k (n / 256) := rfl
    rw [e]
    show (BitVec.ofNat 8 n).toNat + 256 * leNum (leList k (n / 256)) = _
    rw [ih, BitVec.toNat_ofNat]
    have : (2 : Nat) ^ (8 * (k + 1)) = 256 * 2 ^ (8 * k) := by rw [Nat.mul_succ, Nat.pow_add]; omega
    rw [this, Nat.mod_mul]

/-- A sealed flit carries the CRC of its first 252 bytes. -/
theorem sealed_good (seq ack cls : Nat) : (sealed (flitBody seq ack cls)).length = 256 ∧
    fieldAt (sealed (flitBody seq ack cls)) 252 4 = (crc32 ((sealed (flitBody seq ack cls)).take 252)).toNat := by
  have h : (flitBody seq ack cls).length = 252 := by simp [flitBody, fields]
  have l : ∀ n, (leList 4 n).length = 4 := fun _ => rfl
  refine ⟨by simp [sealed, h, l], ?_⟩
  unfold sealed fieldAt
  rw [List.drop_left' h, List.take_left' h, List.take_of_length_le (by simp [l]), leNum_leList]
  exact Nat.mod_eq_of_lt (crc32 (flitBody seq ack cls)).isLt

/-- The bytes after a flit's header do not move its fields. -/
theorem sealed_field (seq ack cls o n : Nat) (h : o + n ≤ 252) : fieldAt (sealed (flitBody seq ack cls)) o n = fieldAt (flitBody seq ack cls) o n := by
  have l : (flitBody seq ack cls).length = 252 := by simp [flitBody, fields]
  unfold sealed fieldAt
  rw [List.drop_append_of_le_length (by omega), List.take_append_of_le_length (by simp; omega)]

/-- The device with one link up that has received up to sequence number `rx`. -/
def linked (f : Link → Link) : State :=
  { teamed id [{ someTeam 7 (.on 2 none) with warps := [freshWarp 0 .vector 0 0 4, { freshWarp 32 .movement 0 0 0 with tokens := [{ ops := [41, 42] }] }] }] with
    links := [f { num := 0, up := true, rxSeq := 17 }], peers := [{ num := 1, ident := 1, mask := 1 }] }

/-- Flits in order, with the requests of peers; a gap and a duplicate; a flit whose CRC is wrong. -/
theorem witness_LinksAndClock_flits :
    (∀ cls ∈ [0, 1, 2, 3, 4, 5, 6, 7, 8, 9], let b := flitBody 17 0 cls;
      fieldAt b 0 2 % 4096 = 17 ∧ fieldAt b 2 2 / 2 ^ 12 % 4 = 0 ∧ fieldAt b 4 1 = cls) ∧
    (∀ nack, ((linked fun l => { l with nack := nack }).link? 0).any (fun l => l.carries && l.rxSeq == 17 && l.nack == nack) = true) ∧
    (fieldAt (flitBody 18 0 0) 0 2 % 4096 = 18 ∧ sub12 18 17 < 2048) ∧ (fieldAt (flitBody 16 0 0) 0 2 % 4096 = 16 ∧ 2048 ≤ sub12 16 17) ∧
    (∀ k ∈ (linked id).cores, k.dirty = []) ∧ (linked id).servable 0x100000 32 = true ∧ (linked id).servable 0x00BFFFFFFFE1 32 = false ∧
    (linked id).servable 0x00BFFFFFFFE0 32 = true ∧ (linked id).poison.contains (lineOf 0x100000) = false ∧
    ({ linked id with poison := [lineOf 0x100000] } : State).poison.contains (lineOf 0x100000) = true ∧ (linked id).servable 0x00C000000000 1 = false := by
  refine ⟨by decide +kernel, ?_, by decide +kernel⟩
  intro n
  cases n <;> decide +kernel

/-- What another device sent with a wrong CRC. -/
theorem witness_LinksAndClock_crc (flit : List Byte) (h : flit.length = 256) : ∃ bad : List Byte, bad.length = 256 ∧
    ¬ fieldAt bad 252 4 = (crc32 (bad.take 252)).toNat := by
  by_cases g : fieldAt flit 252 4 = (crc32 (flit.take 252)).toNat
  · let n := (crc32 (flit.take 252)).toNat + 1
    have t : (flit.take 252).length = 252 := by simp [h]
    have l : ∀ n, (leList 4 n).length = 4 := fun _ => rfl
    refine ⟨flit.take 252 ++ leList 4 n, by simp [t, l], ?_⟩
    unfold fieldAt
    rw [List.drop_left' t, List.take_left' t, List.take_of_length_le (by simp [l]), leNum_leList]
    have := (crc32 (flit.take 252)).isLt
    omega
  · exact ⟨flit, h, g⟩

/-- A held read request toward peer 1. -/
def flit0 (seq tag : Nat) : Flit := { seq := seq, cls := 1, peer := 1, line := 0, msg := .read 0 tag 0 128 }

theorem witness_LinksAndClock_retries :
    (let l : Link := { num := 0, up := true, buf := [flit0 4094 30, flit0 4095 31, flit0 0 32] };
      (sub12 4095 4094 + 1) % 4096 = 2 ∧ (l.acked 4095).buf.length = 1 ∧ l.acked 4093 = l ∧ (l.acked 0).buf = [] ∧ l.acked 1 = l) ∧
    (∀ n ∈ [0, 6, 7], let s := linked fun l => { l with buf := [flit0 4094 30], fails := n };
      (s.link? 0).any (fun l => l.carries && (l.acked 4000).buf.length == 1 && (l.acked 4000).fails == n && (l.acked 4094).buf == []) = true ∧ s.stranded = []) ∧
    ((linked fun l => { l with retrainAt := some 5 }).link? 0).any (fun l => !l.carries) = true ∧
    (let s := linked fun l => { l with retrainAt := some 0, buf := [flit0 4094 30, { flit0 4095 31 with peer := 2 }] };
      (s.link? 0).any (fun l => l.retrainAt == some 0 && l.buf.length == 2) = true ∧ 0 + 1000000 ≤ s.tick ∧ s.tick < 1 + 1000000 ∧
        ∀ y ∈ s.links, y.num < 16 ∧ (y.num ≠ 0 → y.carries = false)) := by decide +kernel

/-- A request of a copy and one of lane 2's load. -/
def asked0 (cls : Nat) (who : Asker) : Ask := { tag := 41, cls := cls, peer := 1, line := lineOf (2 ^ 48 + 128), who := who }

/-- A copy's write has waited 10 ms for a link toward peer 1. -/
def waited : Flit := { seq := 0, cls := 6, peer := 1, line := lineOf (2 ^ 48 + 128), msg := .write 0 41 [] }
def unreached (f : Link → Link) : State :=
  { linked f with tick := 10000000, stranded := [{ peer := 1, since := some 0, flits := [waited] }], asks := [asked0 6 (.copy 2 41)]
                  copies := [{ copy0 0x100400 (0x100400 / 128) none with key := 41 }] }

/-- A load of lane 2 from peer 1. -/
def away : Pend := { key := 30, team := 7, warp := 0, bytes := 4, signed := false, atomic := false, tick := 0, lanes := [{ lane := 2, row := 8, val := none, loc := 2 ^ 48 + 132 }] }

theorem witness_LinksAndClock_lost :
    (let s := unreached fun l => { l with up := false };
      (s.stranded.find? fun w => w.peer == 1) = some ⟨1, some 0, [waited]⟩ ∧ s.upLinks 1 = [] ∧ 0 + 10000000 ≤ s.tick ∧ s.tick < 1 + 10000000 ∧
      requestTag waited.msg = some 41 ∧ s.asks.find? (fun a => a.tag == 41) = some (asked0 6 (.copy 2 41)) ∧
      (s.copies.find? fun c => c.key == 41).any (fun op => op.team == 7) = true ∧ (s.team? 7).any (fun t => t.place != .gone) = true) ∧
    (unreached id).upLinks 1 = [0] ∧
    (let a := asked0 1 (.thread 2 7 0 30)
      let s : State := { linked id with pend := [away], asks := [a] };
      s.asks.find? (fun x => x.tag == 41 && x.cls == 1) = some a ∧ s.pend.find? (fun p => p.key == 30) = some away ∧ away.lanes.filter a.serves = away.lanes ∧
        ((s.team? 7).bind fun t => t.warpAt 0).any (fun w => (w.lane 2).life == .live) = true) ∧
    (let a := asked0 1 (.hart 0); ({ linked id with asks := [a] } : State).asks.find? (fun x => x.tag == 41 && x.cls == 1) = some a) := by decide +kernel

/-- One link toward peer 1 takes a flit, and none does while it retrains or where flits wait already. -/
theorem witness_LinksAndClock_answers :
    (linked id).peers.find? (fun p => p.ident == 1) = some { num := 1, ident := 1, mask := 1 } ∧
    ((∀ w ∈ (linked id).stranded, w.peer ≠ 1) ∧ ∃ l, (linked id).linkFor waited = some l ∧ (linked id).link? l.num = some l) ∧
    (∃ w ∈ (unreached id).stranded, w.peer = 1) ∧ (linked fun l => { l with retrainAt := some 5 }).linkFor waited = none := by
  have one : ∀ s : State, s.upLinks waited.peer = [0] → s.linkFor waited = s.links.find? fun l => l.num == 0 && l.carries && decide (l.buf.length < 64) &&
      !(s.links.any fun k => k.num != 0 && k.buf.any fun g => g.line == waited.line) := fun s h => by
    simp only [State.linkFor, h, List.length_singleton, Nat.max_self, Nat.mod_one]; rfl
  have found : ((linked id).links.find? fun l => l.num == 0 && l.carries && decide (l.buf.length < 64) &&
      !((linked id).links.any fun k => k.num != 0 && k.buf.any fun g => g.line == waited.line)) = some { num := 0, up := true, rxSeq := 17 } := by decide +kernel
  exact ⟨by decide +kernel, ⟨by decide +kernel, _, (one _ (by decide +kernel)).trans found, by decide +kernel⟩, by decide +kernel,
    (one _ (by decide +kernel)).trans (by decide +kernel)⟩

theorem witness_LinksAndClock_ptp :
    (let s : State := { device with ptp := { ethernet := true, running := true, domain := 3, t2 := some 5, t3 := some 6, seq := 9, locked := true } };
      s.ptp.running = true ∧ s.ptp.t2 ≠ none ∧ s.ptp.t3 ≠ none ∧ s.ptp.seq = 9 ∧ 4 ≠ s.ptp.domain ∧ s.ptp.ethernet = true ∧ false ≠ s.ptp.ethernet) := by decide +kernel

/-- Application cores 0, started, and 1, stopped, of the device with its peer. -/
def hart0 : Hart := { num := 0, status := .started, mode := .s }

/-- The device with its peer, whose line of 0x100000 an engine owns. -/
def ownedBy : State := { linked id with owned := [⟨1, 0, 0, lineOf 0x100000⟩] }

/-- Whether an access of core 0 reaches places that a test passes. -/
def reaches (s : State) (k : Kind) (va n : Nat) (p : List (Nat × List (Nat × Nat) × Option HartTlb) → Bool) : Bool :=
  match s.hartRange hart0 k va n with
  | .ok ps => p ps
  | .error _ => false

/-- Every place lies on the device, untraced, in a line without poison that no engine owns. -/
def nearBy (s : State) (ps : List (Nat × List (Nat × Nat) × Option HartTlb)) : Bool :=
  !ps.isEmpty && ps.all fun p => p.2.1.isEmpty && !isPeer p.1 && !s.poison.contains (lineOf p.1) && s.owned.all fun o => o.line != lineOf p.1

/-- A peer's requests of each class reach free and owned lines; the held one is free once the line is. -/
theorem witness_LinksAndClock_requests :
    (∀ q ∈ [(1, PeerMsg.read 1 5 0x100000 32), (3, .write 1 5 [(0x100000, 7)]), (6, .write 1 5 [(0x100000, 7)]), (7, .write 1 5 [(0x100000, 7)]),
        (4, .atom 1 5 4 .add [(0x100000, 1, 0)])],
      inClass q.1 q.2 = true ∧ (linked id).reqHeld (linked id).reqs q.2 = false ∧ ownedBy.reqHeld ownedBy.reqs q.2 = true ∧
      (let s : State := { linked id with reqs := [q] }; s.reqHeld [] q.2 = false ∧ s.reqHeld s.reqs q.2 = true) ∧
      ({ ownedBy with reqs := [q] } : State).reqHeld [] q.2 = true) ∧
    (∀ who ∈ [Asker.hart 0, .code 1], let a := asked0 1 who; ({ linked id with asks := [a] } : State).asks.find? (fun x => x.tag == 41 && x.cls == 1) = some a) ∧
    (∀ cls ∈ [1, 3, 4], let a := asked0 cls (.hart 0); a.who = .hart 0 ∧ a.cls = cls ∧ (linked id).hart? 0 = some hart0 ∧ hart0.status = .started) := by
  decide +kernel

theorem witness_LinksAndClock_harts :
    (linked id).hart? 0 = some hart0 ∧ hart0.status = .started ∧ (∀ h, (linked id).hart? 1 = some h → h.status ≠ .started) ∧ hart0.await = none ∧
    hart0.calling = false ∧ hart0.fence = [] ∧
    (let s : State := { linked id with asks := [asked0 1 (.hart 0)] };
      ({ hart0 with fence := [41] } : Hart).fence.any (fun t => (s.hartAsks 0).contains t) = true) ∧
    ({ hart0 with await := some ⟨2 ^ 48, 4, false, .x 5, 0, false⟩ } : Hart).await ≠ none ∧ ({ hart0 with calling := true } : Hart).calling = true ∧
    atpMode hart0.roots.1 = 0 ∧ atpMode hart0.roots.2 = 0 ∧ 0x00BFFFFFFFF8 + 8 ≤ 0x00C000000000 ∧ (∀ j < 8, (linked id).torn (0x00BFFFFFFFF8 + j) = false) ∧
    (∀ k ∈ [Kind.read, .write, .atomic], ∀ n ∈ [1, 4, 8], reaches (linked id) k 0x100000 n (nearBy (linked id)) = true) ∧
    (∀ k ∈ [Kind.read, .write], reaches (linked id) k 0x00BFFFFFFFF8 9 (fun _ => true) = false ∧
      reaches ownedBy k 0x100000 4 (fun ps => ps.any fun p => ownedBy.owned.any fun o => o.line == lineOf p.1 && sameTag o.ctx o.tag 0 0) = true) ∧
    (let s : State := { linked id with poison := [lineOf 0x100000] };
      reaches s .read 0x100000 4 (fun ps => ps.all (fun p => p.2.1.isEmpty && !isPeer p.1) && ps.any fun p => s.poison.contains (lineOf p.1)) = true) ∧
    (∀ q ∈ [(2 ^ 48 + 256, true), (2 ^ 48 + 126, false)], reaches (linked id) .read q.1 4 (fun ps => ps.all (fun p => p.2.1.isEmpty) &&
      ps.head?.any (fun p => isPeer p.1 && ps.all (fun r => lineOf r.1 == lineOf p.1) == q.2)) = true) ∧
    (∀ l, ((0, l) ∈ ({ linked id with resv := [(0, lineOf 0x100000)] } : State).resv ↔ l = lineOf 0x100000)) := by
  and_intros <;> first
    | decide +kernel
    | exact fun l => by simp

/-! ## Behaviour: the spec's own examples -/

/-- Registers `d` onward of lane 0, predicates and FSTAT after one instruction over registers set alike in every lane. -/
def ran (ins : Instr) (rm : BitVec 2) (regs : List (Nat × Word)) (ds : List Nat) : List Word × BitVec 7 × BitVec 5 :=
  let s := onLanes (fun _ k => regs.foldl (fun k r => k.setReg r.1 r.2) { k with rm := rm }) (onRecord (fun r => { r with fslot := List.replicate 8 0x13 }) plain)
  match exec ins s with
  | .next t => match (t.team? 0).bind fun t => t.warpAt 0 with
    | some w => (ds.map fun r => ((w.lane 0).cell r).val, (w.lane 0).preds, (w.lane 0).fstat)
    | none => ([], 0, 0)
  | _ => ([], 0, 0)

/-- Examples of 11_isa_control_integer.md: IMULH, IMULHU, IDOT4, IDOT4U, LEA.X8, IMAD64U, BPICK. -/
theorem test_integer_examples :
    (ran (.imulh fr) 0 [(2, 0x80000000), (4, 2)] [8]).1 = [0xFFFFFFFF] ∧ (ran (.imulhu fr) 0 [(2, 0x80000000), (4, 2)] [8]).1 = [1] ∧
    (ran (.idot4 fr) 0 [(2, 0x01FF0280), (4, 0x03030202)] [8]).1 = [0xFFFFFF04] ∧ (ran (.idot4u fr) 0 [(2, 0x01FF0280), (4, 0x03030202)] [8]).1 = [0x404] ∧
    (ran (.leaX8 ⟨8, 4, 10, true, false, false⟩) 0 [(4, 0x10), (5, 1), (10, 0xFFFFFFFD)] [8, 9]).1 = [0xFFFFFFF8, 0] ∧
    (ran (.imad64u ⟨8, 4, 6, true, false, false⟩) 0 [(4, 0x10), (5, 1), (6, 5), (7, 12), (8, 0), (9, 0)] [8, 9]).1 = [0x4C, 1] ∧
    (ran (.bpick fr) 0 [(2, 0x44332211), (4, 0x88776655), (8, 0x03170400)] [8]).1 = [0x44FF5511] ∧
    (ran (.bpick fr) 0 [(2, 0x44332211), (4, 0x88776655), (8, 0x08080100)] [8]).1 = [0x2211] := by decide +kernel

/-- Examples of 12_isa_float_conversion.md: FFMA, FCLASS, FRND of −2.5, FDOT2B. -/
theorem test_float_examples :
    (ran (.ffma fr) 0 [(2, 0x3F800001), (4, 0x3F800001), (8, 0xBF800002)] [8]) = ([0x28800000], 0, 0) ∧
    (ran (.fclass fr1) 0 [(2, 0x80000001)] [8]).1 = [4] ∧ (ran (.fclass fr1) 0 [(2, 0x7F800001)] [8]).1 = [0x100] ∧
    ([(Rm.rne, 0xC0000000#32), (.rtz, 0xC0000000), (.rdn, 0xC0400000), (.rup, 0xC0000000)].all fun q =>
      (ran (.frnd ⟨8, 2, q.1, true, false⟩) 0 [(2, 0xC0200000)] [8]).1 == [q.2]) = true ∧
    (ran (.fdot2b ⟨10, 8, 9, true, false, false⟩) 0 [(8, 0x3F803F80), (9, 0x3F804B80), (10, 0xCB800000)] [10]) = ([0x3F800000], 0, 0) := by decide +kernel

/-- Examples of 12_isa_float_conversion.md: I2F of 16,777,217, F2I of −0.75 and 2^64, F2F of 1 + 2^−8 and 70,000. -/
theorem test_conversion_examples :
    ([(Rm.rne, 0x4B800000#32), (.rtz, 0x4B800000), (.rdn, 0x4B800000), (.rup, 0x4B800001)].all fun q =>
      (ran (.i2f ⟨8, 2, false, false, q.1, true, false⟩) 0 [(2, 16777217)] [8]) == ([q.2], 0, 1)) = true ∧
    ([(Rm.rne, 16#5), (.rtz, 1), (.rdn, 16), (.rup, 1)].all fun q =>
      (ran (.f2i ⟨8, 2, false, true, q.1, true, false⟩) 0 [(2, 0xBF400000)] [8]) == ([0], 0, q.2)) = true ∧
    (ran (.f2i ⟨8, 2, true, false, .rne, true, false⟩) 0 [(2, 0x5F800000)] [8, 9]) = ([0xFFFFFFFF, 0x7FFFFFFF], 0, 16) ∧
    ([(Rm.rne, 0x3F80#32), (.rdn, 0x3F80), (.rup, 0x3F81)].all fun q =>
      (ran (.f2f ⟨8, 2, .bf16, .f32, q.1, true, false⟩) 0 [(2, 0x3F808000)] [8]) == ([q.2], 0, 1)) = true ∧
    (ran (.f2f ⟨8, 2, .f16, .f32, .rne, true, false⟩) 0 [(2, 0x4788B800)] [8]) = ([0x7C00], 0, 5) ∧
    (ran (.f2f ⟨8, 2, .f16, .f32, .rtz, true, false⟩) 0 [(2, 0x4788B800)] [8]).1 = [0x7BFF] := by decide +kernel

/-- The worked example of R376: SCL picks 0x85, CVTN4 narrows and CVTW4 widens the four elements. -/
theorem test_scaled_conversion_example :
    (ran (.scl ⟨21, 2, 3, true, false⟩) 0 [(2, 0x447A0000)] [21]).1 = [0x85] ∧
    (ran (.cvtn4 ⟨.sat, 1, 9, 12, 20, 3⟩) 0 [(12, 0x447A0000), (13, 0xC0400000), (14, 0x3F000000), (15, 0x43FA0000), (20, 0x8580), (9, 0)] [9]) =
      ([0x7425BA7C], 0, 1) ∧
    (ran (.cvtw4 ⟨1, 16, 9, 20, 3⟩) 0 [(9, 0x7425BA7C), (20, 0x8580)] [16, 17, 18, 19]).1 = [0x44700000, 0xC0480000, 0x3F020000, 0x43F00000] := by
  decide +kernel

/-- A warp of every lane runs the first instruction of a program: `ISETP.lt p1, v3, v2`, from its word, by one step. -/
theorem test_step_isetp :
    (match step (withReg 3 (fun l => BitVec.ofNat 32 l) (withReg 2 (fun _ => 5) (State.reset.withFetchWord 32 0x37240C10))) with
      | .next t => ((t.team? 0).bind fun t => t.warpAt 0).map fun w => w.lanes.map fun k => (k.pc, k.preds)
      | _ => none) = some ((List.range 32).map fun l => (1, if l < 5 then 2 else 0)) := by decide +kernel

/-- The example of R305: two K-blocks of an E4M3 operation. -/
theorem test_matrix_example :
    let row : List (Nat × Byte) := [(0, 0x58), (1, 0x58), (2, 1), (32, 0x7E)]
    let col : List (Nat × Byte) := [(1024, 0x58), (1040, 0xD8), (1056, 1), (1536, 0x7E)]
    let o : MatOp := { mat0 0 2 with started := true }
    let s := onRecord (fun r => { r with fslot := List.replicate 8 3 }) ((multiplying o).updTeam 7 fun t => { t with scratch := row ++ col, tiles := [] })
    let at0 (s : State) : Option Word := (s.team? 7).map fun t => t.tileWord 0 0 0
    (at0 (after (.kBlockComplete 2 false) s), at0 (after (.kBlockComplete 2 false) (after (.kBlockComplete 2 false) s))) =
      (some 0x36800000, some 0x48440000) := by decide +kernel

/-- The example of R275: H2, a child of H1, is confirmed into H1 and H1 into committed data. -/
theorem test_hypothesis_example :
    let s : State := { placed 0x100000 [0x11, 0x22, 0x33, 0x44] device with
      ctxs := [{ num := 1, vf := 0, nodes := [⟨1, .open_, 0, 1, true, 0, none, 0, false⟩, ⟨2, .open_, 1, 2, true, 0, none, 0, false⟩] }]
      vers := [⟨1, 1, [(0x100001, 0xAA)]⟩, ⟨1, 2, [(0x100002, 0xBB)]⟩]
      resolving := [⟨50, 1, 2, true, 0, 0, 0, 0, 0, false, 0⟩, ⟨51, 1, 1, true, 0, 0, 0, 0, 1, false, 0⟩] }
    let t := after (.resolvePoint 50) s
    (memBytes t.mem 0x100000 4, t.vers.map Version.id, memBytes (after (.resolvePoint 51) t).mem 0x100000 4) =
      ([0x11, 0x22, 0x33, 0x44], [1], [0x11, 0xAA, 0xBB, 0x44]) := by decide +kernel

/-- The team of the examples of R180 and R195. -/
def exampleRecord : LRec :=
  { (someGrid id).record with entryMat := some 8, entryMsq := some 12, warpsVec := 8, warpsMat := 4, regsVec := 64, regsMat := 256, accTiles := 2
                              scratchBytes := 196608, estCycles := 400000, restartable := true }

/-- The example of R180: the pipes of the twelve warps on an empty core, and the lines of a second and a third team. -/
theorem test_placement_example :
    let team (k : Nat) (l : Nat) (ps : List Nat) : Team := { someTeam k (.on 0 none) with warps := freshWarps exampleRecord ⟨0, 0, none, ps, [], l, 0⟩, line := l }
    let s (ts : List Team) : State := teamed (fun _ => exampleRecord) ts
    let ps := [0, 1, 2, 3, 0, 1, 2, 3, 0, 1, 2, 3]
    (s []).coreFit 0 exampleRecord (fun _ => false) = some (ps, 0) ∧
    (s [team 7 0 ps]).coreFit 0 exampleRecord (fun _ => false) = some (ps, 1536) ∧
    (s [team 7 0 ps, team 8 1536 ps]).coreFit 0 exampleRecord (fun _ => false) = none := by decide +kernel

/-- The example of R195: latency and cost of drain, save and flush. -/
theorem test_ways_example :
    let t : Team := { someTeam 7 (.on 0 none) with execBase := 340000000 }
    (((teamed (fun _ => exampleRecord) [t]).updCluster 0 fun c => { c with mhz := 1700 }).ways [t]) =
      [(.drain, 35295, 0), (.save, 5274, 10548), (.flush, 1000, 201000)] := by decide +kernel

/-- The example of R164: a record that passes, and INT8 with block scales in FSLOT[2]. -/
theorem test_launch_record_example :
    let r (slot2 : Nat) : List Byte := fields 256 [(0, 4, 0x00010000), (4, 4, 1), (0x10, 4, 0x40), (0x14, 4, 0xFFFFFFFF), (0x18, 4, 0xFFFFFFFF),
      (0x20, 1, 8), (0x24, 2, 64), (0x30, 4, 1), (0x34, 4, 1), (0x38, 4, 1), (0x3C, 1, 1), (0x3D, 1, 1), (0x3E, 1, 1), (0x44, 4, 0x13), (0x48, 4, slot2),
      (0x60, 2, 0x1008), (0xAC, 1, 1), (0xB0, 8, 0x10000000), (0xB8, 4, 256), (0xBC, 4, 1), (0xF0, 8, 0xA040)]
    recordFault (r 0) queue0.signalAt = none ∧ recordFault (r 0x16) queue0.signalAt = some 0x48 := by decide +kernel

/-- CORE_INJK keeps bits [15:0] of what the monitor writes (R237). -/
theorem test_core_injk : ((after (.registerWrite ⟨.garax, (.coreInjk 0)⟩ 0x12345) reached).core 0).injK = 0x2345 := by decide +kernel

end Sys2Proof.Machine

end
end

section
/-! What an unlisted key of the state's lists reads as, and the reset state assembled from that. -/
namespace Sys2Proof.Machine

/-! ## Unlisted keys -/

@[simp] theorem sget_nil (d : α) (a : Nat) : sget d [] a = d := rfl

@[simp] theorem memByte_nil (a : Nat) : memByte [] a = 0 := sget_nil _ _

@[simp] theorem findKey_nil (key : α → Nat) (n : Nat) : findKey key n [] = none := rfl

/-- A cluster that nothing has written holds its reset values (R104, R105). -/
theorem State.cluster_of_findKey_none {s : State} {n : Nat} (h : findKey Cluster.num n s.clusters = none) :
    s.cluster n = { num := n } := by simp [State.cluster, h]

/-- A partition that nothing has written holds its reset values (R104). -/
theorem State.part_of_findKey_none {s : State} {n : Nat} (h : findKey Part.num n s.parts = none) :
    s.part n = { num := n } := by simp [State.part, h]

/-- No warp selected, nothing to issue (log 2). -/
theorem State.issue_of_sel_none {s : State} (h : s.sel = none) : s.issue = none := by simp [State.issue, h]

/-! ## Power registers of a cluster (R104, R105) -/

theorem Cluster.boostperm_of_no_grant {c : Cluster} (hg : c.holdsGrant = false) (hf : c.fallen = false) :
    c.boostperm = c.permits := by simp [Cluster.boostperm, hg, hf]

theorem Cluster.clkratio_of_no_switch {c : Cluster} (h : c.switchEnd = none) : c.clkratio = c.ratio := by
  simp [Cluster.clkratio, h]

theorem Cluster.cslope_of_fields_zero {c : Cluster} (hw : c.waveWarps = 0) (hs : c.stepCycles = 0) : c.cslope = 0 := by
  simp [Cluster.cslope, hw, hs]

/-! ## Registers and predicates of a lane (R308) -/

/-- A lane that lists no row reads 0 and full in every row. -/
theorem Lane.cell_of_regs_nil {k : Lane} (h : k.regs = []) (r : Nat) : k.cell r = {} := by simp [Lane.cell, h]

/-- Where p0 to p6 are false, only the constant p7 reads true. -/
theorem Lane.pred_iff_of_preds_zero {k : Lane} (h : k.preds = 0) (p : BitVec 3) : k.pred p = true ↔ p = 7 := by
  simp [Lane.pred, h]

/-! ## The reset state -/

theorem State.reset_cluster (n : Nat) : State.reset.cluster n = { num := n } := cluster_of_findKey_none (findKey_nil ..)

theorem State.reset_part (n : Nat) : State.reset.part n = { num := n } := part_of_findKey_none (findKey_nil ..)

/-- Settles O6: an unlisted byte, cluster, partition or register row reads as its reset value, and at reset nothing is listed
and no warp is selected. -/
theorem resetState : Obligations.ResetState := by
  unfold Obligations.ResetState
  refine ⟨rfl, rfl, rfl, rfl, rfl, rfl, rfl, rfl, rfl, rfl, memByte_nil, State.issue_of_sel_none rfl, fun n => ?cluster,
    fun n => ?part, fun r p => ?lane⟩
  case cluster =>
    rw [State.reset_cluster]
    exact ⟨rfl, rfl, rfl, rfl, rfl, rfl, rfl, Cluster.boostperm_of_no_grant rfl rfl, Cluster.clkratio_of_no_switch rfl,
      rfl, rfl, Cluster.cslope_of_fields_zero rfl rfl⟩
  case part =>
    rw [State.reset_part]
    exact ⟨rfl, rfl, rfl, rfl, rfl, rfl, rfl, rfl⟩
  case lane =>
    have hcell : ({} : Lane).cell r = {} := Lane.cell_of_regs_nil rfl r
    exact ⟨congrArg Cell.val hcell, congrArg Cell.fill hcell, Lane.pred_iff_of_preds_zero rfl p,
      rfl, rfl, rfl, rfl, rfl, rfl, rfl, rfl, rfl⟩

end Sys2Proof.Machine
end

section
/-! What one written byte leaves of memory and of reservations (R22, R45, R254). -/
namespace Sys2Proof.Machine

/-- A byte set to the default is not listed. -/
theorem ne_of_mem_sset_default [DecidableEq α] (d : α) (l : List (Nat × α)) (a : Nat) :
    ∀ c ∈ sset d l a d, c.1 ≠ a := by
  intro c hc
  rw [sset, if_pos rfl, serase_eq_filter] at hc
  simpa using (List.mem_filter.mp hc).2

/-- A byte at a location on a peer changes nothing here. -/
theorem State.writeLoc_of_isPeer {s : State} {a : Nat} (b : Byte) (h : isPeer a = true) : s.writeLoc a b = s := by
  simp [State.writeLoc, h]

/-- A byte at a location of this device enters its memory and ends the reservations of its line. -/
theorem State.writeLoc_of_local {s : State} {a : Nat} (b : Byte) (h : isPeer a = false) :
    s.writeLoc a b = { s with mem := sset (0 : Byte) s.mem a b, resv := s.resv.filter fun r => r.2 != lineOf a } := by
  simp [State.writeLoc, h]

/-- Settles O9: a local write is one `sset` of memory and one filter of the reservations. -/
theorem memoryReadAfterWrite : Obligations.MemoryReadAfterWrite := by
  unfold Obligations.MemoryReadAfterWrite
  intro s a b hs
  refine ⟨memOk_writeLoc s a b hs, fun hl => ?_, State.writeLoc_of_isPeer b⟩
  rw [State.writeLoc_of_local b hl]
  refine ⟨?same, fun c hc => ?other, ?zero, fun r => ?reserved, rfl⟩
  case same => rw [memByte_sset, if_pos rfl]
  case other => rw [memByte_sset, if_neg hc]
  case zero => rintro rfl; exact ne_of_mem_sset_default 0 s.mem a
  case reserved => simp [List.mem_filter, lineOf]

end Sys2Proof.Machine
end

section
/-! IMX and the word after it (R316, R338): which words it extends, that each of them answers a next state, and what the
lanes do that pass the pair over or wait for its second word. -/
namespace Sys2Proof.Machine

/-! ## The words that IMX extends -/

/-- An instruction that IMX extends has its own meaning, under the extension. -/
theorem execExtended_of_extends {ins : Instr} (h : imxExtends ins = true) (s : State) :
    execExtended ins s = some (exec ins s) := by
  unfold imxExtends at h
  split at h
  case h_20 => cases h
  all_goals rfl

/-- An instruction that IMX does not extend has no meaning under it. -/
theorem execExtended_eq_none {ins : Instr} (h : imxExtends ins = false) (s : State) : execExtended ins s = none := by
  unfold execExtended
  split
  case h_20 => rfl
  all_goals simp [imxExtends] at h

/-- An instruction run under the selected issue answers a next state. -/
theorem runWith_goesOn (s : State) (ins : Instr) (e : Bool) (us : List Use) (body : State → Iss → Verdict State) :
    goesOn (runWith s ins e us body) := by
  unfold runWith
  split
  · exact ⟨_, rfl⟩
  · exact ⟨_, rfl⟩

/-- Every instruction that IMX extends answers a next state: each is run under the selected issue. -/
theorem goesOn_of_extends {ins : Instr} (h : imxExtends ins = true) (s : State) : goesOn (exec ins s) := by
  unfold imxExtends at h
  split at h
  case h_20 => cases h
  all_goals exact runWith_goesOn ..

/-! ## The outcomes of IMX -/

/-- The meaning of IMX in the dispatch. -/
theorem exec_imx (f : FmtX) (s : State) : exec (.imx f) s = execImx f s := rfl

section
variable {s : State} {i : Iss} (f : FmtX) (hi : s.issue = some i) (hu : undoFull s i = false)

include hi hu

/-- With nothing active the pair is passed over. -/
theorem execImx_of_inactive (ha : i.act = []) : exec (.imx f) s = .next (commit s i (i.next 2 fun _ l => l) false) := by
  simp only [exec_imx, execImx, hi, hu, ha, Bool.false_eq_true, if_false, if_true]

variable {f} (ha : i.act ≠ []) (hb : i.blockIll (.imx f) = false)

include ha hb

/-- While the line of the second word is on its way the lanes wait. -/
theorem execImx_of_away (hw : s.fetchAway i (i.pc + 1) ≠ []) :
    exec (.imx f) s = .next (s.awaitCode i (s.fetchAway i (i.pc + 1))) := by
  simp only [exec_imx, execImx, hi, hu, ha, hb, Bool.false_eq_true, if_false, if_pos hw]

variable (hw : s.fetchAway i (i.pc + 1) = []) {w : Nat} {u : Use1} (hf : s.fetchAt i (i.pc + 1) = some (w, u))

include hw hf

/-- A second word that is no instruction raises ILL. -/
theorem execImx_of_decode_error {r : Reject} (hd : decode w = .error r) :
    exec (.imx f) s = .next (takeTrap (s.useAll [u]) i
      (ill i (if extendsOpc w then BitVec.ofNat 32 w else wordOf (.imx f))) (wordOf (.imx f)) (BitVec.ofNat 32 w) i.entry) := by
  simp only [exec_imx, execImx, hi, hu, ha, hb, hw, hf, hd, Bool.false_eq_true, ne_eq, not_true, if_false]

/-- A second word that IMX does not extend raises ILL at the IMX. -/
theorem execImx_of_not_extends {ins : Instr} (hd : decode w = .ok ins) (he : imxExtends ins = false) :
    exec (.imx f) s = .next (takeTrap (s.useAll [u]) i (ill i (wordOf (.imx f))) (wordOf (.imx f)) (BitVec.ofNat 32 w) i.entry) := by
  simp only [exec_imx, execImx, hi, hu, ha, hb, hw, hf, hd, execExtended_eq_none he, Bool.false_eq_true, ne_eq, not_true, if_false]

/-- A second word that IMX extends is run under the extension, which then ends. -/
theorem execImx_of_extends {ins : Instr} (hd : decode w = .ok ins) (he : imxExtends ins = true) :
    exec (.imx f) s = endExt (exec ins { s.useAll [u] with ext := some f.imm }) := by
  simp only [exec_imx, execImx, hi, hu, ha, hb, hw, hf, hd, execExtended_of_extends he, Bool.false_eq_true, ne_eq, not_true, if_false]

end

/-! ## Lanes that wait for code -/

/-- A flit that is sent or waits leaves the teams alone. -/
theorem sendFlit_teams (s : State) (f : Flit) : (s.sendFlit f).teams = s.teams := by
  unfold State.sendFlit
  split <;> rfl

/-- Requests for lines of peers leave the teams alone. -/
theorem askLines_teams (s : State) (who : Asker) (locs : List Nat) : (s.askLines who locs).teams = s.teams :=
  List.foldlRecOn (motive := fun t : State => t.teams = s.teams) _ _ rfl fun _ ht _ _ => (sendFlit_teams _ _).trans ht

/-- The issuing warp after an update of it. -/
theorem warpOf_updWarp {s : State} {i : Iss} (h : s.warpOf i = some i.warp) (g : Warp → Warp) (hg : ∀ w, (g w).id = w.id) :
    (s.updTeam i.team.key fun t => t.updWarp i.warp.id g).warpOf i = some (g i.warp) := by
  obtain ⟨t, ht, hw⟩ := Option.bind_eq_some_iff.mp h
  unfold State.team? at ht
  unfold Team.warpAt at hw
  have hteam : (s.updTeam i.team.key fun t => t.updWarp i.warp.id g).team? i.team.key = some (t.updWarp i.warp.id g) := by
    rw [State.team?, State.updTeam_teams, findKey_updKey_eq Team.key _ (fun t => t.updWarp i.warp.id g) fun _ => rfl, ht,
      Option.map_some]
  rw [State.warpOf, hteam, Option.bind_some, Team.warpAt, Team.updWarp, findKey_updKey_eq Warp.id _ _ hg, hw, Option.map_some]

/-- The issuing warp stands in the state. -/
theorem warpOf_of_issue {s : State} {i : Iss} (h : s.issue = some i) : s.warpOf i = some i.warp := by
  obtain ⟨ht, hw⟩ := issue_found h
  simp [State.warpOf, ht, hw]

/-- While code is on its way from a peer the lanes of the issue wait at their instruction, and memory stays. -/
theorem awaitCode_spec {s : State} {i : Iss} (h : s.issue = some i) (ls : List Nat) :
    (s.awaitCode i ls).mem = s.mem ∧ ∃ x, (s.awaitCode i ls).warpOf i = some x ∧
      ∀ l ∈ i.entry, l < i.warp.lanes.length → x.lane l = { i.warp.lane l with wait := .retry } := by
  have hwarp : (s.askOnce (.code i.grid.key) ls).warpOf i = some i.warp := by
    rw [← warpOf_of_issue h]
    simp only [State.warpOf, State.team?, State.askOnce, askLines_teams]
  refine ⟨askLines_mem _ _ _, _, warpOf_updWarp hwarp _ fun _ => rfl, fun l hl hn => ?_⟩
  refine (updLanes_lane i.warp i.entry _ hn).trans ?_
  rw [if_pos (List.contains_iff_mem.mpr hl)]

/-- Settles O26, by the outcomes of IMX. -/
theorem extensionByImx : Obligations.ExtensionByImx := by
  unfold Obligations.ExtensionByImx
  refine ⟨fun f s i w u hi hu ha hb hw hf => ⟨fun ins hd he => ?extended, fun ins hd he => ?other, fun r hd => ?none⟩,
    fun f s i hi hu ha hb hw => ?away, fun f s i hi hu ha => ?inactive, fun s => ?len⟩
  case extended =>
    obtain ⟨t, ht⟩ := goesOn_of_extends he { s.useAll [u] with ext := some f.imm }
    exact ⟨t, ht, by rw [execImx_of_extends hi hu ha hb hw hf hd he, ht, endExt]⟩
  case other => exact execImx_of_not_extends hi hu ha hb hw hf hd he
  case none => exact execImx_of_decode_error hi hu ha hb hw hf hd
  case away => exact ⟨_, execImx_of_away hi hu ha hb hw, awaitCode_spec hi _⟩
  case inactive =>
    refine ⟨_, execImx_of_inactive f hi hu ha, commit_lanesBecome s i _ _ false [] [] hi rfl (next_length ..) fun l hl => ?_⟩
    simp [next_lane i 2 _ hl, laneAfter]
  case len => cases h : s.ext <;> simp [State.len, h]

end Sys2Proof.Machine
end

section
/-! A state in which the number of a request that is answered is given out again at once (R33, R258, R421). -/
namespace Sys2Proof.Machine

/-- A WAITC that watches the word at address 0. -/
def watchZero : WaitC :=
  { key := 9, team := 7, warp := 0, lane := 0, row := 8, all := true, conds := [⟨1, 0, 0, 1, 0⟩], hcur := 0, deadline := none
    lastEval := 0 }

/-- A core that holds core-dirty a byte of the line watched and, from before its last release, a byte of a line of peer 1. -/
def dirtyToPeer : Core :=
  { num := 1, dirty := [{ ctx := 1, tag := 0, loc := 0, val := 1, tick := 0 },
      { ctx := 1, tag := 0, loc := 2 ^ 48, val := 1, tick := 0, before := true }] }

/-- The request of a WAITC to peer 1, with number 41. -/
def watchAsk : Ask := { tag := 41, cls := 1, peer := 1, line := 2 ^ 41, who := .waitc 384 9 }

/-- Request 41 is not answered, and 41 is also the number that the next request gets. -/
def tagInUse : State :=
  { State.reset with
    teams := [{ key := 7, grid := 5, ctx := 1, index := 0, place := .parked, warps := [{ id := 0, role := .vector, lanes := [{}] }] }]
    grids := [{ key := 5, vf := 0, ctx := 1, origin := .queue 0 0, record := {} }]
    cores := [dirtyToPeer], waitcs := [watchZero], asks := [watchAsk], nextKey := 41 }

theorem tagInUse_find : tagInUse.asks.find? (fun x => x.tag == 41 && x.cls == 1) = some watchAsk := by decide +kernel

/-- The answer evaluates the WAITC; its acquire read of the watched word makes the core publish, and the write of the peer's line
is a new request. -/
theorem tagInUse_answered : (tagInUse.answered 2 41 [] .ok).asks =
    [{ tag := 41, cls := 3, peer := 1, line := 2 ^ 41, who := .thread 1 0 0 0 }] := by decide +kernel

/-- Refutes O60: after an answer it lists no request with the answered number, in every state; where `nextKey` is not above the
numbers in use, a request that the answer itself brings about (a WAITC evaluated as its line comes) can have that number. -/
theorem not_linksAndClock : ¬ Obligations.LinksAndClock := by
  unfold Obligations.LinksAndClock
  intro h
  obtain ⟨_, _, _, _, hanswer, _⟩ := h
  obtain ⟨_, _, _, hgone⟩ := hanswer tagInUse 41 0 0 0 0 watchAsk [] tagInUse_find
  rw [tagInUse_answered] at hgone
  exact hgone _ (List.mem_singleton.mpr rfl) rfl

end Sys2Proof.Machine
end

section
/-! What reading a partition or a cluster returns after an update, and what the shared steps of checkpoints and calls change:
publication, saves, answers, the error log. -/
namespace Sys2Proof.Machine

/-! ## Partitions and clusters by number -/

/-- A partition carries the number it is read by. -/
theorem part_num (s : State) (n : Nat) : (s.part n).num = n := by
  unfold State.part
  cases h : findKey Part.num n s.parts with
  | none => rfl
  | some p => exact findKey_key h

/-- A partition that has a gallery stands in the list. -/
theorem part_mem_of_gallery {s : State} {n k : Nat} (h : (s.part n).galleries.getLsbD k = true) : s.part n ∈ s.parts := by
  unfold State.part at h ⊢
  cases hf : findKey Part.num n s.parts with
  | some p => exact List.mem_of_find?_eq_some hf
  | none => rw [hf] at h; exact absurd h (by simp)

/-- A partition after an update of a partition. -/
theorem part_updPart (s : State) (n m : Nat) (f : Part → Part) (hf : ∀ p, (f p).num = p.num) :
    (s.updPart n f).part m = if m = n then f (s.part n) else s.part m := by
  unfold State.updPart State.part
  by_cases h : m = n
  · subst h; simp only [if_true]; rw [findKey_updOr_eq Part.num m { num := m } f hf rfl]; rfl
  · simp only [h, if_false]; rw [findKey_updOr_ne Part.num n m { num := n } f hf rfl h]

/-- A cluster after an update of a cluster. -/
theorem cluster_updCluster (s : State) (n m : Nat) (f : Cluster → Cluster) (hf : ∀ c, (f c).num = c.num) :
    (s.updCluster n f).cluster m = if m = n then f (s.cluster n) else s.cluster m := by
  unfold State.updCluster State.cluster
  by_cases h : m = n
  · subst h; simp only [if_true]; rw [findKey_updOr_eq Cluster.num m { num := m } f hf rfl]; rfl
  · simp only [h, if_false]; rw [findKey_updOr_ne Cluster.num n m { num := n } f hf rfl h]

/-- A listed partition after a change of every partition. -/
theorem part_of_parts_map {s t : State} {f : Part → Part} (ht : t.parts = s.parts.map f) (hf : ∀ p, (f p).num = p.num) {n : Nat}
    (hn : ∃ p ∈ s.parts, p.num = n) : t.part n = f (s.part n) := by
  have hfind : findKey Part.num n t.parts = (findKey Part.num n s.parts).map f := by
    rw [ht, findKey, List.find?_map]
    exact congrArg (Option.map f) (congrArg (List.find? · s.parts) (funext fun p => congrArg (· == n) (hf p)))
  obtain ⟨p, hp⟩ : ∃ p, findKey Part.num n s.parts = some p :=
    Option.isSome_iff_exists.mp (by simpa [findKey_isSome_iff] using hn)
  simp [State.part, hfind, hp]

/-- An update of a partition leaves the others of the list, and adds at most the one it makes. -/
theorem mem_parts_of_updPart {s : State} {n : Nat} {f : Part → Part} (hf : ∀ p, (f p).num = p.num) {p : Part}
    (hp : p ∈ (s.updPart n f).parts) (hn : p.num ≠ n) : p ∈ s.parts := by
  simp only [State.updPart_parts, updOr, updKey] at hp
  split at hp
  · obtain ⟨q, hq, rfl⟩ := List.mem_map.mp hp
    split at hn
    · exact absurd ((hf q).trans ‹_›) hn
    · rwa [if_neg ‹_›]
  · rcases List.mem_append.mp hp with hp | hp
    · exact hp
    · rw [List.mem_singleton.mp hp] at hn
      exact absurd (hf _) hn

/-- The galleries of partitions are read from the list of partitions. -/
theorem galleriesOf_congr {s t : State} (h : t.parts = s.parts) (ps : List Nat) : t.galleriesOf ps = s.galleriesOf ps := by
  simp only [State.galleriesOf, State.part, h]

/-- The layout is read from the list of partitions. -/
theorem partDigest_congr {s t : State} (h : t.parts = s.parts) : t.partDigest = s.partDigest := by
  simp only [State.partDigest, State.partBytes, h]

/-! ## Frames -/

/-- Nothing differs from `s` in `t` but the fields that `put` takes over from `s`. -/
def differsIn (put : State → State → State) (s t : State) : Prop := put t s = s

section
variable {put : State → State → State}

/-- A field that `put` leaves is the same. -/
theorem differsIn_field {s t : State} (h : differsIn put s t) (field : State → α) (hf : ∀ t s, field (put t s) = field t) :
    field t = field s := (hf t s).symm.trans (congrArg field h)

variable (put) (hput : ∀ s t u, put (put u t) s = put u s)
include hput

theorem differsIn_trans {s t u : State} (h : differsIn put s t) (k : differsIn put t u) : differsIn put s u :=
  calc put u s = put (put u t) s := (hput s t u).symm
    _ = put t s := congrArg (put · s) k
    _ = s := h

/-- What differs after each step of a fold differs after the fold. -/
theorem differsIn_foldl (hrefl : ∀ s, put s s = s) {f : State → β → State} (step : ∀ s b, differsIn put s (f s b)) (l : List β)
    (s : State) : differsIn put s (l.foldl f s) :=
  List.foldlRecOn (motive := differsIn put s) l f (hrefl s) fun t ht b _ => differsIn_trans put hput ht (step t b)

end

/-- A state with the teams of another. -/
def State.withTeamsOf (t s : State) : State := { t with teams := s.teams }

/-- The saves that a checkpoint begins change teams alone (R128, R197). -/
theorem saveAll_frame (s : State) (part : Nat) : differsIn State.withTeamsOf s (s.saveAll part) := by
  refine differsIn_foldl State.withTeamsOf (fun _ _ _ => rfl) (fun _ => rfl) (fun t x => ?_) (s.teamsIn part) s
  have hsave : ∀ v (y : Team), differsIn State.withTeamsOf v (v.startSave false y) := fun _ _ => rfl
  split
  · rfl
  · dsimp only
    split
    · rfl
    · split
      · exact differsIn_foldl State.withTeamsOf (fun _ _ _ => rfl) (fun _ => rfl) hsave _ t
      · rfl

/-- A state with the fields of another that stores at L2 and requests to peers change. -/
def State.withStoresOf (t s : State) : State :=
  { t with mem := s.mem, resv := s.resv, vers := s.vers, poison := s.poison, cores := s.cores, asks := s.asks, links := s.links,
           stranded := s.stranded, nextKey := s.nextKey, outbox := s.outbox }

/-- Nothing differs but what stores at L2 and requests to peers change. -/
def onlyStores (s t : State) : Prop := differsIn State.withStoresOf s t

theorem onlyStores_trans {s t u : State} (h : onlyStores s t) (k : onlyStores t u) : onlyStores s u :=
  differsIn_trans State.withStoresOf (fun _ _ _ => rfl) h k

theorem onlyStores_foldl {f : State → β → State} (step : ∀ s b, onlyStores s (f s b)) (l : List β) (s : State) :
    onlyStores s (l.foldl f s) := 
  differsIn_foldl State.withStoresOf (fun _ _ _ => rfl) (fun _ => rfl) step l s

theorem writeTagged_onlyStores (s : State) (ctx tag loc : Nat) (b : Byte) : onlyStores s (s.writeTagged ctx tag loc b) := by
  unfold State.writeTagged State.writeLoc
  split
  · split <;> rfl
  · rfl

theorem sendFlit_onlyStores (s : State) (f : Flit) : onlyStores s (s.sendFlit f) := by
  unfold State.sendFlit
  split <;> rfl

theorem ask_onlyStores (s : State) (cls line : Nat) (who : Asker) (lanes : List Nat) (m : Nat → PeerMsg) :
    onlyStores s (s.ask cls line who lanes m) :=
  onlyStores_trans (t := { s.takeKey with asks := s.asks ++ [_] }) rfl (sendFlit_onlyStores _ _)

theorem sendWrites_onlyStores (s : State) (cls : Nat) (who : Asker) (cells : List (Nat × Byte)) :
    onlyStores s (s.sendWrites cls who cells) := onlyStores_foldl (fun t _ => ask_onlyStores t ..) _ s

theorem unpoison_onlyStores (s : State) (locs : List Nat) : onlyStores s (s.unpoison locs) := rfl

theorem poisonLine_onlyStores (s : State) (l : Option Nat) : onlyStores s (s.poisonLine l) := by
  unfold State.poisonLine
  split
  · split <;> rfl
  · rfl

/-- Lines that a core writes out change what stores change (R256). -/
theorem writeOut_onlyStores (s : State) (core : Nat) (ks : List DirtyLine) : onlyStores s (s.writeOut core ks) := by
  unfold State.writeOut
  dsimp only
  refine onlyStores_trans ?_ (onlyStores_foldl (fun t l => poisonLine_onlyStores t (some l)) _ _)
  refine onlyStores_trans ?_ (unpoison_onlyStores _ _)
  refine onlyStores_trans ?_ (onlyStores_foldl (fun t o => sendWrites_onlyStores t ..) _ _)
  exact onlyStores_trans (t := s.updCore core _) rfl (onlyStores_foldl (fun t d => writeTagged_onlyStores t ..) _ _)

/-- Publication changes what stores change (R256 to R258). -/
theorem publishAll_onlyStores (s : State) (core : Nat) : onlyStores s (s.publishAll core) :=
  onlyStores_foldl (fun t c => writeOut_onlyStores t c _) _ s

/-- A call in progress marks its hart and nothing else. -/
theorem holdCall_eq (s : State) (by_ : Caller) : s.holdCall by_ = { s with harts := (s.holdCall by_).harts } := by
  cases by_ <;> rfl

/-- The harts of a call in progress are those of the state it is held in. -/
theorem holdCall_harts_congr {s t : State} (h : t.harts = s.harts) (by_ : Caller) : (t.holdCall by_).harts = (s.holdCall by_).harts := by
  cases by_
  · exact congrArg (updKey Hart.num _ _) h
  · exact h

/-- A state with the harts of another and with what has left the device there. -/
def State.withAnswersOf (t s : State) : State := { t with harts := s.harts, outbox := s.outbox }

/-- An answer changes the hart that called, or leaves over PLDM (R54, R130). -/
theorem answer_frame (s : State) (by_ : Caller) (err : Int) (rs : List Nat) : differsIn State.withAnswersOf s (s.answer by_ err rs) := by
  have hemit : ∀ t (p : List Byte), differsIn State.withAnswersOf t (t.emit (.mctp 0x0FE2 p)) := fun _ _ => rfl
  cases by_
  · rfl
  · exact differsIn_trans State.withAnswersOf (fun _ _ _ => rfl) (t := s.emit _) rfl
      (differsIn_foldl State.withAnswersOf (fun _ _ _ => rfl) (fun _ => rfl) hemit _ _)

theorem answer_mem (s : State) (by_ : Caller) (err : Int) (rs : List Nat) : (s.answer by_ err rs).mem = s.mem :=
  differsIn_field (answer_frame s by_ err rs) State.mem fun _ _ => rfl

theorem answer_teams (s : State) (by_ : Caller) (err : Int) (rs : List Nat) : (s.answer by_ err rs).teams = s.teams :=
  differsIn_field (answer_frame s by_ err rs) State.teams fun _ _ => rfl

/-- CKPT_FAIL enters the error log with what was streamed (R131, R490). -/
theorem ckptFail_eq (s : State) (ps : List Nat) (bytes status what : Nat) : ∃ e, s.ckptFail ps bytes status what =
      { s with errLog := (e :: s.errLog).take 65536, evSeq := (s.evSeq + 1) % 65536
               blackBox := (if s.frozen then s.blackBox else (e :: s.blackBox).take 4096) } ∧
    e.kind = 0x0401 ∧ e.sev = 2 ∧ e.tick = s.tick ∧ e.seq = s.evSeq ∧
    e.detail = leList 8 bytes ++ leList 4 status ++ [BitVec.ofNat 8 what, 0, 0, 0] :=
  ⟨_, rfl, rfl, rfl, rfl, rfl, rfl⟩

end Sys2Proof.Machine
end

section
/-! The header of a checkpoint image: each field stands where R129 has it, and a restore reads from it what the image says. -/
namespace Sys2Proof.Machine

/-! ## Little-endian numbers (R3) -/

@[simp] theorem leList_length (n v : Nat) : (leList n v).length = n := by
  induction n generalizing v with
  | zero => rfl
  | succ n ih => simp [leList, ih]

/-- A number that fits reads back from its bytes. -/
theorem leNum_leList_of_lt {n v : Nat} (h : v < 256 ^ n) : leNum (leList n v) = v := by
  induction n generalizing v with
  | zero => simp_all [leList, leNum]
  | succ n ih =>
    have hrest : leNum (leList n (v / 256)) = v / 256 := ih (Nat.div_lt_of_lt_mul (by rwa [Nat.pow_succ'] at h))
    simp only [leList, leNum, hrest, BitVec.toNat_ofNat]
    omega

@[simp] theorem digestBytes_length (d : BitVec 256) : (digestBytes d).length = 32 := by simp [digestBytes]

/-- The bytes of a digest, least significant first, are those of its number. -/
theorem leNum_digestBytes (d : BitVec 256) : leNum (digestBytes d).reverse = d.toNat := by
  rw [digestBytes, List.reverse_reverse, leNum_leList_of_lt d.isLt]

theorem digestBytes_inj {d e : BitVec 256} : digestBytes d = digestBytes e ↔ d = e :=
  ⟨fun h => BitVec.eq_of_toNat_eq (by rw [← leNum_digestBytes, h, leNum_digestBytes]), congrArg digestBytes⟩

/-! ## The header (R129) -/

/-- What stands between two parts of a list is the slice there. -/
theorem slice_append {a m r : List α} {off n : Nat} (ha : a.length = off) (hm : m.length = n) :
    ((a ++ (m ++ r)).drop off).take n = m := by rw [List.drop_left' ha, List.take_left' hm]

theorem fieldAt_append {a m r : List Byte} {off n : Nat} (ha : a.length = off) (hm : m.length = n) :
    fieldAt (a ++ (m ++ r)) off n = leNum m := congrArg leNum (slice_append ha hm)

/-- The fields of a header in order, and zeros up to 4 KiB. -/
theorem header_eq (i : CkptImage) : i.header =
    leList 4 i.magic.toNat ++ leList 4 0 ++ leList 8 i.tick ++ leList 8 i.galleries.toNat ++ digestBytes i.layout ++ digestBytes i.digest ++
      List.replicate 4008 0 := by
  have hlen : (leList 4 i.magic.toNat ++ leList 4 0 ++ leList 8 i.tick ++ leList 8 i.galleries.toNat ++ digestBytes i.layout ++
      digestBytes i.digest).length = 88 := by simp
  rw [CkptImage.header, padTo, List.take_append, List.take_of_length_le (by omega), hlen, List.take_replicate]
  rfl

theorem header_length (i : CkptImage) : i.header.length = 4096 := by
  simp only [CkptImage.header, padTo, List.length_take, List.length_append, List.length_replicate]
  omega

theorem header_magic (i : CkptImage) : fieldAt i.header 0 4 = i.magic.toNat := by
  simp only [header_eq, List.append_assoc]
  exact (fieldAt_append (a := []) rfl (leList_length ..)).trans (leNum_leList_of_lt i.magic.isLt)

theorem header_reserved (i : CkptImage) : fieldAt i.header 4 4 = 0 := by
  simp only [header_eq, List.append_assoc]
  exact (fieldAt_append (leList_length ..) (leList_length ..)).trans (leNum_leList_of_lt (by decide))

theorem header_tick (i : CkptImage) (h : i.tick < 2 ^ 64) : fieldAt i.header 8 8 = i.tick := by
  rw [header_eq, List.append_assoc, List.append_assoc, List.append_assoc, List.append_assoc]
  exact (fieldAt_append (by simp) (leList_length ..)).trans (leNum_leList_of_lt h)

theorem header_galleries (i : CkptImage) : fieldAt i.header 0x10 8 = i.galleries.toNat := by
  rw [header_eq, List.append_assoc, List.append_assoc, List.append_assoc]
  exact (fieldAt_append (by simp) (leList_length ..)).trans (leNum_leList_of_lt (Nat.lt_trans i.galleries.isLt (by decide)))

theorem header_layout (i : CkptImage) : (i.header.drop 0x18).take 32 = digestBytes i.layout := by
  rw [header_eq, List.append_assoc, List.append_assoc]
  exact slice_append (by simp) (digestBytes_length _)

theorem header_digest (i : CkptImage) : (i.header.drop 0x38).take 32 = digestBytes i.digest := by
  rw [header_eq, List.append_assoc]
  exact slice_append (by simp) (digestBytes_length _)

theorem header_rest (i : CkptImage) : i.header.drop 0x58 = List.replicate 4008 0 := by
  rw [header_eq, List.drop_left' (by simp)]

/-- A restore takes an image with the MAGIC, the layout and the galleries that it is to have (R130). -/
theorem restorable_iff (s : State) (ps : List Nat) (i : CkptImage) :
    s.restorable ps i = true ↔ i.magic = 0x4F4E434B ∧ i.layout = s.partDigest ∧ i.galleries = s.galleriesOf ps := by
  simp only [State.restorable, header_magic, header_layout, header_galleries, Bool.and_eq_true, beq_iff_eq, digestBytes_inj,
    BitVec.toNat_inj, and_assoc, ckptMagic]

end Sys2Proof.Machine
end

section
/-! CKPT, CHECKPOINT_COMPLETE and RESTORE (R128 to R130): what each answers and changes. -/
namespace Sys2Proof.Machine

/-! ## The call -/

/-- A call that comes over PLDM or from a hart is not passed over. -/
theorem called_goes_on {s : State} {by_ : Caller} {ext fid : Nat} {args : List Nat} (h : by_ = .pldm ∨ s.mayCall by_ ext fid args = true) :
    (decide (by_ ≠ .pldm) && !s.mayCall by_ ext fid args) = false := by
  rcases h with rfl | h
  · rfl
  · simp [h]

/-- The partitions a call names stand in the list. -/
theorem mem_parts_of_partsNamed {s : State} {part n : Nat} (h : n ∈ s.partsNamed part) : ∃ p ∈ s.parts, p.num = n := by
  unfold State.partsNamed at h
  split at h
  · simpa using h
  · obtain ⟨p, hp, rfl⟩ := List.mem_map.mp h
    exact ⟨p, (List.mem_filter.mp hp).1, rfl⟩

/-! ## CKPT (R128) -/

section
variable {s : State} {by_ : Caller} {part slot : Nat}

/-- Without the safe tier, a partition or the slot the call is refused. -/
theorem execCkpt_refused (hc : s.ckpt = none) (hby : by_ = .pldm ∨ s.mayCall by_ 0x4F4E4145 6 [part, slot] = true)
    (h : s.safeTier = false ∨ s.partsNamed part = [] ∨ ∀ x ∈ s.stored.slots, x.1 ≠ slot) :
    exec (.ckpt ⟨by_, part⟩ slot) s = .next (s.answer by_ (-3) []) := by
  have hrefuse : (decide (s.partsNamed part = []) || !s.safeTier || !(s.stored.slots.any fun x => x.1 == slot)) = true := by
    rcases h with h | h | h
    · simp [h]
    · simp [h]
    · rw [List.any_eq_false.mpr (by simpa using h), Bool.not_false, Bool.or_true]
  change execCkpt _ _ s = _
  simp only [execCkpt, hc, onaenExt, called_goes_on hby, hrefuse, Bool.false_eq_true, if_false, if_true]
  rfl

/-- A checkpoint begins: its partitions are marked quiet, and saves begin. -/
def State.quieted (s : State) (run : CkptRun) : State :=
  { s with ckpt := some run, parts := s.parts.map fun (p : Part) => if run.parts.contains p.num then { p with quiet := true } else p }

theorem execCkpt_begins (hc : s.ckpt = none) (hby : by_ = .pldm ∨ s.mayCall by_ 0x4F4E4145 6 [part, slot] = true)
    (ht : s.safeTier = true) (hp : s.partsNamed part ≠ []) (hs : ∃ x ∈ s.stored.slots, x.1 = slot) :
    exec (.ckpt ⟨by_, part⟩ slot) s =
      .next (((s.partsNamed part).foldl State.saveAll (s.quieted { parts := s.partsNamed part, slot := slot, by_ := by_ })).holdCall by_) := by
  have hgo : (decide (s.partsNamed part = []) || !s.safeTier || !(s.stored.slots.any fun x => x.1 == slot)) = false := by
    simp [ht, hp, hs]
  change execCkpt _ _ s = _
  simp only [execCkpt, hc, onaenExt, called_goes_on hby, hgo, Bool.false_eq_true, if_false]
  rfl

/-- A partition of a checkpoint that begins is quiet. -/
theorem part_quieted {run : CkptRun} {n : Nat} (hn : n ∈ run.parts) (hs : ∃ p ∈ s.parts, p.num = n) :
    ((s.quieted run).part n).quiet = true := by
  rw [part_of_parts_map (s := s) (t := s.quieted run) rfl (fun p => by split <;> rfl) hs, part_num,
    if_pos (List.contains_iff_mem.mpr hn)]

/-- CKPT marks the partitions quiet and begins the saves; memory, answers and the other harts stay. -/
theorem ckpt_begins (hc : s.ckpt = none) (hby : by_ = .pldm ∨ s.mayCall by_ 0x4F4E4145 6 [part, slot] = true)
    (ht : s.safeTier = true) (hp : s.partsNamed part ≠ []) (hs : ∃ x ∈ s.stored.slots, x.1 = slot) :
    ∃ t, exec (.ckpt ⟨by_, part⟩ slot) s = .next t ∧ t.ckpt = some { parts := s.partsNamed part, slot := slot, by_ := by_ } ∧
      t.mem = s.mem ∧ t.outbox = s.outbox ∧ t.harts = (s.holdCall by_).harts ∧ ∀ n ∈ s.partsNamed part, (t.part n).quiet = true := by
  let run : CkptRun := { parts := s.partsNamed part, slot := slot, by_ := by_ }
  have hsave : differsIn State.withTeamsOf (s.quieted run) (run.parts.foldl State.saveAll (s.quieted run)) :=
    differsIn_foldl State.withTeamsOf (fun _ _ _ => rfl) (fun _ => rfl) saveAll_frame _ _
  have hparts := differsIn_field hsave State.parts fun _ _ => rfl
  refine ⟨_, execCkpt_begins hc hby ht hp hs, ?_, ?_, ?_, holdCall_harts_congr ?_ by_, fun n hn => ?_⟩
  · rw [holdCall_eq]; exact differsIn_field hsave State.ckpt fun _ _ => rfl
  · rw [holdCall_eq]; exact differsIn_field hsave State.mem fun _ _ => rfl
  · rw [holdCall_eq]; exact differsIn_field hsave State.outbox fun _ _ => rfl
  · exact differsIn_field hsave State.harts fun _ _ => rfl
  · rw [holdCall_eq]
    simp only [State.part]
    rw [hparts]
    exact part_quieted (run := run) hn (mem_parts_of_partsNamed hn)

/-- Quiet partitions are published before their image is taken (R128). -/
theorem takeImage_onlyStores (ps : List Nat) : onlyStores s (s.takeImage ps slot).1 :=
  onlyStores_foldl publishAll_onlyStores _ s

/-- Once its partitions are quiet, a checkpoint takes its image (R129). -/
theorem ckpt_takes_image (hc : s.ckpt = some { parts := s.partsNamed part, slot := slot, by_ := by_ })
    (hq : ∀ p ∈ s.partsNamed part, s.isQuiet p = true) :
    ∃ t i, exec (.ckpt ⟨by_, part⟩ slot) s = .next t ∧
      t.ckpt = some { parts := s.partsNamed part, slot := slot, by_ := by_, image := some i } ∧
      i.slot = slot ∧ i.magic = 0x4F4E434B ∧ i.tick = s.tick ∧ i.galleries = s.galleriesOf (s.partsNamed part) ∧ i.layout = s.partDigest ∧
      i.digest = t.memDigest (s.partsNamed part) i.mem ∧ i.saves.map PartSave.part = s.partsNamed part ∧
      (∀ c, c ∈ i.mem ↔ c ∈ t.mem ∧ t.carried (s.partsNamed part) c.1 = true) := by
  have hpub : onlyStores s (s.takeImage (s.partsNamed part) slot).1 := takeImage_onlyStores _
  have hparts := differsIn_field hpub State.parts fun _ _ => rfl
  have hquiet : (s.partsNamed part).all s.isQuiet = true := List.all_eq_true.mpr hq
  refine ⟨{ (s.takeImage (s.partsNamed part) slot).1 with
      images := (s.takeImage (s.partsNamed part) slot).1.images.filter fun x => x.slot != slot
      ckpt := some { parts := s.partsNamed part, slot := slot, by_ := by_, image := some (s.takeImage (s.partsNamed part) slot).2 } },
    (s.takeImage (s.partsNamed part) slot).2, ?_, rfl, rfl, rfl, differsIn_field hpub State.tick fun _ _ => rfl,
    galleriesOf_congr hparts _, partDigest_congr hparts, rfl, ?_, fun c => List.mem_filter⟩
  · change execCkpt _ _ s = _
    simp only [execCkpt, hc, hquiet]
    simp
  · exact (List.map_map ..).trans (List.map_id _)

end

/-! ## CHECKPOINT_COMPLETE (R129) -/

/-- A checkpoint under way is over, and its partitions resume. -/
def State.resumed (s : State) (r : CkptRun) : State :=
  { s with ckpt := none, parts := s.parts.map fun (p : Part) => if r.parts.contains p.num then { p with quiet := false } else p }

theorem execCheckpointComplete_of_image {s : State} {r : CkptRun} {i : CkptImage} (hr : s.ckpt = some r) (hi : r.image = some i) (ok : Bool)
    (bytes status : Nat) : exec (.checkpointComplete ok bytes status) s = .next (if ok
      then { s.resumed r with images := s.images ++ [i] }.answer r.by_ 0 []
      else ((s.resumed r).ckptFail r.parts bytes status 0).answer r.by_ (-1) []) := by
  change execCheckpointComplete ok bytes status s = _
  simp only [execCheckpointComplete, hr, hi]
  cases ok <;> rfl

/-- A checkpoint whose stream failed logs CKPT_FAIL; its partitions resume, and the caller is answered. -/
theorem checkpointComplete_fails {s : State} {r : CkptRun} {i : CkptImage} (hr : s.ckpt = some r) (hi : r.image = some i) (bytes status : Nat) :
    ∃ e, exec (.checkpointComplete false bytes status) s = .next
        ({ s.resumed r with errLog := (e :: s.errLog).take 65536, evSeq := (s.evSeq + 1) % 65536,
                            blackBox := (if s.frozen then s.blackBox else (e :: s.blackBox).take 4096) }.answer r.by_ (-1) []) ∧
      e.kind = 0x0401 ∧ e.sev = 2 ∧ e.tick = s.tick ∧ e.seq = s.evSeq ∧
      e.detail = leList 8 bytes ++ leList 4 status ++ [0, 0, 0, 0] := by
  obtain ⟨e, he, hrest⟩ := ckptFail_eq (s.resumed r) r.parts bytes status 0
  refine ⟨e, ?_, hrest⟩
  rw [execCheckpointComplete_of_image hr hi, if_neg Bool.false_ne_true, he]
  rfl

/-! ## RESTORE (R130) -/

section
variable {s : State} {by_ : Caller} {part slot : Nat} {ok : Bool} {bytes status : Nat}
variable (hby : by_ = .pldm ∨ s.mayCall by_ 0x4F4E4145 7 [part, slot] = true)

include hby

/-- Without the safe tier or an image in the slot a restore is refused. -/
theorem execRestore_no_image (h : s.safeTier = false ∨ ∀ i ∈ s.images, i.slot ≠ slot) :
    exec (.restore ⟨by_, part⟩ slot ok bytes status) s = .next (s.answer by_ (-3) []) := by
  have hfind : (s.images.find? fun i => i.slot == slot && s.safeTier) = none := by
    rw [List.find?_eq_none]
    rcases h with h | h
    · simp [h]
    · exact fun i hi => by simp [h i hi]
  change execRestore _ _ ok bytes status s = _
  simp only [execRestore, onaenExt, called_goes_on hby, hfind, Bool.false_eq_true, if_false]
  rfl

variable {i : CkptImage} (ht : s.safeTier = true) (hi : s.images.find? (fun x => x.slot == slot) = some i)

include ht hi

/-- An image that does not fit is refused. -/
theorem execRestore_unfit (h : s.partsNamed part = [] ∨ s.restorable (s.partsNamed part) i = false) :
    exec (.restore ⟨by_, part⟩ slot ok bytes status) s = .next (s.answer by_ (-3) []) := by
  have hrefuse : (decide (s.partsNamed part = []) || !s.restorable (s.partsNamed part) i) = true := by
    rcases h with h | h <;> simp [h]
  change execRestore _ _ ok bytes status s = _
  simp only [execRestore, onaenExt, called_goes_on hby, ht, Bool.and_true, hi, hrefuse, Bool.false_eq_true, if_false, if_true]
  rfl

/-- The partitions of a restore without their work: teams and commands end, and memory is zero (R130). -/
def State.workEnded (s : State) (ps : List Nat) : State := ps.foldl (fun s p => ((s.endWork p).wipe p).dropCkpt p) s

/-- An image that fits is loaded, or the restore fails. -/
theorem execRestore_fit (hp : s.partsNamed part ≠ []) (hfit : s.restorable (s.partsNamed part) i = true) :
    exec (.restore ⟨by_, part⟩ slot ok bytes status) s = .next (if ok && i.digest == s.memDigest (s.partsNamed part) i.mem
      then wakeAll ((i.saves.foldl State.reload { s.workEnded (s.partsNamed part) with
        mem := i.mem.foldl (fun m x => sset 0 m x.1 x.2) (s.workEnded (s.partsNamed part)).mem }).answer by_ 0 [])
      else wakeAll ((State.ckptFail { s.workEnded (s.partsNamed part) with
        parts := (s.workEnded (s.partsNamed part)).parts.map fun (p : Part) =>
          if (s.partsNamed part).contains p.num then { p with accepting := decide (7 ≤ s.boot.at_) } else p }
        (s.partsNamed part) bytes (if ok then 0 else status) 1).answer by_ (-1) [])) := by
  have hgo : (decide (s.partsNamed part = []) || !s.restorable (s.partsNamed part) i) = false := by simp [hp, hfit]
  change execRestore _ _ ok bytes status s = _
  simp only [execRestore, onaenExt, called_goes_on hby, ht, Bool.and_true, hi, hgo, Bool.false_eq_true, if_false]
  split <;> rfl

end

/-- A byte of an image that no other entry names is what is read there after the image has been written. -/
theorem memByte_of_image {c : Host.Cell} {cells : List Host.Cell} (hc : ∀ d ∈ cells, d.1 = c.1 → d = c) {m : List Host.Cell}
    (h : c ∈ cells ∨ memByte m c.1 = c.2) : memByte (cells.foldl (fun m x => sset 0 m x.1 x.2) m) c.1 = c.2 := by
  induction cells generalizing m with
  | nil => simpa using h
  | cons d ds ih =>
    refine ih (fun e he => hc e (.tail _ he)) ?_
    by_cases hd : c.1 = d.1
    · right; rw [memByte_sset, if_pos hd, hc d (.head _) hd.symm]
    · refine h.imp (fun h => (List.mem_cons.mp h).resolve_left fun e => hd (e ▸ rfl)) fun h => ?_
      rw [memByte_sset, if_neg hd, h]

/-- What a partition takes back leaves memory alone. -/
theorem reload_mem (s : State) (v : PartSave) : (s.reload v).mem = s.mem := rfl

/-- A team of a save area stands in the partition that takes it back, ready to resume (R130, R175). -/
theorem reload_resumes (s : State) {v : PartSave} {x : Team} (hx : x ∈ v.teams) :
    ∃ y ∈ (s.reload v).teams, y.key = x.key ∧ ∃ n, y.place = .ready n := by
  obtain ⟨j, hj⟩ := List.mem_iff_getElem?.mp hx
  refine ⟨x.reenter ((s.part v.part).seq + j) s.tick, ?_, rfl, _, rfl⟩
  exact List.mem_append_right _ (List.mem_map.mpr ⟨(x, j), List.mk_mem_zipIdx_iff_getElem?.mpr hj, rfl⟩)

/-- Teams keep their numbers and places as lanes wake. -/
theorem wakeAll_has {s : State} {P : Nat → Place → Prop} (h : ∃ y ∈ s.teams, P y.key y.place) :
    ∃ y ∈ (wakeAll s).teams, P y.key y.place := by
  obtain ⟨y, hy, hp⟩ := h
  exact ⟨y.wake, List.mem_map_of_mem hy, hp⟩

section
variable {s : State} {by_ : Caller} {part slot : Nat} {i : CkptImage} (hby : by_ = .pldm ∨ s.mayCall by_ 0x4F4E4145 7 [part, slot] = true)
  (ht : s.safeTier = true) (hi : s.images.find? (fun x => x.slot == slot) = some i) (hp : s.partsNamed part ≠ [])
  (hfit : s.restorable (s.partsNamed part) i = true)
include hby ht hi hp hfit

/-- A restore whose digest agrees loads memory and takes the teams back. -/
theorem restore_loads (bytes status : Nat) (hd : i.digest = s.memDigest (s.partsNamed part) i.mem) :
    ∃ (u t : State), t = wakeAll (u.answer by_ 0 []) ∧ exec (.restore ⟨by_, part⟩ slot true bytes status) s = .next t ∧
      (∀ c ∈ i.mem, (∀ d ∈ i.mem, d.1 = c.1 → d = c) → memByte t.mem c.1 = c.2) ∧
      ∀ v, i.saves = [v] → ∀ x ∈ v.teams, ∃ y ∈ t.teams, y.key = x.key ∧ ∃ n, y.place = .ready n := by
  refine ⟨_, _, rfl, (execRestore_fit hby ht hi hp hfit).trans (congrArg _ (if_pos (by simp [hd]))), fun c hcell honly => ?_,
    fun v hv x hx => ?_⟩
  · change memByte (State.answer ..).mem c.1 = c.2
    rw [answer_mem, foldl_mem _ reload_mem]
    exact memByte_of_image honly (.inl hcell)
  · refine wakeAll_has (P := fun key place => key = x.key ∧ ∃ n, place = .ready n) ?_
    rw [answer_teams, hv]
    exact reload_resumes _ hx

/-- A restore whose read failed, or whose digest does not agree, logs CKPT_FAIL and answers the failure. -/
theorem restore_fails {ok : Bool} (bytes status : Nat) (h : ok = false ∨ i.digest ≠ s.memDigest (s.partsNamed part) i.mem) :
    ∃ (u : State) (e : Event), exec (.restore ⟨by_, part⟩ slot ok bytes status) s = .next (wakeAll (u.answer by_ (-1) [])) ∧
      u.errLog.head? = some e ∧ e.kind = 0x0401 ∧ e.detail = leList 8 bytes ++ leList 4 (if ok then 0 else status) ++ [1, 0, 0, 0] := by
  have hfail : ¬ (ok && i.digest == s.memDigest (s.partsNamed part) i.mem) = true := by
    rcases h with h | h <;> simp [h]
  obtain ⟨e, he, hkind, -, -, -, hdetail⟩ := ckptFail_eq _ (s.partsNamed part) bytes (if ok then 0 else status) 1
  exact ⟨_, e, (execRestore_fit hby ht hi hp hfit).trans (congrArg _ (if_neg hfail)), by rw [he]; rfl, hkind, hdetail⟩

end

end Sys2Proof.Machine
end

section
/-! PART_ALLOT_WRITE and REPARTITION (R77 to R80): the bounds of an allotment, and what a new gallery set changes. -/
namespace Sys2Proof.Machine

/-! ## Allotments (R80) -/

/-- The bounds of an allotment. -/
theorem allotOk_iff (s : State) (part v : Nat) : s.allotOk part v = true ↔
    30000 * (s.part part).galleryCount ≤ v ∧ v ≤ 120000 * (s.part part).galleryCount ∧
      ((s.parts.filter fun p => p.num != part).map Part.allotted).sum + v ≤ 3450000 := by
  simp only [State.allotOk, Bool.and_eq_true, decide_eq_true_eq, and_assoc]

/-- A write to an allotment is taken within the bounds and logged beyond them. -/
theorem execPartAllotWrite_listed {s : State} {part : Nat} (v : Nat) (h : ∃ p ∈ s.parts, p.num = part) :
    exec (.partAllotWrite part v) s = .next (s.writeAllot part (v % 2 ^ 22)) := by
  change execPartAllotWrite part v s = _
  rw [execPartAllotWrite, if_pos (by simpa using h)]

/-- A partition with an allotment that takes effect at its next meter update. -/
def Part.allotting (a : BitVec 22) (p : Part) : Part := { p with pendAllot := some a }

theorem writeAllot_eq (s : State) (part v : Nat) : s.writeAllot part v =
    if s.allotOk part v then s.updPart part (Part.allotting (BitVec.ofNat 22 v)) else s.configError 1 part v part := rfl

/-- CONFIG_ERROR enters the error log, and the partitions stay (R131, R490). -/
theorem configError_spec (s : State) (what which v part : Nat) : (s.configError what which v part).parts = s.parts ∧
    ∃ e, (s.configError what which v part).errLog = (e :: s.errLog).take 65536 ∧ e.kind = 0x0901 ∧ e.part = part :=
  ⟨rfl, _, rfl, rfl, rfl⟩

/-- An allotment beyond the bounds changes no partition and is logged (R80). -/
theorem partAllotWrite_refused {s : State} {part v : Nat} (hp : ∃ p ∈ s.parts, p.num = part) (h : ¬ s.allotOk part (v % 2 ^ 22) = true) :
    ∃ t e, exec (.partAllotWrite part v) s = .next t ∧ t.parts = s.parts ∧ t.errLog = (e :: s.errLog).take 65536 ∧
      e.kind = 0x0901 ∧ e.part = part := by
  obtain ⟨hparts, e, herr, hkind, hpart⟩ := configError_spec s 1 part (v % 2 ^ 22) part
  exact ⟨_, e, by rw [execPartAllotWrite_listed v hp, writeAllot_eq, if_neg h], hparts, herr, hkind, hpart⟩

/-- A state with the partitions and the logs of another. -/
def State.withAllotsOf (t s : State) : State :=
  { t with parts := s.parts, errLog := s.errLog, evSeq := s.evSeq, blackBox := s.blackBox }

/-- An allotment written changes partitions or the logs. -/
theorem writeAllot_frame (s : State) (part v : Nat) : differsIn State.withAllotsOf s (s.writeAllot part v) := by
  unfold State.writeAllot
  split <;> rfl

/-- An allotment written changes the allotment of its partition alone. -/
theorem writeAllot_part (s : State) (part v : Nat) :
    ∃ a, (s.writeAllot part v).part part = { s.part part with pendAllot := a } := by
  rw [writeAllot_eq]
  split
  · exact ⟨_, (part_updPart s part part (Part.allotting _) fun _ => rfl).trans (if_pos rfl)⟩
  · exact ⟨(s.part part).pendAllot, rfl⟩

theorem writeAllot_part_ne (s : State) {part n : Nat} (v : Nat) (h : n ≠ part) : (s.writeAllot part v).part n = s.part n := by
  rw [writeAllot_eq]
  split
  · exact (part_updPart s part n (Part.allotting _) fun _ => rfl).trans (if_neg h)
  · rfl

theorem mem_parts_of_writeAllot {s : State} {part v : Nat} {p : Part} (hp : p ∈ (s.writeAllot part v).parts) (h : p.num ≠ part) :
    p ∈ s.parts := by
  rw [writeAllot_eq] at hp
  split at hp
  · exact mem_parts_of_updPart (f := Part.allotting _) (fun _ => rfl) hp h
  · exact hp

/-! ## Clusters that join a partition (R86, R91, R99) -/

@[simp] theorem toClock_num (c : Cluster) (mhz tick : Nat) : (c.toClock mhz tick).num = c.num := by
  simp only [Cluster.toClock, apply_ite Cluster.num, ite_self]

/-- A state with the clusters of another. -/
def State.withClustersOf (t s : State) : State := { t with clusters := s.clusters }

/-- The clusters of a list join a partition. -/
def State.joinAll (s : State) (part : Nat) (cs : List Nat) : State :=
  cs.foldl (fun s c => s.updCluster c fun k => k.joins (s.part part) s.tick) s

theorem joinAll_frame (s : State) (part : Nat) (cs : List Nat) : differsIn State.withClustersOf s (s.joinAll part cs) := by
  have hjoin : ∀ t c, differsIn State.withClustersOf t (t.updCluster c fun k => k.joins (t.part part) t.tick) := fun _ _ => rfl
  exact differsIn_foldl State.withClustersOf (fun _ _ _ => rfl) (fun _ => rfl) hjoin cs s

/-- Each cluster of a list without repetitions joins once, and every other one stays. -/
theorem joinAll_cluster (part n : Nat) {cs : List Nat} (hd : cs.Nodup) (s : State) :
    (s.joinAll part cs).cluster n = if n ∈ cs then (s.cluster n).joins (s.part part) s.tick else s.cluster n := by
  induction cs generalizing s with
  | nil => rfl
  | cons c cs ih =>
    obtain ⟨hc, hd⟩ := List.nodup_cons.mp hd
    have hstep : ((s.updCluster c fun k => k.joins (s.part part) s.tick).joinAll part cs).cluster n = _ := ih hd _
    refine hstep.trans ?_
    rw [cluster_updCluster s c n (fun k => k.joins (s.part part) s.tick) fun k => toClock_num ..]
    by_cases hn : n = c
    · subst hn
      rw [if_neg hc, if_pos rfl, if_pos List.mem_cons_self]
    · simp only [List.mem_cons, hn, false_or]
      rfl

/-! ## REPARTITION (R77 to R79) -/

section
variable {s : State} {part : Nat} {g : BitVec 48} {rs : List (Nat × Nat)} {a : Option Nat}

theorem execRepartition_refused (h : s.mayRepartition part g rs = false) : exec (.repartition part ⟨g, rs⟩ a) s = .next s := by
  change execRepartition part ⟨g, rs⟩ a s = _
  simp [execRepartition, h]

/-- A partition without teams and gates takes galleries that no other has and memory in bounds, or none once it has no queue. -/
theorem mayRepartition_of (hp : part < 48) (hgate : s.gatePending part = false) (ht : s.teamsIn part = []) (hr : s.rangesOk part g rs = true)
    (hfree : ∀ p ∈ s.parts, p.num ≠ part → p.galleries &&& g = 0) (hq : g ≠ 0 ∨ ∀ q ∈ s.queues, s.partOfVf q.vf ≠ part) :
    s.mayRepartition part g rs = true := by
  have hnone : (s.parts.any fun p => p.num != part && p.galleries &&& g != 0) = false :=
    List.any_eq_false.mpr fun p hp => by
      by_cases hn : p.num = part
      · simp [hn]
      · simp [hfree p hp hn]
  have hqueue : (g != 0 || !(s.queues.any fun q => s.partOfVf q.vf == part)) = true := by
    rcases hq with hq | hq
    · rw [bne_iff_ne.mpr hq, Bool.true_or]
    · rw [List.any_eq_false.mpr (by simpa using hq), Bool.not_false, Bool.or_true]
  simp only [State.mayRepartition, decide_eq_true hp, hgate, ht, hr, hnone, hqueue, beq_self_eq_true, Bool.not_false, Bool.and_self]

/-- A partition with other galleries and memory; it accepts commands where the boot is over and no teardown runs. -/
def Part.regalleried (g : BitVec 48) (rs thermal : List (Nat × Nat)) (booted : Bool) (p : Part) : Part :=
  { p with galleries := g, ranges := rs, reserve := none, thermal := thermal, accepting := booted && !p.down }

/-- The state with the partition's new galleries and memory, before its allotment is written. -/
def State.regalleried (s : State) (part : Nat) (g : BitVec 48) (rs : List (Nat × Nat)) : State :=
  s.updPart part (Part.regalleried g rs (s.thermalOf g) (decide (7 ≤ s.boot.at_)))

/-- The partition with its allotment too: the one named, or the default for its galleries (R80). -/
def State.reallotted (s : State) (part : Nat) (g : BitVec 48) (rs : List (Nat × Nat)) (a : Option Nat) : State :=
  (s.regalleried part g rs).writeAllot part (a.getD (71875 * ((s.regalleried part g rs).part part).galleryCount))

/-- The clusters that come to the partition. -/
def State.joining (s : State) (part : Nat) (g : BitVec 48) (rs : List (Nat × Nat)) (a : Option Nat) : List Nat :=
  ((s.reallotted part g rs a).part part).clusters.filter fun c => !(s.part part).clusters.contains c

/-- The state of a repartition before the fabric and the measurement follow. -/
def State.repartitioned (s : State) (part : Nat) (g : BitVec 48) (rs : List (Nat × Nat)) (a : Option Nat) : State :=
  (s.reallotted part g rs a).joinAll part (s.joining part g rs a)

theorem execRepartition_done (h : s.mayRepartition part g rs = true) : exec (.repartition part ⟨g, rs⟩ a) s = .next (
    let t := if g = 0 then s.dissolve part else s.repartitioned part g rs a
    t.drawFabric.setMeas 7 t.partDigest) := by
  change execRepartition part ⟨g, rs⟩ a s = _
  rw [execRepartition, if_neg (by simp [h])]
  rfl

theorem regalleried_part (n : Nat) : (s.regalleried part g rs).part n =
    if n = part then (s.part part).regalleried g rs (s.thermalOf g) (decide (7 ≤ s.boot.at_)) else s.part n :=
  part_updPart s part n _ fun _ => rfl

/-- The partition has its new galleries and memory, and some allotment. -/
theorem reallotted_part : ∃ al, (s.reallotted part g rs a).part part =
    { (s.part part).regalleried g rs (s.thermalOf g) (decide (7 ≤ s.boot.at_)) with pendAllot := al } := by
  obtain ⟨al, h⟩ := writeAllot_part (s.regalleried part g rs) part (a.getD (71875 * ((s.regalleried part g rs).part part).galleryCount))
  exact ⟨al, h.trans (by rw [regalleried_part, if_pos rfl])⟩

theorem reallotted_part_ne {n : Nat} (hn : n ≠ part) : (s.reallotted part g rs a).part n = s.part n :=
  (writeAllot_part_ne _ _ hn).trans ((regalleried_part n).trans (if_neg hn))

/-- Every other partition in the list stood there before. -/
theorem mem_parts_of_reallotted {p : Part} (hp : p ∈ (s.reallotted part g rs a).parts) (h : p.num ≠ part) : p ∈ s.parts :=
  mem_parts_of_updPart (f := Part.regalleried _ _ _ _) (fun _ => rfl) (mem_parts_of_writeAllot hp h) h

/-- A state with the partitions, the logs and the clusters of another. -/
def State.withPartitionsOf (t s : State) : State :=
  { t with parts := s.parts, errLog := s.errLog, evSeq := s.evSeq, blackBox := s.blackBox, clusters := s.clusters }

/-- A repartition changes partitions, clusters and the logs. -/
theorem repartitioned_frame : differsIn State.withPartitionsOf s (s.repartitioned part g rs a) := by
  have hallot := writeAllot_frame (s.regalleried part g rs) part (a.getD (71875 * ((s.regalleried part g rs).part part).galleryCount))
  have hjoin := joinAll_frame (s.reallotted part g rs a) part (s.joining part g rs a)
  refine differsIn_trans State.withPartitionsOf (fun _ _ _ => rfl) (t := s.regalleried part g rs) rfl ?_
  refine differsIn_trans State.withPartitionsOf (fun _ _ _ => rfl) (t := s.reallotted part g rs a) ?_ ?_
  · exact congrArg (·.withClustersOf (s.regalleried part g rs)) hallot
  · exact congrArg (·.withAllotsOf (s.reallotted part g rs a)) hjoin

theorem repartitioned_parts : (s.repartitioned part g rs a).parts = (s.reallotted part g rs a).parts :=
  differsIn_field (joinAll_frame ..) State.parts fun _ _ => rfl

theorem repartitioned_part (n : Nat) : (s.repartitioned part g rs a).part n = (s.reallotted part g rs a).part n := by
  rw [State.part, repartitioned_parts, ← State.part]

/-- A cluster that comes to the partition loses its grant and runs at the partition's frequency (R86, R91, R99). -/
theorem repartitioned_cluster {c : Nat} (hc : c ∈ ((s.repartitioned part g rs a).part part).clusters) (hnew : c ∉ (s.part part).clusters) :
    (s.repartitioned part g rs a).cluster c =
      { s.cluster c with grant := .nom, low := (s.part part).idle == 2 }.toClock (ladder (s.part part).throt) s.tick := by
  have hmem : c ∈ s.joining part g rs a := List.mem_filter.mpr ⟨repartitioned_part (s := s) part ▸ hc, by simpa using hnew⟩
  have hnodup : (s.joining part g rs a).Nodup := (List.nodup_range.filter _).filter _
  have hcl : (s.reallotted part g rs a).cluster c = s.cluster c := by
    rw [State.cluster, State.reallotted, differsIn_field (writeAllot_frame ..) State.clusters fun _ _ => rfl]
    rfl
  have htick : (s.reallotted part g rs a).tick = s.tick := differsIn_field (writeAllot_frame ..) State.tick fun _ _ => rfl
  obtain ⟨al, hpart⟩ := reallotted_part (s := s) (part := part) (g := g) (rs := rs) (a := a)
  rw [State.repartitioned, joinAll_cluster part c hnodup, if_pos hmem, hcl, htick, hpart]
  rfl

/-- Each gallery of the partition lies in its boundary in the device fabric (R18, R79). -/
theorem repartitioned_fabric (hfree : ∀ p ∈ s.parts, p.num ≠ part → p.galleries &&& g = 0) {k : Nat} (hk : k < 48) (hg : g.getLsbD k = true) :
    (k, part) ∈ (s.repartitioned part g rs a).drawFabric.fabric := by
  obtain ⟨al, hpart⟩ := reallotted_part (s := s) (part := part) (g := g) (rs := rs) (a := a)
  have hown : ((s.reallotted part g rs a).part part).galleries.getLsbD k = true := by rw [hpart]; exact hg
  obtain ⟨p, hp⟩ : ∃ p, (s.reallotted part g rs a).parts.find? (fun p => p.galleries.getLsbD k) = some p :=
    Option.isSome_iff_exists.mp (List.find?_isSome.mpr ⟨_, part_mem_of_gallery hown, hown⟩)
  have hnum : p.num = part := by
    refine Decidable.byContradiction fun hne => ?_
    have hand := congrArg (·.getLsbD k) (hfree p (mem_parts_of_reallotted (List.mem_of_find?_eq_some hp) hne) hne)
    have hbit : p.galleries.getLsbD k = true := List.find?_some (p := fun p : Part => p.galleries.getLsbD k) hp
    simp [hbit, hg] at hand
  refine List.mem_filterMap.mpr ⟨k, List.mem_range.mpr hk, ?_⟩
  rw [repartitioned_parts, hp, Option.map_some, hnum]

/-- A partition with new galleries: its registers, its new clusters, the fabric and measurement 7 follow; the rest stays. -/
theorem repartition_moves (h : s.mayRepartition part g rs = true) (hg : g ≠ 0)
    (hfree : ∀ p ∈ s.parts, p.num ≠ part → p.galleries &&& g = 0) :
    ∃ t, exec (.repartition part ⟨g, rs⟩ a) s = .next t ∧ (t.part part).galleries = g ∧ (t.part part).ranges = rs ∧
      (t.part part).thermal = s.thermalOf g ∧
      (∀ c ∈ (t.part part).clusters, c ∉ (s.part part).clusters →
        t.cluster c = { s.cluster c with grant := .nom, low := (s.part part).idle == 2 }.toClock (ladder (s.part part).throt) s.tick) ∧
      (t.part part).accepting = (decide (7 ≤ s.boot.at_) && !(s.part part).down) ∧
      (∀ n, n ≠ part → t.part n = s.part n) ∧ (∀ k, k < 48 → g.getLsbD k = true → (k, part) ∈ t.fabric) ∧
      t.meas = updAt s.meas 6 (fun _ => t.partDigest) ∧ t.teams = s.teams ∧ t.mem = s.mem := by
  obtain ⟨al, hreallotted⟩ := reallotted_part (s := s) (part := part) (g := g) (rs := rs) (a := a)
  have hpart := (repartitioned_part part).trans hreallotted
  have hother : ∀ n, n ≠ part → (s.repartitioned part g rs a).part n = s.part n := fun n hn =>
    (repartitioned_part n).trans (reallotted_part_ne hn)
  have hcluster := fun c => repartitioned_cluster (s := s) (part := part) (g := g) (rs := rs) (a := a) (c := c)
  have hfabric := fun k => repartitioned_fabric (part := part) (rs := rs) (a := a) hfree (k := k)
  have hframe : differsIn State.withPartitionsOf s (s.repartitioned part g rs a) := repartitioned_frame
  have hrun := execRepartition_done (a := a) h
  rw [if_neg hg] at hrun
  generalize s.repartitioned part g rs a = u at hpart hother hcluster hfabric hframe hrun
  refine ⟨_, hrun, congrArg Part.galleries hpart, congrArg Part.ranges hpart, congrArg Part.thermal hpart, fun c => hcluster c,
    congrArg Part.accepting hpart, hother, hfabric, ?_, ?_, ?_⟩
  · exact congrArg (updAt · 6 _) (differsIn_field hframe State.meas fun _ _ => rfl)
  · exact differsIn_field hframe State.teams fun _ _ => rfl
  · exact differsIn_field hframe State.mem fun _ _ => rfl

end

/-- A partition that is left without galleries is out of the list, and no function belongs to it (R77, R78). -/
theorem dissolve_spec (s : State) (part : Nat) : (∀ p, p ∈ (s.dissolve part).parts ↔ p ∈ s.parts ∧ p.num ≠ part) ∧
    ∀ v ∈ (s.dissolve part).vfs, v.part ≠ some part := by
  refine ⟨fun p => by simp [State.dissolve], fun v hv => ?_⟩
  obtain ⟨w, -, rfl⟩ := List.mem_map.mp hv
  split
  · simp
  · assumption

end Sys2Proof.Machine
end

section
/-! The statement about checkpoints and partitions, from what each step does. -/
namespace Sys2Proof.Machine

/-- Settles O51: CKPT, CHECKPOINT_COMPLETE, RESTORE, PART_ALLOT_WRITE and REPARTITION step by step. -/
theorem checkpointsAndPartitions : Obligations.CheckpointsAndPartitions := by
  unfold Obligations.CheckpointsAndPartitions
  refine ⟨fun s by_ part slot hc hby => ⟨ckpt_begins hc hby, execCkpt_refused hc hby⟩, fun s by_ part slot => ckpt_takes_image,
    fun s r i ok bytes status hr hi => ⟨fun hok => ?kept, fun hok => ?lost⟩,
    fun i hi => ⟨header_length i, header_magic i, header_reserved i, header_tick i hi, header_galleries i, ?layout, ?digest, ?rest⟩,
    fun s by_ part slot ok bytes status hby => ⟨execRestore_no_image hby, fun i ht hi => ⟨?unfit, fun hp hfit =>
      ⟨fun hok hd => ?loads, restore_fails hby ht hi hp hfit bytes status⟩⟩⟩,
    fun s part v hp => ⟨fun hlow hhigh hsum => ?allotted, fun h => partAllotWrite_refused hp (mt (allotOk_iff ..).mp h)⟩,
    fun s part g a rs => ⟨execRepartition_refused, fun hp hgate ht hr hfree => ⟨fun hg => ?moves, fun hg hq => ?ends⟩⟩⟩
  case kept => exact (execCheckpointComplete_of_image hr hi ..).trans (by rw [if_pos hok]; rfl)
  case lost => subst hok; exact checkpointComplete_fails hr hi bytes status
  case loads => subst hok; exact restore_loads hby ht hi hp hfit bytes status hd
  case layout => rw [header_layout, leNum_digestBytes]
  case digest => rw [header_digest, leNum_digestBytes]
  case rest => exact fun b hb => List.eq_of_mem_replicate (header_rest i ▸ hb)
  case unfit =>
    refine fun h => execRestore_unfit hby ht hi (h.imp_right fun h => Bool.not_eq_true _ ▸ fun hfit => ?_)
    obtain ⟨hmagic, hlayout, hgalleries⟩ := (restorable_iff ..).mp hfit
    exact h.elim (· hmagic) (·.elim (· hlayout) (· hgalleries))
  case allotted =>
    rw [execPartAllotWrite_listed v hp, writeAllot_eq, if_pos ((allotOk_iff ..).mpr ⟨hlow, hhigh, hsum⟩)]
    rfl
  case moves => exact repartition_moves (mayRepartition_of hp hgate ht hr hfree (.inl hg)) hg hfree
  case ends =>
    obtain ⟨hparts, hvfs⟩ := dissolve_spec s part
    have hdone := execRepartition_done (a := a) (mayRepartition_of hp hgate ht hr hfree (.inr hq))
    rw [if_pos hg] at hdone
    exact ⟨_, hdone, hparts, hvfs, rfl, rfl⟩

end Sys2Proof.Machine
end

section
/-! A state in which a change of an HBM stack's stage reaches a partition that has no gallery on the stack (R102, R103). -/
namespace Sys2Proof.Machine

/-- Partition 0 stands twice in the list: with gallery 0, which lies on stack 0, and with no gallery. -/
def listedTwice : State := { State.reset with parts := [{ num := 0, galleries := 1 }, { num := 0 }] }

/-- At 85 degrees stack 0 enters stage 1, and every entry numbered 0 takes the factor of the stage, by its number alone. -/
theorem listedTwice_heated : exec (.hbmThermalStage 0 85) listedTwice =
    .next { listedTwice with
      stages := [(0, 1)]
      parts := [{ num := 0, galleries := 1, thermal := [(0, 240)] }, { num := 0, thermal := [(0, 240)] }] } :=
  rfl

/-- Refutes O52: after a change of stage it has new factors for the entries with a gallery on the stack only, in every state; the
model picks partitions by number, so that an entry without galleries takes them too where another entry has its number. -/
theorem not_power : ¬ Obligations.Power := by
  unfold Obligations.Power
  intro h
  obtain ⟨-, -, -, -, -, -, -, -, -, -, -, -, -, -, -, -, hstage, -⟩ := h
  obtain ⟨-, hchange⟩ := hstage listedTwice 0 85 (by decide)
  obtain ⟨t, hrun, -, -, -, hparts⟩ := hchange (by decide)
  rw [listedTwice_heated] at hrun
  obtain rfl := Host.Outcome.next.inj hrun
  exact absurd hparts (by decide)

end Sys2Proof.Machine
end

section
/-! The frontier of a warp: which lanes its next entry has (R186), and the promoted head (R188). -/
namespace Sys2Proof.Machine

/-! ## The order of pairs (R186) -/

/-- A pair is served before another: higher priority first, then lower PC. -/
def Before (p q : BitVec 4 × Word) : Prop := q.1 < p.1 ∨ (p.1 = q.1 ∧ p.2 < q.2)

theorem pairBefore_iff (p q : BitVec 4 × Word) : pairBefore p q = true ↔ Before p q := by simp [pairBefore, Before]

theorem Before.irrefl (p : BitVec 4 × Word) : ¬ Before p p := by simp [Before]

theorem Before.asymm {p q : BitVec 4 × Word} (h : Before p q) : ¬ Before q p := by
  simp only [Before, BitVec.lt_def, ← BitVec.toNat_inj] at h ⊢
  omega

theorem not_before_trans {p q r : BitVec 4 × Word} (h : ¬ Before p q) (k : ¬ Before q r) : ¬ Before p r := by
  simp only [Before, BitVec.lt_def, ← BitVec.toNat_inj] at h k ⊢
  omega

theorem eq_of_not_before {p q : BitVec 4 × Word} (h : ¬ Before p q) (k : ¬ Before q p) : p = q := by
  simp only [Before, BitVec.lt_def] at h k
  refine Prod.ext (BitVec.toNat_inj.mp ?_) (BitVec.toNat_inj.mp ?_) <;> simp only [← BitVec.toNat_inj] at h k <;> omega

/-! ## The first of some pairs -/

/-- The fold of `bestPair` finds a pair that no other is before. -/
theorem exists_foldl_bestPair (ps : List (BitVec 4 × Word)) (q : BitVec 4 × Word) :
    ∃ p, ps.foldl bestPair (some q) = some p ∧ p ∈ q :: ps ∧ ∀ r ∈ q :: ps, ¬ Before r p := by
  induction ps generalizing q with
  | nil => exact ⟨q, rfl, List.mem_singleton_self q, by simpa using Before.irrefl q⟩
  | cons x xs ih =>
    by_cases h : Before x q
    · obtain ⟨p, hp, hmem, hfirst⟩ := ih x
      refine ⟨p, by simpa [bestPair, pairBefore_iff, h] using hp, List.mem_cons_of_mem q hmem, ?_⟩
      exact List.forall_mem_cons.mpr ⟨not_before_trans h.asymm (hfirst x List.mem_cons_self), hfirst⟩
    · obtain ⟨p, hp, hmem, hfirst⟩ := ih q
      obtain ⟨hq, hxs⟩ := List.forall_mem_cons.mp hfirst
      refine ⟨p, by simpa [bestPair, pairBefore_iff, h] using hp, ?_, ?_⟩
      · exact (List.mem_cons.mp hmem).elim (· ▸ List.mem_cons_self) fun h => List.mem_cons_of_mem q (List.mem_cons_of_mem x h)
      · exact List.forall_mem_cons.mpr ⟨hq, List.forall_mem_cons.mpr ⟨not_before_trans h hq, hxs⟩⟩

theorem foldl_bestPair_eq_none_iff (ps : List (BitVec 4 × Word)) : ps.foldl bestPair none = none ↔ ps = [] := by
  cases ps with
  | nil => simp
  | cons x xs =>
    obtain ⟨p, hp, -⟩ := exists_foldl_bestPair xs x
    simp [bestPair, hp]

theorem foldl_bestPair_eq_some_iff (ps : List (BitVec 4 × Word)) (p : BitVec 4 × Word) :
    ps.foldl bestPair none = some p ↔ p ∈ ps ∧ ∀ r ∈ ps, ¬ Before r p := by
  cases ps with
  | nil => simp
  | cons x xs =>
    obtain ⟨q, hq, hmem, hfirst⟩ := exists_foldl_bestPair xs x
    rw [List.foldl_cons, show bestPair none x = some x from rfl, hq, Option.some.injEq]
    constructor
    · rintro rfl; exact ⟨hmem, hfirst⟩
    · exact fun ⟨hp, hall⟩ => eq_of_not_before (hall q hmem) (hfirst p hp)

/-! ## Ready lanes -/

/-- A lane of the warp that lives and waits for nothing. -/
def Warp.readyIn (w : Warp) (l : Nat) : Prop := l < w.lanes.length ∧ (w.lane l).life = .live ∧ (w.lane l).wait = .none

theorem Lane.ready_iff (k : Lane) : k.ready = true ↔ k.life = .live ∧ k.wait = .none := by simp [Lane.ready]

theorem Warp.lane_of_getElem? {w : Warp} {l : Nat} {k : Lane} (h : w.lanes[l]? = some k) : w.lane l = k := by
  simp [Warp.lane, h]

theorem Warp.readyIn_iff (w : Warp) (l : Nat) : w.readyIn l ↔ ∃ k, w.lanes[l]? = some k ∧ k.ready = true := by
  constructor
  · rintro ⟨hl, hready⟩
    have hk := List.getElem?_eq_getElem hl
    exact ⟨_, hk, (Lane.ready_iff _).mpr (w.lane_of_getElem? hk ▸ hready)⟩
  · rintro ⟨k, hk, hready⟩
    exact ⟨(List.getElem?_eq_some_iff.mp hk).1, w.lane_of_getElem? hk ▸ (Lane.ready_iff k).mp hready⟩

/-- The pair of a lane that is ready. -/
def Warp.readyPair (w : Warp) (l : Nat) : Option (BitVec 4 × Word) :=
  match w.lanes[l]? with
  | some k => if k.ready then some k.pair else none
  | none => none

theorem Warp.readyPair_eq_some_iff (w : Warp) (l : Nat) (p : BitVec 4 × Word) :
    w.readyPair l = some p ↔ w.readyIn l ∧ (w.lane l).pair = p := by
  rw [w.readyIn_iff, Warp.readyPair]
  cases hk : w.lanes[l]? with
  | none => simp
  | some k => simp [w.lane_of_getElem? hk]

theorem mem_quad_iff (q j : Nat) : j ∈ [4 * q, 4 * q + 1, 4 * q + 2, 4 * q + 3] ↔ j / 4 = q := by
  simp only [List.mem_cons, List.not_mem_nil, or_false]
  omega

/-! ## Quads -/

theorem Warp.topOf_eq_foldl (w : Warp) (q : Nat) :
    w.topOf q = ([4 * q, 4 * q + 1, 4 * q + 2, 4 * q + 3].filterMap w.readyPair).foldl bestPair none := by
  rw [List.foldl_filterMap, Warp.topOf]
  congr 1
  funext o i
  rw [Warp.readyPair]
  cases w.lanes[i]? with
  | none => rfl
  | some k => cases h : k.ready <;> simp [h]

theorem Warp.mem_readyPairs_iff (w : Warp) (q : Nat) (p : BitVec 4 × Word) :
    p ∈ [4 * q, 4 * q + 1, 4 * q + 2, 4 * q + 3].filterMap w.readyPair ↔ ∃ j, j / 4 = q ∧ w.readyIn j ∧ (w.lane j).pair = p := by
  rw [List.mem_filterMap]
  exact exists_congr fun j => and_congr (mem_quad_iff q j) (w.readyPair_eq_some_iff j p)

/-- The top entry of a quad is the first pair of its ready lanes. -/
theorem Warp.topOf_eq_some_iff (w : Warp) (q : Nat) (p : BitVec 4 × Word) : w.topOf q = some p ↔
    (∃ j, j / 4 = q ∧ w.readyIn j ∧ (w.lane j).pair = p) ∧ ∀ k, k / 4 = q → w.readyIn k → ¬ Before (w.lane k).pair p := by
  rw [w.topOf_eq_foldl, foldl_bestPair_eq_some_iff, w.mem_readyPairs_iff]
  refine and_congr_right fun _ => ⟨fun h k hk hready => h _ ((w.mem_readyPairs_iff q _).mpr ⟨k, hk, hready, rfl⟩), fun h r hr => ?_⟩
  obtain ⟨k, hk, hready, rfl⟩ := (w.mem_readyPairs_iff q r).mp hr
  exact h k hk hready

/-- A quad with a ready lane has a top entry. -/
theorem Warp.exists_topOf {w : Warp} {j : Nat} (h : w.readyIn j) : ∃ p, w.topOf (j / 4) = some p := by
  refine Option.ne_none_iff_exists'.mp fun hnone => ?_
  rw [w.topOf_eq_foldl, foldl_bestPair_eq_none_iff] at hnone
  exact absurd ((w.mem_readyPairs_iff _ _).mpr ⟨j, rfl, h, rfl⟩) (hnone ▸ List.not_mem_nil)

theorem Warp.mem_quadAt_iff (w : Warp) (q j : Nat) (p : BitVec 4 × Word) :
    j ∈ w.quadAt q p ↔ j / 4 = q ∧ w.readyIn j ∧ (w.lane j).pair = p := by
  rw [Warp.quadAt, List.mem_filter, mem_quad_iff, w.readyIn_iff]
  cases hk : w.lanes[j]? with
  | none => simp
  | some k => simp [w.lane_of_getElem? hk]

/-! ## The entry without a promotion (R186) -/

theorem mem_quads_of_readyIn {w : Warp} (h32 : w.lanes.length ≤ 32) {j : Nat} (h : w.readyIn j) : j / 4 ∈ quads := by
  have hj := h.1
  simp only [quads, List.mem_range]
  omega

theorem Warp.topPair_eq_foldl (w : Warp) : w.topPair = (quads.filterMap w.topOf).foldl bestPair none := by
  rw [List.foldl_filterMap, Warp.topPair]
  congr 1
  funext o q
  cases w.topOf q <;> rfl

/-- The lanes that gang at a pair are those of the quads whose top entry it is. -/
theorem Warp.mem_gang_iff {w : Warp} (h32 : w.lanes.length ≤ 32) (j : Nat) (p : BitVec 4 × Word) : j ∈ w.gang p ↔
    w.readyIn j ∧ (w.lane j).pair = p ∧ ∀ k, k / 4 = j / 4 → w.readyIn k → ¬ Before (w.lane k).pair p := by
  simp only [Warp.gang, List.mem_flatMap]
  constructor
  · rintro ⟨q, -, hj⟩
    split at hj
    case isTrue htop =>
      obtain ⟨rfl, hready, hpair⟩ := (w.mem_quadAt_iff q j p).mp hj
      exact ⟨hready, hpair, ((w.topOf_eq_some_iff _ p).mp htop).2⟩
    case isFalse => cases hj
  · rintro ⟨hready, hpair, hfirst⟩
    refine ⟨j / 4, mem_quads_of_readyIn h32 hready, ?_⟩
    rw [if_pos ((w.topOf_eq_some_iff _ p).mpr ⟨⟨j, rfl, hready, hpair⟩, hfirst⟩)]
    exact (w.mem_quadAt_iff _ j p).mpr ⟨rfl, hready, hpair⟩

/-- The selected pair is that of a ready lane, and no ready lane's pair is before it. -/
theorem Warp.topPair_spec {w : Warp} (h32 : w.lanes.length ≤ 32) {p : BitVec 4 × Word} (h : w.topPair = some p) :
    (∃ j, w.readyIn j ∧ (w.lane j).pair = p) ∧ ∀ k, w.readyIn k → ¬ Before (w.lane k).pair p := by
  rw [w.topPair_eq_foldl, foldl_bestPair_eq_some_iff] at h
  obtain ⟨hmem, hfirst⟩ := h
  obtain ⟨q, -, htop⟩ := List.mem_filterMap.mp hmem
  obtain ⟨⟨j, -, hj⟩, -⟩ := (w.topOf_eq_some_iff q p).mp htop
  refine ⟨⟨j, hj⟩, fun k hk => ?_⟩
  obtain ⟨r, hr⟩ := Warp.exists_topOf hk
  exact not_before_trans (((w.topOf_eq_some_iff _ r).mp hr).2 k rfl hk)
    (hfirst r (List.mem_filterMap.mpr ⟨k / 4, mem_quads_of_readyIn h32 hk, hr⟩))

theorem Warp.topPair_eq_none_iff {w : Warp} (h32 : w.lanes.length ≤ 32) : w.topPair = none ↔ ∀ l, ¬ w.readyIn l := by
  refine ⟨fun h l hl => ?_, fun h => Option.eq_none_iff_forall_ne_some.mpr fun p hp => ?_⟩
  · rw [w.topPair_eq_foldl, foldl_bestPair_eq_none_iff] at h
    obtain ⟨r, hr⟩ := Warp.exists_topOf hl
    exact absurd (List.mem_filterMap.mpr ⟨l / 4, mem_quads_of_readyIn h32 hl, hr⟩) (h ▸ List.not_mem_nil)
  · obtain ⟨⟨j, hj, -⟩, -⟩ := Warp.topPair_spec h32 hp
    exact h j hj

theorem Warp.entry_of_promo_nil {w : Warp} (h : w.promo = []) : w.entry = (w.topPair.map w.gang).getD [] := by
  rw [Warp.entry, show w.promoted = none by simp [Warp.promoted, h]]
  cases w.topPair <;> rfl

/-- With nothing promoted the entry has the ready lanes whose pair is the first of the warp. -/
theorem Warp.mem_entry_iff_of_promo_nil {w : Warp} (h32 : w.lanes.length ≤ 32) (h : w.promo = []) (j : Nat) : j ∈ w.entry ↔
    w.readyIn j ∧ ∀ k, w.readyIn k → ¬ Before (w.lane k).pair (w.lane j).pair := by
  rw [Warp.entry_of_promo_nil h]
  cases htop : w.topPair with
  | none => simpa using fun hj => absurd hj ((Warp.topPair_eq_none_iff h32).mp htop j)
  | some p =>
    obtain ⟨⟨i, hi, rfl⟩, hfirst⟩ := Warp.topPair_spec h32 htop
    rw [Option.map_some, Option.getD_some, Warp.mem_gang_iff h32]
    refine and_congr_right fun hj => ⟨fun ⟨hpair, _⟩ => hpair ▸ hfirst, fun hall => ?_⟩
    exact ⟨eq_of_not_before (hfirst j hj) (hall i hi), fun k _ => hfirst k⟩

theorem Warp.entry_eq_nil_iff_of_promo_nil {w : Warp} (h32 : w.lanes.length ≤ 32) (h : w.promo = []) :
    w.entry = [] ↔ ∀ l, ¬ w.readyIn l := by
  refine ⟨fun hnil => (Warp.topPair_eq_none_iff h32).mp ?_, fun hnone => List.eq_nil_iff_forall_not_mem.mpr fun j hj =>
    hnone j ((Warp.mem_entry_iff_of_promo_nil h32 h j).mp hj).1⟩
  refine Option.eq_none_iff_forall_ne_some.mpr fun p hp => ?_
  obtain ⟨⟨j, hj, rfl⟩, hfirst⟩ := Warp.topPair_spec h32 hp
  exact absurd ((Warp.mem_entry_iff_of_promo_nil h32 h j).mpr ⟨hj, hfirst⟩) (hnil ▸ List.not_mem_nil)

/-! ## The entry of the promoted head (R188) -/

/-- The entry of a promoted head is its first ready lane's entry in its quad, with the quads whose top entry equals it. -/
theorem Warp.mem_entry_iff_of_promo_cons {w : Warp} {p : Promo} {ps : List Promo} {l : Nat} (h32 : w.lanes.length ≤ 32)
    (hpromo : w.promo = p :: ps) (hl : (p.lanes.find? fun j => (w.lane j).ready) = some l) (j : Nat) : j ∈ w.entry ↔
    w.readyIn j ∧ (w.lane j).pair = (w.lane l).pair ∧
      (j / 4 = l / 4 ∨ ∀ k, k / 4 = j / 4 → w.readyIn k → ¬ Before (w.lane k).pair (w.lane j).pair) := by
  have hruns : (p.lanes.any fun j => (w.lane j).ready) = true :=
    List.any_eq_true.mpr ⟨l, List.mem_of_find?_eq_some hl, by simpa using List.find?_some hl⟩
  have hhead : w.promoted = some p := by simp [Warp.promoted, hpromo, -List.any_eq_true, hruns]
  simp only [Warp.entry, hhead, hl, List.mem_filter, List.mem_range, Bool.or_eq_true, List.contains_iff_mem, w.mem_quadAt_iff,
    Warp.mem_gang_iff h32]
  constructor
  · rintro ⟨-, ⟨hquad, hready, hpair⟩ | ⟨hready, hpair, hfirst⟩⟩
    · exact ⟨hready, hpair, .inl hquad⟩
    · exact ⟨hready, hpair, .inr (hpair ▸ hfirst)⟩
  · rintro ⟨hready, hpair, hquad | hfirst⟩
    · exact ⟨Nat.lt_of_lt_of_le hready.1 h32, .inl ⟨hquad, hready, hpair⟩⟩
    · exact ⟨Nat.lt_of_lt_of_le hready.1 h32, .inr ⟨hready, hpair, hpair ▸ hfirst⟩⟩

end Sys2Proof.Machine
end

section
/-! Ages and promotions after an issue (R188). -/
namespace Sys2Proof.Machine

/-! ## Ages -/

/-- The age of a live lane after an issue, before lanes of one entry take the greatest of theirs. -/
def Warp.ageAfter (w : Warp) (entry : List Nat) (l : Nat) : Nat := if l ∈ entry then 0 else (w.lane l).age + 1

/-- A live lane of the quad of `l` at its pair: the lanes of one frontier entry. -/
def Warp.mate (w : Warp) (l j : Nat) : Prop :=
  j < w.lanes.length ∧ j / 4 = l / 4 ∧ (w.lane j).life = .live ∧ (w.lane j).pair = (w.lane l).pair

theorem foldl_max_spec (a : Nat) (xs : List Nat) : xs.foldl max a ∈ a :: xs ∧ ∀ b ∈ a :: xs, b ≤ xs.foldl max a :=
  List.max?_eq_some_iff.mp List.max?_cons'

theorem ageLanes_getElem? (entry : List Nat) (n : Nat) (xs : List Lane) (j : Nat) : (ageLanes entry n xs)[j]? =
    xs[j]?.map fun k => if k.life == .live then (if entry.contains (n + j) then { k with age := 0, mid := false }
      else { k with age := k.age + 1 }) else k := by
  induction xs generalizing n j with
  | nil => rfl
  | cons x xs ih =>
    cases j with
    | zero => simp [ageLanes]
    | succ j => simp only [ageLanes, List.getElem?_cons_succ, ih]; rw [show n + 1 + j = n + (j + 1) by omega]

/-- The age of a lane that lives at a pair. -/
def liveAge (ls : List Lane) (p : BitVec 4 × Word) (j : Nat) : Option Nat :=
  match ls[j]? with
  | some k => if k.life == .live && k.pair == p then some k.age else none
  | none => none

theorem liveAge_eq_some_iff {ls : List Lane} {j : Nat} {p : BitVec 4 × Word} {n : Nat} :
    liveAge ls p j = some n ↔ ∃ k, ls[j]? = some k ∧ k.life = .live ∧ k.pair = p ∧ k.age = n := by
  rw [liveAge]
  cases ls[j]? with
  | none => simp
  | some k => simp [and_assoc]

/-- The lanes of a quad that live at one pair take the greatest of their ages. -/
theorem joinAges_age {ls : List Lane} {i : Nat} {k : Lane} (h : ls[i]? = some k) (hlive : k.life = .live) :
    ∃ m, (joinAges ls)[i]? = some { k with age := m } ∧ (∃ j, j / 4 = i / 4 ∧ liveAge ls k.pair j = some m) ∧
      ∀ j n, j / 4 = i / 4 → liveAge ls k.pair j = some n → n ≤ m := by
  have hi : i < ls.length := (List.getElem?_eq_some_iff.mp h).1
  obtain ⟨hmem, hle⟩ := foldl_max_spec k.age
    ([4 * (i / 4), 4 * (i / 4) + 1, 4 * (i / 4) + 2, 4 * (i / 4) + 3].filterMap (liveAge ls k.pair))
  refine ⟨_, ?joined, ?attained, fun j n hj hn => hle n (List.mem_cons_of_mem _ (List.mem_filterMap.mpr ⟨j, (mem_quad_iff _ j).mpr hj, hn⟩))⟩
  case joined =>
    simp only [joinAges, List.getElem?_map, List.getElem?_range hi, Option.map_some, h, hlive, beq_self_eq_true, if_true]
    rw [List.foldl_filterMap]
    congr 4
    funext m j
    rw [liveAge]
    cases ls[j]? with
    | none => rfl
    | some x => dsimp only; split <;> rfl
  case attained =>
    rcases List.mem_cons.mp hmem with hown | hmem
    · exact ⟨i, rfl, liveAge_eq_some_iff.mpr ⟨k, h, hlive, rfl, hown.symm⟩⟩
    · obtain ⟨j, hj, hm⟩ := List.mem_filterMap.mp hmem
      exact ⟨j, (mem_quad_iff _ j).mp hj, hm⟩

/-- The warp after an issue with its lanes' ages and its head's run, before the queue changes. -/
def Warp.aged (w : Warp) (entry : List Nat) (transfer : Bool) : Warp :=
  { w with lanes := joinAges (ageLanes entry 0 w.lanes), promo := headRun entry transfer w.promo }

theorem Warp.aged_lane_alike (w : Warp) (entry : List Nat) (transfer : Bool) (l : Nat) :
    ((w.aged entry transfer).lane l).alike (w.lane l) :=
  Lane.alike_trans (joinAges_alike _ l) ((ageLanes_spec entry 0 w.lanes).2 l)

@[simp] theorem Warp.aged_length (w : Warp) (entry : List Nat) (transfer : Bool) :
    (w.aged entry transfer).lanes.length = w.lanes.length := by
  simp [Warp.aged, joinAges_length, (ageLanes_spec entry 0 w.lanes).1]

/-- Ages and `mid` are all in which lanes alike can differ. -/
theorem Lane.fields_of_alike {a b : Lane} (h : a.alike b) : a.life = b.life ∧ a.wait = b.wait ∧ a.pair = b.pair :=
  have h : { a with age := 0, mid := false } = { b with age := 0, mid := false } := h
  ⟨(congrArg Lane.life h :), (congrArg Lane.wait h :), (congrArg Lane.pair h :)⟩

section
variable (w : Warp) (entry : List Nat) (transfer : Bool)

theorem Warp.aged_ready (l : Nat) : ((w.aged entry transfer).lane l).ready = (w.lane l).ready := by
  obtain ⟨hlife, hwait, -⟩ := Lane.fields_of_alike (w.aged_lane_alike entry transfer l)
  rw [Lane.ready, Lane.ready, hlife, hwait]

theorem Warp.aged_readyIn_iff (l : Nat) : (w.aged entry transfer).readyIn l ↔ w.readyIn l := by
  obtain ⟨hlife, hwait, -⟩ := Lane.fields_of_alike (w.aged_lane_alike entry transfer l)
  rw [Warp.readyIn, Warp.readyIn, w.aged_length, hlife, hwait]

theorem Warp.aged_mate_iff (l j : Nat) : (w.aged entry transfer).mate l j ↔ w.mate l j := by
  obtain ⟨-, -, hpair⟩ := Lane.fields_of_alike (w.aged_lane_alike entry transfer l)
  obtain ⟨hlife, -, hpair'⟩ := Lane.fields_of_alike (w.aged_lane_alike entry transfer j)
  rw [Warp.mate, Warp.mate, w.aged_length, hlife, hpair, hpair']

/-- An aged lane that lives has its own age, before it takes that of a mate. -/
theorem ageLanes_getElem?_of_live {l : Nat} (hl : l < w.lanes.length) (hlive : (w.lane l).life = .live) :
    ∃ k, (ageLanes entry 0 w.lanes)[l]? = some k ∧ k.life = .live ∧ k.pair = (w.lane l).pair ∧ k.age = w.ageAfter entry l := by
  have hk := List.getElem?_eq_getElem hl
  have hlane := w.lane_of_getElem? hk
  rw [ageLanes_getElem?, hk, Option.map_some, ← hlane, Nat.zero_add, Warp.ageAfter]
  refine ⟨_, rfl, ?_⟩
  by_cases h : l ∈ entry <;> simp [hlive, h, Lane.pair]

/-- The lanes of a quad that live at the pair of a lane are its mates, with the ages they have after the issue. -/
theorem liveAge_ageLanes_iff (l j n : Nat) : j / 4 = l / 4 ∧ liveAge (ageLanes entry 0 w.lanes) (w.lane l).pair j = some n ↔
    w.mate l j ∧ w.ageAfter entry j = n := by
  rw [liveAge_eq_some_iff]
  constructor
  · rintro ⟨hquad, k, hk, hlive, hpair, rfl⟩
    have hj : j < w.lanes.length := (ageLanes_spec entry 0 w.lanes).1 ▸ (List.getElem?_eq_some_iff.mp hk).1
    have halike := (ageLanes_spec entry 0 w.lanes).2 j
    rw [hk] at halike
    obtain ⟨hlife, -, hpair'⟩ := Lane.fields_of_alike halike
    have hlive' : (w.lane j).life = .live := hlife.symm.trans hlive
    obtain ⟨k', hk', -, -, hage⟩ := ageLanes_getElem?_of_live w entry hj hlive'
    obtain rfl := Option.some.inj (hk.symm.trans hk')
    exact ⟨⟨hj, hquad, hlive', hpair'.symm.trans hpair⟩, hage.symm⟩
  · rintro ⟨⟨hj, hquad, hlive, hpair⟩, rfl⟩
    obtain ⟨k, hk, hlife, hpair', hage⟩ := ageLanes_getElem?_of_live w entry hj hlive
    exact ⟨hquad, k, hk, hlife, hpair'.trans hpair, hage⟩

/-- After an issue a live lane has the greatest of the ages of the lanes of its entry. -/
theorem Warp.aged_age {l : Nat} (hl : l < w.lanes.length) (hlive : (w.lane l).life = .live) :
    (∃ j, w.mate l j ∧ ((w.aged entry transfer).lane l).age = w.ageAfter entry j) ∧
    ∀ j, w.mate l j → w.ageAfter entry j ≤ ((w.aged entry transfer).lane l).age := by
  obtain ⟨k, hk, hlife, hpair, -⟩ := ageLanes_getElem?_of_live w entry hl hlive
  obtain ⟨m, hm, ⟨i, hi, hmi⟩, hmax⟩ := joinAges_age hk hlife
  rw [Warp.lane_of_getElem? (w := w.aged entry transfer) hm]
  rw [hpair] at hmi hmax
  constructor
  · obtain ⟨hmate, hage⟩ := (liveAge_ageLanes_iff w entry l i m).mp ⟨hi, hmi⟩
    exact ⟨i, hmate, hage.symm⟩
  · intro j hmate
    obtain ⟨hj, hn⟩ := (liveAge_ageLanes_iff w entry l j _).mpr ⟨hmate, rfl⟩
    exact hmax j _ hj hn

end

/-! ## Promotion -/

/-- A ready lane whose age has reached FAIRN. -/
def Warp.due (w : Warp) (fairn l : Nat) : Prop := w.readyIn l ∧ fairn ≤ (w.lane l).age

/-- A lane whose entry is queued belongs to a queued entry, or stands at the pair of one of its lanes. -/
theorem Warp.queued_iff (w : Warp) {l : Nat} (hl : l / 4 * 4 + 3 < w.lanes.length) : w.queued l = true ↔
    ∃ p ∈ w.promo ++ w.away, l ∈ p.lanes ∨ ∃ j ∈ p.lanes, w.mate l j := by
  simp only [Warp.queued, List.any_eq_true, Bool.or_eq_true, List.contains_iff_mem, Bool.and_eq_true, beq_iff_eq, Warp.mate]
  refine exists_congr fun p => and_congr_right fun _ => or_congr_right (exists_congr fun j => and_congr_right fun _ => ?_)
  constructor
  · rintro ⟨⟨hquad, hlive⟩, hpair⟩; exact ⟨by omega, hquad, hlive, hpair⟩
  · rintro ⟨-, hquad, hlive, hpair⟩; exact ⟨⟨hquad, hlive⟩, hpair⟩

/-- More promoted entries leave what is queued queued. -/
theorem Warp.queued_append {w : Warp} {l : Nat} (ps : List Promo) (h : w.queued l = true) :
    ({ w with promo := w.promo ++ ps } : Warp).queued l = true := by
  obtain ⟨p, hp, h⟩ := List.any_eq_true.mp h
  refine List.any_eq_true.mpr ⟨p, ?_, h⟩
  rcases List.mem_append.mp hp with hp | hp
  · exact List.mem_append_left _ (List.mem_append_left _ hp)
  · exact List.mem_append_right _ hp

/-- A ready lane is in the entry that it is promoted with. -/
theorem Warp.mem_promoOf {w : Warp} {l : Nat} (h : w.readyIn l) : l ∈ (w.promoOf l).lanes :=
  (w.mem_quadAt_iff _ l _).mpr ⟨rfl, h, rfl⟩

theorem Warp.mem_promoOf_iff (w : Warp) (l j : Nat) : j ∈ (w.promoOf l).lanes ↔ w.readyIn j ∧ w.mate l j := by
  refine (w.mem_quadAt_iff _ j _).trans ⟨fun ⟨hquad, hready, hpair⟩ => ?_, fun ⟨hready, _, hquad, _, hpair⟩ => ⟨hquad, hready, hpair⟩⟩
  exact ⟨hready, hready.1, hquad, hready.2.1, hpair⟩

/-- One lane's turn in a promotion. -/
def Warp.promoteLane (fairn : Nat) (w : Warp) (i : Nat) : Warp :=
  match w.lanes[i]? with
  | some l => if l.ready && decide (fairn ≤ l.age) && !w.queued i then { w with promo := w.promo ++ [w.promoOf i] } else w
  | none => w

theorem Warp.promote_eq_foldl (w : Warp) (fairn : Nat) : w.promote fairn = (List.range 32).foldl (Warp.promoteLane fairn) w := rfl

theorem Warp.due_iff (w : Warp) (fairn l : Nat) : w.due fairn l ↔ ∃ k, w.lanes[l]? = some k ∧ k.ready = true ∧ fairn ≤ k.age := by
  rw [Warp.due, w.readyIn_iff]
  constructor
  · rintro ⟨⟨k, hk, hready⟩, hage⟩; exact ⟨k, hk, hready, w.lane_of_getElem? hk ▸ hage⟩
  · rintro ⟨k, hk, hready, hage⟩; exact ⟨⟨k, hk, hready⟩, (w.lane_of_getElem? hk).symm ▸ hage⟩

/-- A lane's turn promotes its entry where the lane is due and not queued, and else changes nothing. -/
theorem Warp.promoteLane_cases (fairn : Nat) (w : Warp) (i : Nat) :
    (w.promoteLane fairn i = w ∧ (w.due fairn i → w.queued i = true)) ∨
    (w.promoteLane fairn i = { w with promo := w.promo ++ [w.promoOf i] } ∧ w.due fairn i) := by
  rw [w.due_iff, Warp.promoteLane]
  cases w.lanes[i]? with
  | none => simp
  | some k => cases hq : w.queued i <;> by_cases hdue : k.ready = true ∧ fairn ≤ k.age <;> simp [hdue]

/-- A promotion appends the entries of some due lanes, in the order of their turns; a due lane that has had its turn is queued. -/
theorem Warp.foldl_promoteLane_spec (fairn : Nat) (is : List Nat) (w : Warp) : ∃ ls : List Nat, ls.Sublist is ∧
    is.foldl (Warp.promoteLane fairn) w = { w with promo := w.promo ++ ls.map w.promoOf } ∧ (∀ l ∈ ls, w.due fairn l) ∧
    ∀ l ∈ is, w.due fairn l → (is.foldl (Warp.promoteLane fairn) w).queued l = true := by
  induction is generalizing w with
  | nil => exact ⟨[], .slnil, by simp, by simp, by simp⟩
  | cons i is ih =>
    rw [List.foldl_cons]
    obtain ⟨hstep, hqueued⟩ | ⟨hstep, hdue⟩ := w.promoteLane_cases fairn i
    · obtain ⟨ls, hsub, hfold, hls, his⟩ := ih w
      rw [hstep]
      refine ⟨ls, hsub.cons i, hfold, hls, List.forall_mem_cons.mpr ⟨fun h => ?_, his⟩⟩
      exact hfold ▸ Warp.queued_append _ (hqueued h)
    · obtain ⟨ls, hsub, hfold, hls, his⟩ := ih { w with promo := w.promo ++ [w.promoOf i] }
      rw [hstep]
      refine ⟨i :: ls, hsub.cons_cons i, ?_, List.forall_mem_cons.mpr ⟨hdue, hls⟩, List.forall_mem_cons.mpr ⟨fun _ => ?_, his⟩⟩
      · rw [hfold, List.append_assoc]
        rfl
      · rw [hfold]
        refine Warp.queued_append _ (List.any_eq_true.mpr ⟨w.promoOf i, by simp, ?_⟩)
        simp [Warp.mem_promoOf hdue.1]

theorem Warp.promote_spec (w : Warp) (fairn : Nat) : ∃ ls : List Nat, ls.Sublist (List.range 32) ∧
    w.promote fairn = { w with promo := w.promo ++ ls.map w.promoOf } ∧ (∀ l ∈ ls, w.due fairn l) ∧
    ∀ l ∈ List.range 32, w.due fairn l → (w.promote fairn).queued l = true :=
  Warp.foldl_promoteLane_spec fairn (List.range 32) w

/-- Promoted entries stand by ascending quad (R188). -/
theorem Warp.promoOf_quads_pairwise {w : Warp} {ls : List Nat} (hsub : ls.Sublist (List.range 32)) (hready : ∀ l ∈ ls, w.readyIn l) :
    ((ls.map w.promoOf).map fun p => (p.lanes.head?).getD 0 / 4).Pairwise (· ≤ ·) := by
  have hquad : ∀ l ∈ ls, ((w.promoOf l).lanes.head?).getD 0 / 4 = l / 4 := fun l hl => by
    have hne := List.ne_nil_of_mem (Warp.mem_promoOf (hready l hl))
    rw [List.head?_eq_some_head hne, Option.getD_some]
    exact ((w.mem_quadAt_iff _ _ _).mp (List.head_mem hne)).1
  have hmap : (ls.map w.promoOf).map (fun p => (p.lanes.head?).getD 0 / 4) = ls.map (· / 4) :=
    List.map_map.trans (List.map_congr_left hquad)
  rw [hmap, List.pairwise_map]
  exact (List.pairwise_lt_range.sublist hsub).imp fun h => Nat.div_le_div_right (Nat.le_of_lt h)

/-! ## Entries that block and come back -/

theorem Warp.leaveQueue_of_runs {w : Warp} (h : ∀ p ∈ w.promo, w.runs p = true) : w.leaveQueue = w := by
  have hblocked : (w.promo.filter fun p => !w.runs p && w.lives p) = [] :=
    List.filter_eq_nil_iff.mpr fun p hp => by simp [h p hp]
  simp [Warp.leaveQueue, List.filter_eq_self.mpr h, hblocked]

theorem Warp.rejoin_of_away_nil {w : Warp} (h : w.away = []) : w.rejoin = w := by
  cases w
  simp_all [Warp.rejoin]

/-- The run of the head changes no entry's lanes. -/
theorem exists_of_mem_headRun {entry : List Nat} {transfer : Bool} {ps : List Promo} {p : Promo}
    (h : p ∈ headRun entry transfer ps) : ∃ q ∈ ps, q.lanes = p.lanes := by
  induction ps with
  | nil => cases h
  | cons q qs ih =>
    have tail (hp : p ∈ qs) : ∃ q' ∈ q :: qs, q'.lanes = p.lanes := ⟨p, List.mem_cons_of_mem q hp, rfl⟩
    rw [headRun] at h
    split at h
    · split at h
      · exact tail h
      · exact (List.mem_cons.mp h).elim (fun hp => ⟨q, List.mem_cons_self, hp ▸ rfl⟩) tail
    · rcases List.mem_cons.mp h with rfl | hp
      · exact ⟨p, List.mem_cons_self, rfl⟩
      · obtain ⟨q', hq', hlanes⟩ := ih hp
        exact ⟨q', List.mem_cons_of_mem q hq', hlanes⟩

/-- The head's run ends at a transfer or its 32nd instruction. -/
theorem headRun_cons_of_issued {entry : List Nat} {p : Promo} (transfer : Bool) (ps : List Promo) (h : ∃ l ∈ p.lanes, l ∈ entry) :
    headRun entry transfer (p :: ps) = if transfer = true ∨ 31 ≤ p.run then ps else { p with run := p.run + 1 } :: ps := by
  have hany : p.lanes.any entry.contains = true := by simpa [List.any_eq_true] using h
  rw [headRun, if_pos hany]
  simp

/-! ## The warp after an issue -/

section
variable {w : Warp} (entry : List Nat) (transfer : Bool) (fairn : Nat) (hrole : w.role ≠ .movement)
include hrole

theorem Warp.afterIssue_eq : w.afterIssue entry transfer fairn = (w.aged entry transfer).leaveQueue.rejoin.promote fairn := by
  rw [Warp.afterIssue, if_neg (by simpa using hrole)]
  rfl

theorem Warp.afterIssue_lane (l : Nat) : (w.afterIssue entry transfer fairn).lane l = (w.aged entry transfer).lane l := by
  obtain ⟨q, hq⟩ := promote_eq (w.aged entry transfer).leaveQueue.rejoin fairn
  rw [Warp.afterIssue_eq entry transfer fairn hrole, hq]
  rfl

/-- A ready lane of age FAIRN is queued, or its entry is. -/
theorem Warp.afterIssue_queued (hlen : w.lanes.length = 32) {l : Nat} (hl : w.readyIn l)
    (hage : fairn ≤ ((w.afterIssue entry transfer fairn).lane l).age) :
    ∃ p ∈ (w.afterIssue entry transfer fairn).promo ++ (w.afterIssue entry transfer fairn).away,
      l ∈ p.lanes ∨ ∃ j ∈ p.lanes, w.mate l j := by
  rw [Warp.afterIssue_lane entry transfer fairn hrole] at hage
  have hl32 : l < 32 := hlen ▸ hl.1
  obtain ⟨ls, -, hpromote, -, hdue⟩ := (w.aged entry transfer).leaveQueue.rejoin.promote_spec fairn
  have hqueued := hdue l (List.mem_range.mpr hl32) ⟨(w.aged_readyIn_iff entry transfer l).mpr hl, hage⟩
  have hlanes : ((w.aged entry transfer).leaveQueue.rejoin.promote fairn).lanes = (w.aged entry transfer).lanes := by rw [hpromote]; rfl
  rw [Warp.queued_iff _ (by rw [hlanes, w.aged_length]; omega)] at hqueued
  rw [Warp.afterIssue_eq entry transfer fairn hrole]
  obtain ⟨p, hp, h⟩ := hqueued
  refine ⟨p, hp, h.imp_right fun ⟨j, hj, hmate⟩ => ⟨j, hj, ?_⟩⟩
  rw [hpromote] at hmate
  exact (w.aged_mate_iff entry transfer l j).mp hmate

/-- Where every promoted entry can run, the queue after an issue is the queue with the head's run, then the new entries. -/
theorem Warp.afterIssue_promo (haway : w.away = []) (hruns : ∀ p ∈ w.promo, ∃ l ∈ p.lanes, (w.lane l).ready = true) :
    ∃ new : List Promo, (w.afterIssue entry transfer fairn).promo = headRun entry transfer w.promo ++ new ∧
      (new.map fun p => (p.lanes.head?).getD 0 / 4).Pairwise (· ≤ ·) ∧
      ∀ p ∈ new, p.run = 0 ∧ ∃ l, w.readyIn l ∧ fairn ≤ ((w.afterIssue entry transfer fairn).lane l).age ∧
        ∀ j, j ∈ p.lanes ↔ w.readyIn j ∧ w.mate l j := by
  have hleave : (w.aged entry transfer).leaveQueue = w.aged entry transfer := Warp.leaveQueue_of_runs fun p hp => by
    obtain ⟨q, hq, hlanes⟩ := exists_of_mem_headRun hp
    obtain ⟨l, hl, hready⟩ := hruns q hq
    exact List.any_eq_true.mpr ⟨l, hlanes ▸ hl, (w.aged_ready entry transfer l).trans hready⟩
  have hqueue : w.afterIssue entry transfer fairn = (w.aged entry transfer).promote fairn := by
    rw [Warp.afterIssue_eq entry transfer fairn hrole, hleave, Warp.rejoin_of_away_nil (w := w.aged entry transfer) haway]
  obtain ⟨ls, hsub, hpromote, hdue, -⟩ := (w.aged entry transfer).promote_spec fairn
  refine ⟨ls.map (w.aged entry transfer).promoOf, by rw [hqueue, hpromote]; rfl,
    Warp.promoOf_quads_pairwise hsub fun l hl => (hdue l hl).1, fun p hp => ?_⟩
  obtain ⟨l, hl, rfl⟩ := List.mem_map.mp hp
  obtain ⟨hready, hage⟩ := hdue l hl
  refine ⟨rfl, l, (w.aged_readyIn_iff entry transfer l).mp hready, ?_, fun j => ?_⟩
  · rwa [Warp.afterIssue_lane entry transfer fairn hrole]
  · rw [Warp.mem_promoOf_iff, w.aged_readyIn_iff, w.aged_mate_iff]

end

/-! ## The statement -/

/-- Settles O11: the entry holds the lanes at the first pair of the ready lanes, since `bestPair` finds the first pair of a quad and
then of the warp, and a promoted head's entry gangs with the quads whose first pair it is; what an issue does to ages and to the
queue is what each lane's turn in `promote` does. -/
theorem frontierSelection : Obligations.FrontierSelection := by
  unfold Obligations.FrontierSelection
  refine ⟨fun w h32 hpromo => ⟨Warp.entry_eq_nil_iff_of_promo_nil h32 hpromo, fun l hl => ?first, fun l hl j hj => ?gang⟩,
    fun w p ps l h32 hpromo hl j => Warp.mem_entry_iff_of_promo_cons h32 hpromo hl j,
    fun w entry transfer fairn hlen hrole => ⟨fun l hl hlive => ?age, fun l hl hage => ?queued, fun haway hruns => ?order,
      fun p ps h => headRun_cons_of_issued transfer ps h⟩⟩
  case first => exact (Warp.mem_entry_iff_of_promo_nil h32 hpromo l).mp hl
  case gang =>
    obtain ⟨hready, hfirst⟩ := (Warp.mem_entry_iff_of_promo_nil h32 hpromo l).mp hl
    rw [Warp.mem_entry_iff_of_promo_nil h32 hpromo j]
    exact ⟨fun hpair => ⟨hj, hpair ▸ hfirst⟩, fun ⟨_, hall⟩ => eq_of_not_before (hfirst j hj) (hall l hready)⟩
  case age => exact Warp.afterIssue_lane entry transfer fairn hrole l ▸ w.aged_age entry transfer hl hlive
  case queued => exact Warp.afterIssue_queued entry transfer fairn hrole hlen hl hage
  case order => exact Warp.afterIssue_promo entry transfer fairn hrole haway hruns

end Sys2Proof.Machine
end

section
/-! A state in which the write-back of a fused cluster's L1s takes the number that a placed team would have had (R182, R256). -/
namespace Sys2Proof.Machine

theorem mem_of_findKey {key : α → Nat} {n : Nat} {l : List α} {x : α} (h : findKey key n l = some x) : x ∈ l :=
  List.mem_of_find?_eq_some h

/-- What TEAM_PLACE does where a class is the highest of which something fits: the head's wait is timed, the visits of higher
classes end, and the candidate is placed (R173, R174, R176). -/
theorem execTeamPlace_of_pickClass {s : State} {n cls : Nat} {c : Cand} {turn : Option (Nat × Nat)} {sps : List Spot}
    (hplaces : (s.part n).places = true) (hcls : cls ≤ 3) (hhigher : ∀ h, h < cls → s.pickClass (s.part n) h = none)
    (hpick : s.pickClass (s.part n) cls = some (c, turn, sps)) :
    exec (.teamPlace n) s = .next (wakeAll (((s.watchHead (s.part n)).updPart n fun p =>
      p.endVisits fun k => decide (k < c.grid.cls)).placeCand n c turn sps)) := by
  have hfirst : [0, 1, 2, 3].findSome? (fun h => s.pickClass (s.part n) h) = some (c, turn, sps) := by
    match cls, hcls with
    | 0, _ => simp [hpick]
    | 1, _ => simp [hpick, hhigher 0 (by decide)]
    | 2, _ => simp [hpick, hhigher 0 (by decide), hhigher 1 (by decide)]
    | 3, _ => simp [hpick, hhigher 0 (by decide), hhigher 1 (by decide), hhigher 2 (by decide)]
  show execTeamPlace n s = _
  simp [execTeamPlace, hplaces, hfirst]

/-- A grid of context 1 waits. Cluster 0 is still fused for context 2, of which no team stands there any more (a terminated
context leaves it so, log 41), and core 0 holds core-dirty a byte of peer 1. -/
def leftFused : State :=
  ((teamed id []).updCluster 0 fun c => { c with fused := some 2 }).updCore 0 fun k =>
    { k with dirty := [{ ctx := 2, tag := 0, loc := 2 ^ 48, val := 1, tick := 0 }] }

/-- The team that waits. -/
def waitingCand : Cand := { grid := someGrid id, idx := [0], resumed := false }

/-- The spot that is found for it. -/
def firstSpot : Spot := { idx := 0, core := 0, upper := none, pipes := [0], pipes2 := [], line := 0, line2 := 0 }

theorem leftFused_picks : (leftFused.part 0).places = true ∧ (∀ h, h < 1 → leftFused.pickClass (leftFused.part 0) h = none) ∧
    leftFused.pickClass (leftFused.part 0) 1 = some (waitingCand, some (0, 1), [firstSpot]) ∧
    leftFused.team? leftFused.nextKey = none := by decide +kernel

/-- The state after TEAM_PLACE. -/
def leftFusedPlaced : State :=
  wakeAll (((leftFused.watchHead (leftFused.part 0)).updPart 0 fun p => p.endVisits fun k => decide (k < waitingCand.grid.cls)).placeCand 0
    waitingCand (some (0, 1)) [firstSpot])

theorem leftFused_place : exec (.teamPlace 0) leftFused = .next leftFusedPlaced :=
  have ⟨hplaces, hhigher, hpick, _⟩ := leftFused_picks
  execTeamPlace_of_pickClass hplaces (by decide) hhigher hpick

/-- The placement unfuses the cluster first, and the write to the peer takes number 20, the next one before the step: the team
gets 21. -/
theorem leftFusedPlaced_keys : leftFused.nextKey = 20 ∧ leftFusedPlaced.asks.map Ask.tag = [20] ∧
    leftFusedPlaced.teams.map Team.key = [21] := by decide +kernel

/-- Refutes O55: it gives the team placed the number that was next before the step, in every state; where the placement unfuses
a cluster whose L1s hold core-dirty bytes of a peer, the request that writes them takes this number first. -/
theorem not_teamsMove : ¬ Obligations.TeamsMove := by
  unfold Obligations.TeamsMove
  intro h
  obtain ⟨hplace, -⟩ := h
  obtain ⟨hplaces, hhigher, hpick, hfree⟩ := leftFused_picks
  obtain ⟨t, u, hrun, hteam, -⟩ := hplace leftFused 0 1 waitingCand (some (0, 1)) firstSpot hplaces (by decide) hhigher hpick rfl hfree
  rw [leftFused_place] at hrun
  obtain rfl := Host.Outcome.next.inj hrun
  obtain ⟨hnext, -, hkeys⟩ := leftFusedPlaced_keys
  have hkey : leftFused.nextKey ∈ leftFusedPlaced.teams.map Team.key :=
    List.mem_map.mpr ⟨u, mem_of_findKey hteam, findKey_key hteam⟩
  rw [hnext, hkeys] at hkey
  exact absurd hkey (by decide)

end Sys2Proof.Machine
end
